-- ==== Sys2Proof/Word.lean ====
section
/-!
DEFINITION. The word types of the IXW-1200 model and the one shape of sparse table that State uses.
-/
namespace Sys2Proof

/-- One byte (R3: multi-byte values are little-endian). -/
abbrev Byte := BitVec 8
/-- A raw FP32 word (R19). -/
abbrev W32 := BitVec 32
/-- A 64-bit register, schedule slot or table word. -/
abbrev W64 := BitVec 64

/-- A sparse table: key and value pairs, keys strictly rising, no value equal to what an unlisted key
reads as (log entry 9). -/
abbrev SMap (α : Type) := List (Nat × α)

end Sys2Proof
end

