-- ==== Sys2Proof/Syntax.lean ====
section
/-!
DEFINITION. The commands of the block: one constructor for each row of spec/opcode_table.json, in the table's order.
Operands are what the row's event carries from outside; everything else a command needs it reads from the state.
-/
namespace Sys2Proof

/-- Destination in a mesh item's sideband (R114): a logical core of the array, or a mesh group. -/
inductive MeshDest where
  | core (x y : BitVec 5)
  | group (g : BitVec 6)
  deriving DecidableEq, Repr

/-- What arrives at a steering unit (R58, R114): a control token, or a 256-bit data item with its sideband: destination and unit
address. -/
inductive SteerItem where
  | token (tag : BitVec 6) (dir : BitVec 3)
  | data (tag : BitVec 6) (value : BitVec 256) (dest : MeshDest) (unit : BitVec 12)
  deriving DecidableEq, Repr

/-- What the SECDED code of the rows found when an operation read the scratchpad (R94): nothing, or an error in the `i`-th unit
it read. -/
inductive ReadEcc where
  | clean
  | corrected (i : Nat)
  | uncorrectable (i : Nat)
  deriving DecidableEq, Repr

/-- What the SECDED of a link found on a message's flits (R120), with the lane concerned. -/
inductive FlitEcc where
  | clean
  | corrected (lane : Nat)
  | uncorrectable (lane : Nat)
  deriving DecidableEq, Repr

/-- One erroneous symbol met by a stack read (R141): sector `sector` of the access (from 0), symbol `pos` of its
36 (0-31 data bytes, 32-35 check symbols), and the XOR difference between what is read and what was stored. -/
structure SymErr where
  sector : Nat
  pos : Nat
  diff : Byte
  deriving DecidableEq, Repr

/-- How the read of a 16 KiB flash page ended (R161): at once, by retry or soft decoding, by parity rebuild, or lost. -/
inductive FlashRead where
  | clean
  | retried
  | rebuilt
  | lost
  deriving DecidableEq, Repr

/-- A host-memory read made by a queue command: the bytes, or an error completion (R251 HOST_ERROR). -/
inductive HostRead where
  | bytes (b : List Byte)
  | error
  deriving DecidableEq, Repr

/-- One submission-queue entry of 64 bytes, as eight words (R250). -/
structure QCmd where
  w0 : W64
  w1 : W64
  w2 : W64
  w3 : W64
  w4 : W64
  w5 : W64
  w6 : W64
  w7 : W64
  deriving DecidableEq, Repr

/-- An element that a self-test found failing (R315, R317). A station is 0-39 MSi, 40-47 FSi, 48-79 HSh; a core is named by its array, row
and physical column, a scratchpad row by its logical core's key and one of its units, a lane by its router, direction and number. -/
inductive Finding where
  | trellisPll (n : Nat)
  | stationPll (st : Nat)
  | bedMonitor (bed : Nat)
  | stationMonitor (st : Nat)
  | router (site : Nat)
  | lane (site dir lane : Nat)
  | site (site : Nat)
  | core (sa row col : Nat)
  | scratchRow (key unit : Nat)
  /-- A row of another SRAM of the core. -/
  | coreSram (sa row col : Nat)
  /-- The check pair differs (test 9). -/
  | datapath (sa row col : Nat)
  | bedPll (bed : Nat)
  | serdes (port lane : Nat)
  | stackLane (ms lane : Nat)
  | stackRow (ms row : Nat)
  /-- A stack past repair, found by test 14, 15 or 16. -/
  | stack (ms test : Nat)
  | nand (fs channel : Nat)
  | station (st : Nat)
  deriving DecidableEq, Repr

/-- What the tests of one border phase found: the failing elements, the thermal sensors' readings by bed (test 11), the copies of the repair
map, 0 and 1, that fail their CRC-32 (R318), and the image each station fell back to (R258; pairs of station number and image 1 B,
2 golden, 3 none passes). -/
structure SelfTest where
  found : List Finding
  sensors : List (Nat × List Int)
  mapBad : List Nat
  images : List (Nat × Nat)
  deriving DecidableEq, Repr

/-- How the fuse groups load (R317 test 1): all good; trim or options fail their ECC; identity or keys fail it. -/
inductive Fuses where
  | good
  | trimBad
  | identityBad
  deriving DecidableEq, Repr

/-- A core whose result a periodic check found different, with the format and pattern (R322). -/
structure CheckFail where
  core : Nat
  fmt : Nat
  pattern : Nat
  deriving DecidableEq, Repr

/-- The header of a Gelokan PDU (R275), and the value of its body's reserved bytes (R276). -/
structure Pdu where
  verDir : Nat
  kind : Nat
  len : Nat
  session : Nat
  seq : Nat
  rsv : Nat
  deriving DecidableEq, Repr

/-- The frame of a Gelokan request (R275): the segment (0 A, 1 B) it came by, destination and source address, EtherType, the PDU's header,
its tag, and whether the frame check sequence is good (R292). The command's own operands are the body. -/
structure Frame where
  seg : Nat
  dst : List Byte
  src : List Byte
  etherType : Nat
  pdu : Pdu
  tag : List Byte
  fcsOk : Bool
  deriving DecidableEq, Repr

/-- What maintenance debug asks to reach (R269): an array, a frozen array through scan, a station's firmware log, its firmware-area DRAM,
journal entries, anything else of a partition (region, volume, pending entry or key). -/
inductive DebugTarget where
  | array (sa : Nat)
  | scan (sa : Nat)
  | firmwareLog (station : Nat)
  | firmwareArea (ms : Nat)
  | journal (ms : Nat)
  | partition (part : Nat)
  deriving DecidableEq, Repr

/-- The kinds of port reset (R240). -/
inductive ResetKind where
  | perst
  | flr
  | linkDown
  deriving DecidableEq, Repr

/-- Features of R239's table whose presence or limit configuration space shows. -/
inductive PcieFeature where
  | flitMode | l0p | aspm | ltr | obff | maxPayload | maxReadRequest | tagBits | aer | flr | msixVectors | msi | intx
  | sriov | ats | pri | pasid | tph | ptm | atomicOps | resizableBar | immediateReadiness | drs | frs | laneMargining | doe | ide
  | linkSpeeds | linkWidths | timeoutRanges | relaxedOrdering | idOrdering | retimers | mctp
  deriving DecidableEq, Repr

/-- What a configuration request names (R239, R242): Vendor and Device ID, class, a 32-bit half of a BAR (0 to 3), the power state, the
completion timeout, the AER log (R253), or a feature's capability. -/
inductive CfgReg where
  | ids
  | classCode
  | bar (i : Nat)
  | power
  | timeout
  | aerStatus
  | feature (f : PcieFeature)
  deriving DecidableEq, Repr

/-- The commands. -/
inductive Instr where
  -- CTRL, HOLD, MATRIX, MOVE, VECTOR slots of core (x, y) of service array sa (R47, R48); `ecc`: what the operation's
  -- scratchpad read meets (R94)
  | nop (sa x y : Nat)
  | wait (sa x y : Nat)
  | loop (sa x y : Nat)
  | halt (sa x y : Nat)
  | hold (sa : Nat)
  | mload (sa x y : Nat) (ecc : ReadEcc)
  | mma (sa x y : Nat) (ecc : ReadEcc)
  | mmaLeafInsert (sa x y : Nat)
  | mdrain (sa x y : Nat)
  | mnode (sa x y : Nat)
  | mcheck (sa x y : Nat) (ecc : ReadEcc)
  | tload (sa x y : Nat) (ecc : ReadEcc)
  | tstore (sa x y : Nat)
  | vrun (sa x y : Nat)
  | vrow (sa x y : Nat)
  | vcvt (sa x y : Nat)
  | vacc (sa x y : Nat)
  | vectorResultWrite (sa x y : Nat)
  | send (sa x y : Nat)
  | rwrite (sa x y : Nat)
  | sendDrained (sa x y port : Nat) (ecc : ReadEcc)
  | fset (sa x y : Nat)
  | fclr (sa x y : Nat)
  | cinc (sa x y : Nat)
  | cdec (sa x y : Nat)
  | cclr (sa x y : Nat)
  | sfetch (sa x y : Nat) (ecc : ReadEcc)
  | srel (sa x y : Nat) (ecc : ReadEcc)
  | stok (sa x y : Nat)
  -- `mport`: the mesh port the item arrives on (0 N, 1 E, 2 S, 3 W); `cycle`: the fire cycle
  | steerItemArrival (sa x y unit mport cycle : Nat) (item : SteerItem)
  | steerSkew (sa x y unit : Nat)
  -- elastic arrivals: `tok` names a token in flight, `mport` the mesh port it arrives on (0 N, 1 E, 2 S, 3 W)
  | ringMessageArrival (tok mport : Nat)
  | directWriteArrival (tok mport : Nat)
  | creditReturn (sa x y port : Nat)
  | deadlock (part : Nat)
  | dlCtlWrite (port part : Nat) (value : W64)
  | routerMessage (tok : Nat) (ecc : FlitEcc)
  | laneSpare (site dir lane : Nat)
  | releaseToken (tok : Nat) (ecc : ReadEcc)
  | reductionInput (tok : Nat)
  | reductionAdd (site slot : Nat)
  | stationRedInput (tok : Nat)
  | stationRedAdd (ms slot : Nat)
  | streamRequestArrival (tok : Nat)
  | streamRequestAdmit (ms : Nat)
  | stackAccessComplete (ms rid : Nat) (errs : List SymErr)
  | tileResponse (ms rid : Nat)
  | tileLanding (tok : Nat)
  | writeAck (tok : Nat)
  | pseThreadReturn (ms thread : Nat) (errs : List SymErr)
  | updatePartArrival (tok : Nat)
  | updateApply (ms : Nat) (errs : List SymErr)
  | divRereadDone (part : Nat) (errs : List SymErr)
  | divRecomputeDone (part : Nat) (checkOk : Bool) (errs : List SymErr)
  | divRecomputeTimeout (part : Nat) (errs : List SymErr)
  | flashStageComplete (ms slot : Nat) (pages : List FlashRead)
  | writebackComplete (ms slot : Nat) (errs : List SymErr)
  | pendingApply (ms entry : Nat) (errs : List SymErr)
  | slowStarved (ms rid : Nat)
  | scrubRead (ms : Nat) (errs : List SymErr) (innerCe : Nat)
  | softRowRepair (ms row : Nat)
  | zeroWriteDone (ms : Nat)
  -- skeins and commit
  | skeinStart (port part : Nat)
  | skeinEnd (port : Nat)
  | skeinAbort (port : Nat)
  | skeinWinWrite (port : Nat) (data : List Byte)
  | skeinVerifyDone (port : Nat)
  | skeinDeadlineExpiry (port : Nat)
  | commit (port : Nat) (flush : Bool) (drainUs : Nat)
  | commitHaltDone (port : Nat)
  | commitAllocate (port : Nat)
  | drainComplete (port : Nat)
  | drainTimeout (port : Nat)
  -- partitions
  | partCreate (port saCount cls : Nat) (conf : Bool)
  | partStart (port part : Nat)
  | castLockDone (part : Nat)
  | castLockTimeout (part : Nat)
  | partStop (port part : Nat) (scan : Bool)
  | bindOffDone (part : Nat)
  | partSuspend (port part : Nat)
  | quiesceDone (part : Nat)
  | quiesceTimeout (part : Nat) (errs : List (Nat × ReadEcc))
  -- `tail`: what the read-modify-write of the image's last sector meets
  | scanOutDone (part : Nat) (errs : List (Nat × ReadEcc)) (tail : List SymErr)
  | partPlace (port part : Nat)
  | placeDone (part : Nat)
  | partResume (port part : Nat)
  | resumeDone (part : Nat) (errs : List SymErr)
  | partRelease (port part : Nat)
  | warnClr (port part : Nat)
  | partComplete (part : Nat)
  | statusGather (part : Nat)
  -- host ports; `ide`: the selective IDE stream the TLP arrived on, if any (R246)
  | portReset (port : Nat) (kind : ResetKind)
  | linkUp (port speed width : Nat) (flit : Bool)
  | portReady (port : Nat)
  -- `cmds`: of each queue, what host memory holds from the submission head on (R239)
  | configRequest (port : Nat) (reg : CfgReg) (write : Option W32) (cmds : List (List QCmd))
  | registerWrite (port offset size : Nat) (value : W64) (cmds : List QCmd)
  | winMapWrite (port slot : Nat) (value : W64)
  | windowRead (port addr len : Nat) (ide : Option Nat) (errs : List SymErr)
  | windowWrite (port addr : Nat) (data : List Byte) (ide : Option Nat)
  | partDb (port part : Nat) (value : W64) (ide : Option Nat)
  | doorbellRelease (port : Nat)
  | doorbellLand (tok mport : Nat)
  | sqTailWrite (port q tail : Nat) (cmds : List QCmd)
  | cqHeadWrite (port q head : Nat) (cmds : List QCmd)
  | queueEnable (port q : Nat) (value : W64)
  | queueDisable (port q : Nat)
  | skeinFetch (port q cid : Nat) (data : HostRead)
  | winRead (port q cid : Nat) (ide : Option Nat) (errs : List SymErr)
  | winWrite (port q cid : Nat) (data : HostRead) (ide : Option Nat)
  | volCreate (port q cid : Nat)
  | volDelete (port q cid : Nat)
  | volBind (port q cid : Nat)
  | volInfo (port q cid : Nat)
  | volRead (port q cid : Nat) (pages : List FlashRead)
  | volWrite (port q cid : Nat) (data : HostRead) (ide : Option Nat)
  | completionPost (port q : Nat)
  | ideIntegrityFail (port stream : Nat)
  -- DOE, SPDM, IDE_KM, MCTP
  | doeDiscovery (port index : Nat)
  | getVersion (port : Nat)
  | getCapabilities (port : Nat)
  | negotiateAlgorithms (port : Nat)
  | getDigests (port : Nat)
  | getCertificate (port offset len : Nat)
  | challenge (port : Nat) (nonce : List Byte)
  | getMeasurements (port index : Nat) (sign : Bool) (nonce : List Byte)
  | keyExchange (port : Nat)
  | finish (port sess : Nat) (ok : Bool)
  | keyUpdate (port sess : Nat)
  | heartbeat (port sess : Nat)
  | endSession (port sess : Nat)
  | hostKey (port sess : Nat) (key : List Byte) (sigOk : Bool)
  | query (port sess : Nat)
  | keyProg (port sess stream set : Nat)
  | kSetGo (port sess stream set : Nat)
  | kSetStop (port sess stream set : Nat)
  | setEndpointId (port eid : Nat) (fromRoot : Bool)
  | getEndpointId (port : Nat) (fromRoot : Bool)
  | getEndpointUuid (port : Nat) (fromRoot : Bool)
  | getMctpVersionSupport (port : Nat) (fromRoot : Bool)
  | getMessageTypeSupport (port : Nat) (fromRoot : Bool)
  | getVendorDefinedMessageSupport (port : Nat) (fromRoot : Bool)
  | mctpGelokanRequest (port : Nat) (pdu : Pdu) (index sub offset count : Nat) (fromRoot : Bool)
  -- the Gelokan dictionary
  | cert (f : Frame) (offset : Nat)
  | openReq (f : Frame) (role : Nat) (nonceR qR : List Byte)
  -- `key`: the public key in the certificate; `signer`: SHA-384 of the key that signed it
  | auth (f : Frame) (cert key signer sig : List Byte)
  | close (f : Frame)
  | expRead (f : Frame) (index sub : Nat)
  | expWrite (f : Frame) (index sub size : Nat) (data : List Byte)
  | segRead (f : Frame) (index sub offset count : Nat)
  | segWrite (f : Frame) (index sub total offset : Nat) (data : List Byte)
  | apply (session index : Nat)
  | objectWrite (session index sub : Nat) (data : List Byte)
  | sessionIdleExpiry (session : Nat)
  | sessionAuthTimeout (session : Nat)
  | segTransferTimeout (session : Nat)
  | transmitOpportunity (seg : Nat)
  | plcaBeacon (seg : Nat)
  | plcaLossExpiry (seg : Nat)
  | csmaBackoffExpiry (seg : Nat) (collides : Bool)
  | rekey (session : Nat) (value : Nat)
  | svnCommit (session : Nat) (value : Nat)
  | maintAuth (session : Nat) (digest : List Byte)
  | debugToken (session : Nat) (valid : Bool) (validTicks : Nat) (reach : List DebugTarget)
  | debugTokenExpiry
  | evtRecords (session : Nat)
  | bedReenable (session bed value : Nat)
  | borderRestart (session value : Nat)
  | fullTest (session value : Nat)
  | fuseBurn (session value : Nat)
  | fwChunk (session : Nat) (data : List Byte)
  | fwVerify (session value : Nat)
  | fwVerifyDone (sigOk : Bool)
  | fwSwitch (session value : Nat)
  | fwElementSwitchDone
  -- power-up, feeds, beds, clocks, heat, pins
  | standbyPowerGood (feed : Nat) (imageA imageB golden : Bool) (mgcs sources : List Nat) (fuses : Fuses)
  | borderPhaseStart (found : SelfTest)
  | borderRelease
  | standbyLoss
  | feedDrop (feed : Nat)
  | feedReconnect (feed : Nat)
  -- `blown`: the branch's fuse blew, as its switch failed to open
  | branchFault (bed : Nat) (blown : Bool)
  | coreRailFault (bed : Nat)
  | transitRailShort (bed : Nat)
  | transitConverterFail (bed : Nat)
  | bedPllLockLoss (bed : Nat)
  | voltageMonitorCheck (failed : List Nat)
  | refLoss (ref : Nat)
  | trellisPllFailover (failed : Bool)
  | bedFreqStep (bed : Nat)
  | powerControlPeriod (powerNow stepCost : Nat) (coolIn coolOut : Int) (coolFlow : Nat)
  | thermalStep (bed : Nat) (readings : List Int)
  | bedDrain (bed : Nat)
  | bedDrainDone (bed : Nat)
  | bedCrit (bed : Nat) (temp : Int)
  | offHeatRecover (bed : Nat)
  | bedWake (bed : Nat)
  -- `found`: what the bed's self-test found (R303, R315); `readings`: its four sensors' (test 11)
  | bedAwake (bed : Nat) (found : List Finding) (readings : List Int)
  | bedSleep (bed : Nat)
  | thermalSensorCheck (bed : Nat) (readings : List Int)
  | coolLeak (water : Bool)
  | commissionInput (asserted : Bool)
  -- `skein`: the check skein that station firmware loads (R321)
  | periodicCheck (sa : Nat) (skein : List Byte) (failing : List CheckFail)
  -- `restored`: instead, the maintenance role restores the source after a passing start-up test (R270)
  | entropyTestFail (source : Nat) (restored : Bool)
  | keyStoreBankFail (bank : Nat)
  | mgcFail (mgc : Nat)
  | attachRouterFail (site : Nat)
  | referenceRestored (ref : Nat)
  | standbyFeedDrop (feed : Nat)
  | completionTimeout (port q cid : Nat) (ide : Option Nat)
  | physicalCollision (seg : Nat)
  | coordinatorBeacon (seg : Nat)
  | nandChannelFail (fs channel : Nat)
  deriving DecidableEq, Repr

end Sys2Proof
end

