-- ==== Sys2Proof/Decode.lean ====
section
/-!
DEFINITION. Words that spell commands. No row of spec/opcode_table.json gives bits: a command is an event with operands,
not a word, so no word spells one (INVENTORY.md, Instructions).
-/
namespace Sys2Proof

/-- A row of the table that gives bits: its width, mask and pattern, and the command it spells. -/
structure TableWord where
  nbits : Nat
  mask : Nat
  pattern : Nat
  command : Instr
  deriving DecidableEq, Repr

/-- The rows of the opcode table that give bits: none. -/
def tableWords : List TableWord := []

/-- The command a word of `nbits` bits spells. -/
def decodeTableWord (nbits w : Nat) : Option Instr :=
  (tableWords.find? fun r => r.nbits == nbits && (w &&& r.mask) == r.pattern).map TableWord.command

end Sys2Proof
end

