-- ==== Sys2Proof/Machine/Maps.lean ====
section
/-!
DEFINITION. Reading and writing sparse tables (log entry 9), lists by position, and bytes as little-endian words (R3).
-/
namespace Sys2Proof

/-- The value at key `i`, `d` where the table lists none. -/
def SMap.look {α : Type} (d : α) : SMap α → Nat → α
  | [], _ => d
  | (k, v) :: m, i => if i = k then v else SMap.look d m i

/-- Insert or replace at key `i`, keeping the keys rising. -/
def SMap.ins {α : Type} (i : Nat) (v : α) : SMap α → SMap α
  | [] => [(i, v)]
  | (k, w) :: m => if i < k then (i, v) :: (k, w) :: m else if i = k then (i, v) :: m else (k, w) :: SMap.ins i v m

/-- Take key `i` out. -/
def SMap.del {α : Type} (i : Nat) : SMap α → SMap α
  | [] => []
  | (k, w) :: m => if i = k then SMap.del i m else (k, w) :: SMap.del i m

/-- Write `v` at key `i`; writing what an unlisted key reads as takes the entry out. -/
def SMap.put {α : Type} [DecidableEq α] (d : α) (m : SMap α) (i : Nat) (v : α) : SMap α :=
  if v = d then SMap.del i m else SMap.ins i v m

/-- Write a list of values at consecutive keys from `i`. -/
def SMap.putAll {α : Type} [DecidableEq α] (d : α) (m : SMap α) (i : Nat) : List α → SMap α
  | [] => m
  | v :: vs => SMap.putAll d (SMap.put d m i v) (i + 1) vs

/-- Change every listed value (a function that keeps `d` changes every value). -/
def SMap.mapV {α : Type} [DecidableEq α] (d : α) (f : Nat → α → α) : SMap α → SMap α
  | [] => []
  | (k, v) :: m => SMap.put d (SMap.mapV d f m) k (f k v)

/-- Take the keys of a range out: they read as the default again. -/
def SMap.clear {α : Type} (m : SMap α) (i n : Nat) : SMap α :=
  m.filter fun e => decide (e.1 < i) || decide (i + n ≤ e.1)

/-- Read `n` values at consecutive keys from `i`. -/
def SMap.span {α : Type} (d : α) (m : SMap α) (i n : Nat) : List α :=
  (List.range n).map fun k => SMap.look d m (i + k)

/-- Keys strictly rising, all above `lo`, and no entry equal to `d`. -/
def SMap.wfFrom {α : Type} [DecidableEq α] (d : α) : Nat → SMap α → Bool
  | _, [] => true
  | lo, (k, v) :: m => decide (lo ≤ k) && decide (v ≠ d) && SMap.wfFrom d (k + 1) m

/-- The canonical form of a table (log entry 9). -/
def SMap.wf {α : Type} [DecidableEq α] (d : α) (m : SMap α) : Bool :=
  SMap.wfFrom d 0 m

/-- The canonical form of a memory: addresses strictly rising, no byte listed that an unlisted address reads as, which is 0
(log entries 8, 9). -/
def Memory.wf (m : SMap Byte) : Bool := SMap.wf 0 m

/-- Element `i` of a list, `d` beyond its end. -/
def nth {α : Type} (d : α) : List α → Nat → α
  | [], _ => d
  | a :: _, 0 => a
  | _ :: l, i + 1 => nth d l i

/-- Little-endian number of a list of bytes (R3). -/
def leNat : List Byte → Nat
  | [] => 0
  | b :: bs => b.toNat + 256 * leNat bs

/-- The `n` little-endian bytes of a number (R3). -/
def leBytes : Nat → Nat → List Byte
  | 0, _ => []
  | n + 1, v => BitVec.ofNat 8 v :: leBytes n (v / 256)

/-- Bits [hi:lo] of a number, as a number. -/
def bits (w hi lo : Nat) : Nat :=
  (w >>> lo) % 2 ^ (hi + 1 - lo)

/-- Field [hi:lo] of a 64-bit word, as a number. -/
def fld (w : W64) (hi lo : Nat) : Nat :=
  bits w.toNat hi lo

/-- Bit `i` of a 64-bit word. -/
def bitOf (w : W64) (i : Nat) : Bool :=
  w.getLsbD i

/-- A 64-bit word from fields given as (low bit, value), which must not overlap. -/
def packW (fs : List (Nat × Nat)) : W64 :=
  BitVec.ofNat 64 ((fs.map fun f => f.2 * 2 ^ f.1).foldl (· + ·) 0)

/-- A Bool as a bit. -/
def bit (b : Bool) : Nat := if b then 1 else 0

/-- A count that saturates at `top`. -/
def satAdd (top a b : Nat) : Nat := min top (a + b)

/-- ⌈a / b⌉. -/
def ceilDiv (a b : Nat) : Nat := (a + b - 1) / b

/-- 32 bits saturating (U32 counters). -/
def sat32 (a b : Nat) : Nat := satAdd 0xFFFFFFFF a b

end Sys2Proof
end

