-- ==== Sys2Proof/Machine/Num.lean ====
section
/-!
DEFINITION. Numbers (spec/02): the formats, exact values, rounding, FP32 arithmetic, conversions, stochastic rounding.
A finite value is (−1)^neg · m · 2^e, exactly.
-/
namespace Sys2Proof.Machine

/-- An exact value of a format (R19). -/
inductive Val where
  | nan
  | inf (neg : Bool)
  | fin (neg : Bool) (m : Nat) (e : Int)
  deriving DecidableEq, Repr

/-- FP_STATUS bits (R41): 0 INVALID, 1 DIVZERO, 2 OVERFLOW, 3 UNDERFLOW, 4 INEXACT. -/
abbrev Flags := BitVec 5

def fInvalid : Flags := 1
def fDivZero : Flags := 2
def fOverflow : Flags := 4
def fUnderflow : Flags := 8
def fInexact : Flags := 16

/-- 2^n as a number, for an exponent that is not negative. -/
def pow2 (n : Int) : Nat := 2 ^ n.toNat

/-- Format code (R18) to bits an element (R19). -/
def fmtBits (f : Nat) : Nat :=
  match f with
  | 0 => 32
  | 1 => 16
  | 2 => 16
  | 3 => 8
  | 4 => 8
  | 5 => 6
  | 6 => 6
  | 7 => 4
  | _ => 8

/-- Mantissa bits of a format code (R19); INT8 counts as 0. -/
def fmtMant (f : Nat) : Nat :=
  match f with
  | 0 => 23
  | 1 => 7
  | 2 => 10
  | 3 => 3
  | 4 => 2
  | 5 => 2
  | 6 => 3
  | 7 => 1
  | _ => 0

/-- Exponent bits of a format code (R19). -/
def fmtExp (f : Nat) : Nat :=
  match f with
  | 0 => 8
  | 1 => 8
  | 2 => 5
  | 3 => 4
  | 4 => 5
  | 5 => 3
  | 6 => 2
  | 7 => 2
  | _ => 0

/-- Exponent bias of a format code (R19). -/
def fmtBias (f : Nat) : Int :=
  match f with
  | 0 => 127
  | 1 => 127
  | 2 => 15
  | 3 => 7
  | 4 => 15
  | 5 => 3
  | 6 => 1
  | 7 => 1
  | _ => 0

/-- Exponent of the smallest normal value of a format code (R19). -/
def fmtEmin (f : Nat) : Int := 1 - fmtBias f

/-- The format has infinities and the IEEE 754 NaNs (R19). -/
def fmtIeee (f : Nat) : Bool := f == 0 || f == 1 || f == 2 || f == 4

/-- Bits of the largest finite magnitude of a float format (R19). -/
def fmtMaxBits (f : Nat) : Nat :=
  match f with
  | 0 => 0x7F7FFFFF
  | 1 => 0x7F7F
  | 2 => 0x7BFF
  | 3 => 0x7E
  | 4 => 0x7B
  | 5 => 0x1F
  | 6 => 0x1F
  | 7 => 0x7
  | _ => 0x7F

/-- Canonical NaN (R39), where the format has one. -/
def fmtNan (f : Nat) : Option Nat :=
  match f with
  | 0 => some 0x7FC00000
  | 1 => some 0x7FC0
  | 2 => some 0x7E00
  | 3 => some 0x7F
  | 4 => some 0x7E
  | _ => none

/-- The exact value of an element's bits (R19). -/
def decodeVal (f : Nat) (w : Nat) : Val :=
  if f == 8 then
    if w % 256 ≥ 128 then .fin true (256 - w % 256) 0 else .fin false (w % 256) 0
  else
    let mb := fmtMant f
    let eb := fmtExp f
    let man := w % 2 ^ mb
    let ex := (w >>> mb) % 2 ^ eb
    let neg := (w >>> (mb + eb)) % 2 == 1
    if fmtIeee f && ex == 2 ^ eb - 1 then (if man == 0 then .inf neg else .nan)
    else if f == 3 && w % 128 == 127 then .nan
    else if ex == 0 then .fin neg man (fmtEmin f - mb)
    else .fin neg (man + 2 ^ mb) (Int.ofNat ex - fmtBias f - mb)

/-- The exact value of an FP32 word. -/
def val32 (w : W32) : Val := decodeVal 0 w.toNat

def isNan32 (w : W32) : Bool := val32 w == .nan
def nan32 : W32 := 0x7FC00000

/-- How the magnitude rounds when it is not representable: `r` = m mod 2^s against 2^s. -/
inductive Round where
  | nearestEven
  | stochastic (rnd : Nat)
  | up
  deriving DecidableEq, Repr

/-- Does the magnitude round up? `q` the truncated quotient, `r` the remainder below 2^s, s > 0 (R33, R36). -/
def roundsUp (mode : Round) (q r s : Nat) : Bool :=
  match mode with
  | .nearestEven => decide (2 * r > 2 ^ s) || (decide (2 * r = 2 ^ s) && q % 2 == 1)
  | .stochastic rnd => decide (rnd < r * 2 ^ 32 / 2 ^ s)
  | .up => decide (r > 0)

/-- Round m · 2^e to a significand of `mb` + 1 bits, no unit below 2^lsb: (q, its exponent, inexact). -/
def roundMag (mode : Round) (mb : Nat) (lsb : Option Int) (m : Nat) (e : Int) : Nat × Int × Bool :=
  let top : Int := e + Int.ofNat (Nat.log2 m) - Int.ofNat mb
  let qe : Int := match lsb with
    | none => top
    | some l => if top < l then l else top
  if qe ≤ e then (m * pow2 (e - qe), qe, false)
  else
    let s := (qe - e).toNat
    let q := m >>> s
    let r := m % 2 ^ s
    if r == 0 then (q, qe, false)
    else (if roundsUp mode q r s then q + 1 else q, qe, true)

/-- Compare m1 · 2^e1 with m2 · 2^e2: is the first at least the second? -/
def magGe (m1 : Nat) (e1 : Int) (m2 : Nat) (e2 : Int) : Bool :=
  if e1 ≥ e2 then decide (m1 * pow2 (e1 - e2) ≥ m2) else decide (m1 ≥ m2 * pow2 (e2 - e1))

/-- A finite magnitude as bits of format `f`, if it has them exactly (q · 2^qe with q below 2^(mb+1), or the carry to the
next binade). -/
def encodeMag (f : Nat) (q : Nat) (qe : Int) : Nat :=
  let mb := fmtMant f
  if q == 0 then 0
  else
    let q' := if q ≥ 2 ^ (mb + 1) then q / 2 else q
    let qe' := if q ≥ 2 ^ (mb + 1) then qe + 1 else qe
    if q' < 2 ^ mb then q'
    else ((qe' + Int.ofNat mb + fmtBias f).toNat) * 2 ^ mb + (q' - 2 ^ mb)

/-- Sign bit of format `f` added to magnitude bits. -/
def withSign (f : Nat) (neg : Bool) (w : Nat) : Nat :=
  if neg then w + 2 ^ (fmtMant f + fmtExp f) else w

/-- The magnitude of the largest finite value of a float format. -/
def maxMag (f : Nat) : Nat × Int :=
  match decodeVal f (fmtMaxBits f) with
  | .fin _ m e => (m, e)
  | _ => (0, 0)

/-- Tiny in the sense of R41: non-zero and below the smallest normal after rounding with an unbounded exponent. -/
def isTiny (mode : Round) (f : Nat) (m : Nat) (e : Int) : Bool :=
  let r := roundMag mode (fmtMant f) none m e
  m != 0 && !(magGe r.1 r.2.1 1 (fmtEmin f))

/-- A finite value rounded to float format `f` (R33, R34); `sat` saturates instead of overflowing to infinity. -/
def roundFin (mode : Round) (f : Nat) (sat : Bool) (neg : Bool) (m : Nat) (e : Int) : Nat × Flags :=
  if m == 0 then (withSign f neg 0, 0)
  else
    let r := roundMag mode (fmtMant f) (some (fmtEmin f - fmtMant f)) m e
    let big := maxMag f
    if magGe r.1 r.2.1 big.1 big.2 && !(magGe big.1 big.2 r.1 r.2.1) then
      (if sat then withSign f neg (fmtMaxBits f) else withSign f neg ((2 ^ fmtExp f - 1) * 2 ^ fmtMant f),
       fOverflow ||| fInexact)
    else
      (withSign f neg (encodeMag f r.1 r.2.1),
       if r.2.2 then (if isTiny mode f m e then fUnderflow ||| fInexact else fInexact) else 0)

/-- Round a finite value to FP32, to nearest, ties to even, with its exception bits (R28, R41). -/
def round32 (neg : Bool) (m : Nat) (e : Int) : W32 × Flags :=
  let r := roundFin .nearestEven 0 false neg m e
  (BitVec.ofNat 32 r.1, r.2)

def inf32 (neg : Bool) : W32 := if neg then 0xFF800000 else 0x7F800000
def zero32 (neg : Bool) : W32 := if neg then 0x80000000 else 0

/-- The signed sum of two finite values: (neg, m, e); a zero sum is +0 unless both are −0 (IEEE 754-2019). -/
def sumFin (n1 : Bool) (m1 : Nat) (e1 : Int) (n2 : Bool) (m2 : Nat) (e2 : Int) : Bool × Nat × Int :=
  let e := if e1 ≤ e2 then e1 else e2
  let a : Int := Int.ofNat (m1 * pow2 (e1 - e)) * (if n1 then -1 else 1)
  let b : Int := Int.ofNat (m2 * pow2 (e2 - e)) * (if n2 then -1 else 1)
  let t := a + b
  (if t = 0 then n1 && n2 else decide (t < 0), t.natAbs, e)

/-- Exact values added and rounded once to FP32, with canonical NaNs (R28). -/
def addV (a b : Val) : W32 × Flags :=
  match a, b with
  | .nan, _ => (nan32, 0)
  | _, .nan => (nan32, 0)
  | .inf x, .inf y => if x == y then (inf32 x, 0) else (nan32, fInvalid)
  | .inf x, .fin .. => (inf32 x, 0)
  | .fin .., .inf y => (inf32 y, 0)
  | .fin n1 m1 e1, .fin n2 m2 e2 =>
    let t := sumFin n1 m1 e1 n2 m2 e2
    round32 t.1 t.2.1 t.2.2

/-- FP32 addition (R28): IEEE 754-2019 with canonical NaNs. -/
def add32 (a b : W32) : W32 × Flags := addV (val32 a) (val32 b)

/-- A value with its sign flipped. -/
def negV : Val → Val
  | .fin n m e => .fin (!n) m e
  | .inf n => .inf (!n)
  | .nan => .nan

/-- Flip the sign of an FP32 word. -/
def neg32 (a : W32) : W32 := a ^^^ 0x80000000
/-- Clear the sign of an FP32 word. -/
def abs32 (a : W32) : W32 := a &&& 0x7FFFFFFF

def sub32 (a b : W32) : W32 × Flags :=
  if isNan32 b then (nan32, 0) else add32 a (neg32 b)

/-- Exact values multiplied and rounded once to FP32. -/
def mulV (a b : Val) : W32 × Flags :=
  match a, b with
  | .nan, _ => (nan32, 0)
  | _, .nan => (nan32, 0)
  | .inf x, .inf y => (inf32 (x != y), 0)
  | .inf x, .fin n m _ => if m == 0 then (nan32, fInvalid) else (inf32 (x != n), 0)
  | .fin n m _, .inf x => if m == 0 then (nan32, fInvalid) else (inf32 (x != n), 0)
  | .fin n1 m1 e1, .fin n2 m2 e2 => round32 (n1 != n2) (m1 * m2) (e1 + e2)

def mul32 (a b : W32) : W32 × Flags := mulV (val32 a) (val32 b)

/-- Fused multiply-add with one rounding; zero times infinity raises INVALID also when c is a NaN (R84). -/
def fma32 (a b c : W32) : W32 × Flags :=
  let addInf (neg : Bool) : W32 × Flags :=
    match val32 c with
    | .nan => (nan32, 0)
    | .inf z => if z == neg then (inf32 neg, 0) else (nan32, fInvalid)
    | .fin .. => (inf32 neg, 0)
  match val32 a, val32 b with
  | .inf x, .fin n m _ => if m == 0 then (nan32, fInvalid) else addInf (x != n)
  | .fin n m _, .inf x => if m == 0 then (nan32, fInvalid) else addInf (x != n)
  | .nan, _ => (nan32, 0)
  | _, .nan => (nan32, 0)
  | .inf x, .inf y => addInf (x != y)
  | .fin n1 m1 e1, .fin n2 m2 e2 =>
    match val32 c with
    | .nan => (nan32, 0)
    | .inf z => (inf32 z, 0)
    | .fin n3 m3 e3 =>
      let t := sumFin (n1 != n2) (m1 * m2) (e1 + e2) n3 m3 e3
      round32 t.1 t.2.1 t.2.2

/-- The quotient of two magnitudes as m · 2^e, with the remainder folded into a last sticky bit. -/
def quotMag (m1 : Nat) (e1 : Int) (m2 : Nat) (e2 : Int) : Nat × Int :=
  let s := 64 + Nat.log2 m2
  let n := m1 * 2 ^ s
  (2 * (n / m2) + bit (n % m2 != 0), e1 - e2 - Int.ofNat s - 1)

def div32 (a b : W32) : W32 × Flags :=
  match val32 a, val32 b with
  | .nan, _ => (nan32, 0)
  | _, .nan => (nan32, 0)
  | .inf _, .inf _ => (nan32, fInvalid)
  | .inf x, .fin n _ _ => (inf32 (x != n), 0)
  | .fin n _ _, .inf y => (zero32 (n != y), 0)
  | .fin n1 m1 e1, .fin n2 m2 e2 =>
    if m2 == 0 then (if m1 == 0 then (nan32, fInvalid) else (inf32 (n1 != n2), fDivZero))
    else if m1 == 0 then (zero32 (n1 != n2), 0)
    else
      let q := quotMag m1 e1 m2 e2
      round32 (n1 != n2) q.1 q.2

/-- ⌊√n⌋, bit by bit from bit `k` down. -/
def isqrtFrom (n : Nat) : Nat → Nat → Nat
  | 0, r => r
  | k + 1, r =>
    let r' := r + 2 ^ k
    isqrtFrom n k (if r' * r' ≤ n then r' else r)

/-- ⌊√n⌋. -/
def isqrt (n : Nat) : Nat := isqrtFrom n (Nat.log2 n / 2 + 1) 0

/-- The root of a magnitude as m · 2^e, with the remainder folded into a last sticky bit. -/
def rootMag (m : Nat) (e : Int) : Nat × Int :=
  let s : Nat := 64 + (if (e - 64) % 2 == 0 then 0 else 1)
  let n := m * 2 ^ s
  let r := isqrt n
  (2 * r + bit (r * r != n), (e - Int.ofNat s) / 2 - 1)

def sqrt32 (a : W32) : W32 × Flags :=
  match val32 a with
  | .nan => (nan32, 0)
  | .inf neg => if neg then (nan32, fInvalid) else (inf32 false, 0)
  | .fin neg m e =>
    if m == 0 then (zero32 neg, 0)
    else if neg then (nan32, fInvalid)
    else
      let r := rootMag m e
      round32 false r.1 r.2

/-- 1/√a, rounded once (R84): the root of 1/a taken on 2^s / a with sticky bits. -/
def rsqrt32 (a : W32) : W32 × Flags :=
  match val32 a with
  | .nan => (nan32, 0)
  | .inf neg => if neg then (nan32, fInvalid) else (0, 0)
  | .fin neg m e =>
    if m == 0 then (inf32 neg, fDivZero)
    else if neg then (nan32, fInvalid)
    else
      let m' := if e % 2 == 0 then m else 2 * m
      let e' := if e % 2 == 0 then e else e - 1
      let n := 2 ^ 240
      let r := isqrt (n / m')
      round32 false (2 * r + bit (r * r * m' != n)) (-(e' / 2) - 121)

/-- a < b under R40 (unordered gives false). -/
def lt32 (a b : W32) : Bool :=
  match val32 a, val32 b with
  | .nan, _ => false
  | _, .nan => false
  | .inf x, .inf y => x && !y
  | .inf x, .fin .. => x
  | .fin .., .inf y => !y
  | .fin n1 m1 e1, .fin n2 m2 e2 =>
    let t := sumFin n1 m1 e1 (!n2) m2 e2
    t.1 && t.2.1 != 0

/-- a = b under R40: −0 equals +0, a NaN equals nothing. -/
def eq32 (a b : W32) : Bool :=
  match val32 a, val32 b with
  | .nan, _ => false
  | _, .nan => false
  | _, _ => !(lt32 a b) && !(lt32 b a)

/-- maximumNumber (R40): max(−0, +0) is +0. -/
def max32 (a b : W32) : W32 :=
  if isNan32 a then (if isNan32 b then nan32 else b)
  else if isNan32 b then a
  else if eq32 a b then (if a.msb then b else a)
  else if lt32 a b then b else a

/-- minimumNumber (R40): min(−0, +0) is −0. -/
def min32 (a b : W32) : W32 :=
  if isNan32 a then (if isNan32 b then nan32 else b)
  else if isNan32 b then a
  else if eq32 a b then (if a.msb then a else b)
  else if lt32 b a then b else a

/-! ## Conversions from FP32 -/

/-- The largest finite value of a format with a sign (R35); for INT8 that is 127 and −127 (log entry 25). -/
def largest (f : Nat) (neg : Bool) : Nat :=
  if f == 8 then (if neg then 0x81 else 0x7F) else withSign f neg (fmtMaxBits f)

/-- Conversion of an FP32 value to format `f` (R33, R34); `block`: a block-scaled conversion, in which a value beyond the largest
finite one saturates before it is rounded, INT8 and E5M2 included (R35). -/
def convert (mode : Round) (f : Nat) (block : Bool) (w : W32) : Nat × Flags :=
  if f == 0 then (if isNan32 w then 0x7FC00000 else w.toNat, 0)
  else if f == 8 then
    match val32 w with
    | .nan => (0, fInvalid)
    | .inf neg => (if neg then 0x80 else 0x7F, fInvalid)
    | .fin neg m e =>
      let r := roundMag mode (Nat.log2 m + 64) (some 0) m e
      let v := r.1 * pow2 r.2.1
      let big := if neg then 128 else 127
      if block && !magGe 127 0 m e then (largest 8 neg, fOverflow ||| fInexact)
      else if v > big then (if neg then 0x80 else 0x7F, fInvalid)
      else (if neg then (256 - v) % 256 else v, if r.2.2 then fInexact else 0)
  else
    match val32 w with
    | .nan => match fmtNan f with
      | some n => (n, 0)
      | none => (0, fInvalid)
    | .inf neg =>
      if fmtIeee f then (withSign f neg ((2 ^ fmtExp f - 1) * 2 ^ fmtMant f), 0) else (withSign f neg (fmtMaxBits f), 0)
    | .fin neg m e =>
      if block && !magGe (maxMag f).1 (maxMag f).2 m e then (largest f neg, fOverflow ||| fInexact)
      else roundFin mode f (!(fmtIeee f)) neg m e

/-- Conversion of a matrix-engine output (R34, R41): a non-zero BF16 or FP16 output below the smallest normal, tested before
rounding, becomes zero of its sign. -/
def convertOut (f : Nat) (w : W32) : Nat × Flags :=
  match val32 w with
  | .fin neg m e =>
    if (f == 1 || f == 2) && m != 0 && !magGe m e 1 (fmtEmin f) then (withSign f neg 0, fUnderflow ||| fInexact)
    else convert .nearestEven f false w
  | _ => convert .nearestEven f false w

/-- 2^k as the E8M0 or E4M3 scale value (R22): none is a NaN scale. `sf`: 1 E8M0, 2 E4M3. -/
def decodeScale (sf : Nat) (b : Byte) : Option (Nat × Int) :=
  if sf == 1 then (if b == 0xFF then none else some (1, Int.ofNat b.toNat - 127))
  else if b.toNat ≥ 0x7F then none
  else match decodeVal 3 b.toNat with
    | .fin _ m e => some (m, e)
    | _ => none

/-- emax of R35 for E8M0 scales. -/
def scaleEmax (f : Nat) : Int :=
  match f with
  | 3 => 8
  | 4 => 15
  | 5 => 4
  | 6 => 2
  | 7 => 2
  | _ => 6

/-- The scale byte of a block from its amax word (R35); none: the block gets the NaN scale. R35 and R87 name +infinity alone
for an amax word; a NaN and −infinity count as +infinity does, and the sign of a finite amax word is not looked at (DESIGN
CHOICE, log entry 55). -/
def blockScale (sf f : Nat) (amax : W32) (special : Bool) : Option Byte :=
  if special then none
  else match val32 amax with
    | .fin _ m e =>
      if sf == 1 then
        if m == 0 then some 0
        else
          let k := e + Int.ofNat (Nat.log2 m) - scaleEmax f
          let k' := if k < -127 then -127 else if k > 127 then 127 else k
          some (BitVec.ofNat 8 (k' + 127).toNat)
      else if m == 0 then some 1
      else
        let big := if f == 8 then (127, (0 : Int)) else maxMag f
        let q := quotMag m e big.1 big.2
        let r := roundFin .up 3 true false q.1 q.2
        some (BitVec.ofNat 8 r.1)
    | _ => none

/-- x divided by a scale, rounded to FP32 (R35). -/
def divScale (w : W32) (sc : Nat × Int) : W32 × Flags :=
  match val32 w with
  | .nan => (nan32, 0)
  | .inf neg => (inf32 neg, 0)
  | .fin neg m e =>
    if m == 0 then (zero32 neg, 0)
    else
      let q := quotMag m e sc.1 sc.2
      round32 neg q.1 q.2

/-- An element divided by its block's scale and converted (R35): one that the division takes past the FP32 range is past the
target's largest finite value too, and saturates. -/
def convertScaled (mode : Round) (f : Nat) (w : W32) (sc : Nat × Int) : Nat × Flags :=
  let dv := divScale w sc
  match val32 w, val32 dv.1 with
  | .fin neg _ _, .inf _ => (largest f neg, fOverflow ||| fInexact)
  | _, _ =>
    let r := convert mode f true dv.1
    (r.1, r.2 ||| dv.2)

/-- An element decoded and multiplied by its scale, as FP32 (R87 Decoding; exact but for the FP32 range). A negative element with a zero
scale gives −0 as a multiplication does (DESIGN CHOICE, log entry 77: R22 leaves the sign to R26, which speaks of leaves). -/
def decodeMul (f : Nat) (w : Nat) (sc : Nat × Int) : W32 × Flags :=
  match decodeVal f w with
  | .nan => (nan32, 0)
  | .inf neg => if sc.1 == 0 then (nan32, fInvalid) else (inf32 neg, 0)
  | .fin neg m e => round32 neg (m * sc.1) (e + sc.2)

/-- The canonical NaN byte of a NaN scale (R35, R39). -/
def nanScale (sf : Nat) : Byte := if sf == 1 then 0xFF else 0x7F

/-! ## Philox-4x32-10 (R37) -/

def philoxRound (k0 k1 : Nat) (c : Nat × Nat × Nat × Nat) : Nat × Nat × Nat × Nat :=
  let p0 := 0xD2511F53 * c.1
  let p1 := 0xCD9E8D57 * c.2.2.1
  ((p1 >>> 32) ^^^ c.2.1 ^^^ k0, p1 % 2 ^ 32, (p0 >>> 32) ^^^ c.2.2.2 ^^^ k1, p0 % 2 ^ 32)

def philoxRounds : Nat → Nat → Nat → Nat × Nat × Nat × Nat → Nat × Nat × Nat × Nat
  | 0, _, _, c => c
  | n + 1, k0, k1, c =>
    philoxRounds n ((k0 + 0x9E3779B9) % 2 ^ 32) ((k1 + 0xBB67AE85) % 2 ^ 32) (philoxRound k0 k1 c)

/-- The word rnd for element `e` of a tensor (R37). -/
def philox (seed : W64) (e tensor step : Nat) : Nat :=
  let s := seed.toNat
  let c := philoxRounds 10 (s % 2 ^ 32) (s / 2 ^ 32)
    ((e / 4) % 2 ^ 32, (e / 2 ^ 34) % 2 ^ 14, tensor % 2 ^ 32, step % 2 ^ 32)
  match e % 4 with
  | 0 => c.1
  | 1 => c.2.1
  | 2 => c.2.2.1
  | _ => c.2.2.2

end Sys2Proof.Machine
end

