-- ==== Sys2Proof/Machine/State.lean ====
section
/-!
DEFINITION. The state of the device as plain data, the reasons a step can stop, and the state after reset.
A table `SMap` is sparse: an unlisted key reads as the reset value named beside the field (log entry 9).
Fields whose docstring says MODEL are bookkeeping of the model's own: the spec names no register for them.
-/
namespace Sys2Proof.Machine

/-- Why the machine stops with a fault. -/
inductive Fault where
  /-- Raised by every meaning whose operands name a unit the device does not have (a service array of 1,200 or above,
  a core coordinate above 23, a port of 32 or above, ...; R2, R7, R12). Safe: the command cannot be given. -/
  | absentUnit
  deriving DecidableEq, Repr

/-- Why a command is refused. -/
inductive Refusal where
  /-- Raised by Dispatch for a command that has no meaning yet, by its mnemonic. Safe: nothing is claimed of it. -/
  | notModelled (mnemonic : String)
  deriving DecidableEq, Repr

/-! ## The core -/

/-- One open LOOP of the loop stack (R49): body slots `first` to `last`, firings of the body still to come after
this one, and the 0-based iteration count (R72). -/
structure LoopFrame where
  first : Nat
  last : Nat
  left : Nat
  it : Nat
  deriving DecidableEq, Repr

/-- A complete message in a ring, not retired (R101, R103): its header unit, its units F, and the units a wrap marker
skipped just before it (0 without a marker). -/
structure RingMsg where
  unit : Nat
  units : Nat
  skipped : Nat
  deriving DecidableEq, Repr

/-- An inbound ring (R100, R101). -/
structure Ring where
  /-- Write pointer, in units (12 bits). R101. Reset 0 (R100). -/
  wp : Nat
  /-- Read pointer, in units (12 bits). R103. Reset 0 (R100). -/
  rp : Nat
  /-- Complete messages not retired, oldest first. R103. Reset none (R46). -/
  msgs : List RingMsg
  /-- Next SEQ expected on the ring's channel (8 bits). R99. Reset 0 (R99). -/
  seq : Nat
  deriving DecidableEq, Repr

/-- A message: its header word (R99), its payload bytes, the CHAN_CFG W0 of its channel (LAND_FLAG, LAND_OP; R96) and the
outbound port it left, as 8·core + port. -/
structure Message where
  header : W64
  payload : List Byte
  chan : W64
  src : Nat
  deriving DecidableEq, Repr

/-- An outbound channel port (R96, R105). A message queued keeps the unit its payload starts at, and takes its bytes as it drains
(R93). -/
structure OutPort where
  /-- End-to-end credit, in 8-byte units. R105. Reset 0; size / 8 at the release of set-reset (R105). -/
  credit : Nat
  /-- Shadow copy of the destination ring's write pointer. R105. Reset 0. -/
  wp : Nat
  /-- SEQ of the next message (8 bits). R99. Reset 0 (R99). -/
  seq : Nat
  /-- The message queued and not yet drained; none: the port is idle (R105). Reset none (R46). -/
  out : Option Message
  /-- Unit at which the queued message's payload starts (R48). Reset 0. -/
  addr : Nat
  deriving DecidableEq, Repr

/-- One entry of a pairing register (R59): the item, and the fire cycle of its arrival (its age is counted from it). -/
structure SteerEntry where
  item : SteerItem
  born : Nat
  /-- Its STEER_SKEW fault has been raised (R59). MODEL. -/
  late : Bool
  deriving DecidableEq, Repr

/-- A steering unit (R57-R59). -/
structure Steer where
  /-- Pairing register, at most two entries. R59. Reset empty (R46). -/
  entries : List SteerEntry
  /-- Next control tag (6 bits). R58. Reset TAG_INIT at set-reset (R46); 0 before. -/
  nextCtl : BitVec 6
  /-- Next data tag (6 bits). R58. Reset TAG_INIT at set-reset (R46); 0 before. -/
  nextData : BitVec 6
  deriving DecidableEq, Repr

/-- A leaf an MMA formed (R26, R27): its FP32 value. -/
abbrev Leaf := W32

/-- One trapping event (R42, R43): fire cycle, source, format, slot, tensor identifier, tensor-table logical row, column and
batch. -/
structure TrapEvent where
  fireCycle : Nat
  src : Nat
  fmt : Nat
  slot : Nat
  tensor : Nat
  row : Nat
  col : Nat
  batch : Nat
  /-- Position of the element in its operation (R42): 16·i + j of the tile, or the word of a payload. MODEL. -/
  elem : Nat
  deriving DecidableEq, Repr

/-- A trapping event whose fire cycle the array has still to finish (R42): that cycle, its core as 24·y + x, whether a landing
raised it, the fire cycle in which its slot fired. MODEL. -/
structure TrapNote where
  cycle : Nat
  core : Nat
  landing : Bool
  issued : Nat
  event : TrapEvent
  deriving DecidableEq, Repr

/-- An MMA whose leaves are not all inserted yet (R74; R67 scan group 9): `issued` the fire cycle of its slot, `leaves` by output,
those not inserted, `cycles` the fire cycle in which each leaf of an output is inserted, `due` that of the last. MODEL bookkeeping
of R63 group 9. -/
structure MmaPend where
  due : Nat
  issued : Nat
  slot : Nat
  tens : Nat
  it : Nat
  start : Bool
  leaves : List (List Leaf)
  cycles : List Nat
  /-- Its profile word and the bytes of its moving operand, from which the long accumulators follow (R26, R67). -/
  profile : W64
  moving : List Byte
  deriving DecidableEq, Repr

/-- A vector result on its way to its tile registers (R48; R63 group 12): the fire cycle it lands in and the byte writes (tile
register x 1,024 + byte). -/
structure VecPend where
  due : Nat
  writes : List (Nat × Byte)
  deriving DecidableEq, Repr

/-- A slot operation's claim on scratchpad banks (R93): from fire cycle `start`, the units in order, `perCycle` of them a
cycle. MODEL. -/
structure Claim where
  start : Nat
  perCycle : Nat
  units : List Nat
  deriving DecidableEq, Repr

/-- The run-time state of a stream descriptor (R147, R148, R151, R154; R63 group 7). -/
structure Desc where
  /-- Open. Reset closed (R147). -/
  opened : Bool
  /-- READ, GATHER: oldest unreleased tile. WRITE, UPDATE: oldest tile not acknowledged. Reset 0. -/
  head : Nat
  /-- READ, GATHER: tiles started. WRITE, UPDATE: tiles sent. Reset 0. -/
  next : Nat
  /-- Tiles landed (READ, GATHER), or acknowledged (WRITE, UPDATE), of this pass. Reset none. -/
  done : List Nat
  /-- SEQ of the pass's next message (8 bits). R151. Reset 0. -/
  seq : Nat
  /-- Issuer only: tiles whose merged release token has come (R154), and those of them whose request waits for a freeze to end
  (R230). Reset 0. -/
  merged : Nat
  waits : Nat
  /-- Tiles of closed passes that have not landed: outstanding still (R149). Reset none. -/
  late : List Nat
  deriving DecidableEq, Repr

/-- One logical core (R44). -/
structure Core where
  /-- Live core configuration space, by byte offset (R198): CHAN_CFG, RING_CFG, STEER_CFG, MX_PROF, MCAST_RT, ECONST,
  EPROG, TENS_TAB, STREAM_DESC. Reset every byte 0 (R57, R68, R82, R96, R100, R116, R145). -/
  cfg : SMap Byte
  /-- Its shadow (R206). Reset 0. -/
  cfgShadow : SMap Byte
  /-- Live program bank, 1,024 slots of 64 bits (R44). Reset 0 (R50). -/
  prog : SMap W64
  /-- Shadow program bank (R50, R206). Reset 0. -/
  progShadow : SMap W64
  /-- Scratchpad, 65,536 bytes (R91). Reset 0 (R46; log entry 8). -/
  scratch : SMap Byte
  /-- Slot index (10 bits). R46. Reset 0. -/
  slot : Nat
  /-- Fire cycle in which the previous slot fired (R47). Reset 0 (R47). -/
  lastFire : Nat
  /-- WAIT countdown: extra fire cycles before the next slot's DELTA (24 bits). R48. Reset 0. -/
  extra : Nat
  /-- Loop stack, at most 4 levels, innermost first (R49). Reset empty (R46). -/
  loops : List LoopFrame
  /-- The sequencer has stopped (R49). Reset true: a core with no program is idle (R50). -/
  halted : Bool
  /-- FP_STATUS: bit 0 INVALID, 1 DIVZERO, 2 OVERFLOW, 3 UNDERFLOW, 4 INEXACT (R41). Reset 0 (R46). -/
  fpStatus : BitVec 5
  /-- 48 flags (R44). Reset 0 (R46). -/
  flags : BitVec 48
  /-- 16 arrival counters of 16 bits (R44). Reset 0 (R46). -/
  counters : SMap (BitVec 16)
  /-- 16 saturation stickies (R107). Reset 0 (R107). -/
  stickies : BitVec 16
  /-- 8 inbound rings (R100). Reset ⟨0, 0, [], 0⟩ each. -/
  rings : SMap Ring
  /-- 8 outbound channel ports (R96). Reset idle (R46). -/
  ports : SMap OutPort
  /-- 2 steering units (R57). Reset empty (R46). -/
  steers : SMap Steer
  /-- Fire cycle (plus 1) in which each of the four outward mesh link directions last took a scheduled item (R115), and that
  item. MODEL. Reset 0, none. -/
  meshClaim : SMap Nat
  meshOut : SMap (Option SteerItem)
  /-- Next SEQ expected of each direct-write channel, by source port 8·core + port (R99). Reset 0. -/
  seqs : SMap Nat
  /-- 64 stream descriptors' cursors (R145, R150). Reset closed (R147). -/
  descs : SMap Desc
  /-- STEP_NUM (32 bits). R150. Reset 0; START_STEP at set-reset (R150). -/
  stepNum : BitVec 32
  /-- Resident operand, 4,096 bytes (R67). Reset 0 (R46). -/
  resident : SMap Byte
  /-- Accumulator store entries, key 256·m + o (R75). Reset 0 (log entry 5: stale values no operation uses). -/
  acc : SMap W32
  /-- Pending maps, 16 bits an output (R75). Reset clear (R46). -/
  pend : SMap (BitVec 16)
  /-- Tile registers T0-T7, key 1,024·t + byte (R80). Reset 0 (R46). -/
  tiles : SMap Byte
  /-- MMAs whose leaves are not yet inserted, oldest first (R74). Reset none. -/
  mmaPend : List MmaPend
  /-- Fire cycle up to which the accumulator store is not settled after an MMA (R51). Reset 0. MODEL. -/
  accOpenTo : Nat
  /-- Vector results not yet landed (R48). Reset none. -/
  vecPend : List VecPend
  /-- Fire cycle from which the matrix engine is free (R48, R51). Reset 0. -/
  matrixFree : Nat
  /-- Fire cycle from which the vector engine is free (R48, R51). Reset 0. -/
  vectorFree : Nat
  /-- Fire cycle from which no VACC is running (R81). Reset 0. -/
  vaccFree : Nat
  /-- Fire cycle from which the tile-register port is free (R48, R51). Reset 0. -/
  moveFree : Nat
  /-- Fire cycle from which each tile register is free (R81). Reset 0. -/
  tileFree : SMap Nat
  /-- Bank claims of operations under way (R93). Reset none. MODEL. -/
  claims : List Claim
  /-- Ring messages that retire at the end of an operation's last fire cycle (R103): (that cycle, ring, header unit). Reset
  none. MODEL. -/
  retires : List (Nat × Nat × Nat)
  deriving DecidableEq, Repr

/-- What froze an array (R53). -/
inductive Freeze where
  | trap
  | fault
  | deadlock
  | bindOff
  | swap
  | scan
  deriving DecidableEq, Repr

/-- One service array (R12). -/
structure Arr where
  /-- Set-reset of its cores is released (R46, R214). Reset false. -/
  released : Bool
  /-- Index of the latest fired cycle (48 bits, R45), as a count that R43 reads modulo 2^48. Reset 0. -/
  fireCycle : Nat
  /-- The freeze asserted on its hold net (R53). Reset none. -/
  freeze : Option Freeze
  /-- Partition that holds it (R12). Reset none. -/
  part : Option Nat
  /-- TICK of its last periodic check (R321). Reset 0. -/
  lastCheck : Nat
  /-- It failed its last periodic check (R322). Reset false. -/
  failedOnce : Bool
  /-- Cores mapped out by fuses or soft entries, as 25·y + physical column (R61). Reset none. -/
  mappedOut : List Nat
  /-- Cores that soft entries map out from the next cast-on on (R61, R95), numbered alike. Reset none. -/
  mapNext : List Nat
  /-- Row remap entries of its physical cores (R94, R95): key 32·(25·y + column) + 2·bank + i, value row + 1. Reset: none valid. -/
  remap : SMap Nat
  /-- Correctable errors counted against rows of its physical cores (R94): 4,096·(25·y + column) + 256·bank + row, TICK. Reset none. -/
  rowCe : List (Nat × Nat)
  /-- Trapping events of its earliest such fire cycle, which the array has still to finish (R42). Reset none. MODEL. -/
  notes : List TrapNote
  /-- It has not completed zeroisation since its last confidential partition (R269). Reset false. -/
  dirtyConf : Bool
  deriving DecidableEq, Repr

/-! ## Tokens in flight -/

/-- Where a token is (R119-R133): at a router, at a reduction slot's input, at an array's gateway for a core, at a core,
or at a border station (R228 numbering: 0-39 MS, 40-47 FS; 48 + h HSh). -/
inductive Loc where
  | router (site : Nat)
  | redSlot (site slot side : Nat)
  | core (sa x y : Nat)
  | station (st : Nat)
  deriving DecidableEq, Repr

/-- What a stream request asks (R145, R155, R245, R158). -/
inductive ReqKind where
  | read
  | write
  | gather
  | update
  deriving DecidableEq, Repr

/-- A stream request (R147, R148, R155): who asks, the descriptor and tile, where in which region, the data it carries
(WRITE, UPDATE: the tile; GATHER: none), the row indices of a GATHER (R159), the step number (R173), the buffer unit the tile
lands at and the entry RESP it leaves on (R145). `host`: a write of that port through the data window or WIN_WRITE, which takes its
place in the station order (R245), or such a read that waits there. `arrived`: its place in the order of arrival at the station
port (R152; MODEL). `late`: it has been counted as having no bound (R157, R325; MODEL). -/
structure Request where
  rid : Nat
  kind : ReqKind
  part : Nat
  cls : Nat
  epoch : Nat
  sa : Nat
  x : Nat
  y : Nat
  desc : Nat
  tile : Nat
  region : Nat
  offset : Nat
  len : Nat
  data : List Byte
  rows : List Nat
  step : BitVec 32
  raddr : Nat
  resp : Nat
  host : Option Nat
  arrived : Nat
  late : Bool
  deriving DecidableEq, Repr

/-- One part of a gradient tile (R172): a dense group or a row, for its updating station; `sender` the key of the core that sent it
(R165). -/
structure GradPart where
  rid : Nat
  pset : Nat
  row : Bool
  first : Nat
  count : Nat
  data : List Byte
  scales : List Byte
  step : BitVec 32
  arrival : Nat
  sender : Nat
  deriving DecidableEq, Repr

/-- What a token carries (R209). -/
inductive Body where
  /-- A ring, partial or direct-write message (R99). -/
  | msg (m : Message)
  /-- A credit return of `units` 8-byte units for outbound port `port` (R105). -/
  | credit (port units : Nat)
  /-- A release token of multicast group `group`, tile `tile`, that comes from branch `branch` (R154). -/
  | release (group tile branch : Nat)
  /-- A stream request (R155). -/
  | request (r : Request)
  /-- A message of a READ or GATHER tile on its way to the descriptor's subscribers (R151): its issuer's descriptor as
  64·core + descriptor, RADDR, the tile, SEQ. -/
  | tile (src raddr tile seq : Nat) (data : List Byte)
  /-- The acknowledgement of a WRITE or UPDATE tile (R148). -/
  | ack (desc tile : Nat)
  /-- A part of an UPDATE tile on its way to its updating station (R172). -/
  | grad (g : GradPart)
  /-- A doorbell (R247): the core it names, counter and amount. -/
  | doorbell (sa x y cnt amount : Nat)
  deriving DecidableEq, Repr

/-- A token in flight (R209): its number, owner, class, epoch, place, the entry it enters by at a router (R119), and what
it carries. -/
structure Token where
  id : Nat
  part : Nat
  cls : Nat
  epoch : Nat
  loc : Loc
  entry : Nat
  /-- How it came to its router: the link it crossed, by the site it left and 0-3 N, E, S, W, or the router's own local (4) or station
  (5) port; and the lanes its flits may use there (R118, R134). MODEL. -/
  via : Option (Nat × Nat)
  lanes : List Nat
  body : Body
  deriving DecidableEq, Repr

/-! ## Routers and stations -/

/-- A reduction slot's two buffers (R130, R131): the message held on each side, the SEQ of the next result, and the
SEQs expected of the two inputs. -/
structure RedBuf where
  side0 : Option Message
  side1 : Option Message
  seq : Nat
  seq0 : Nat
  seq1 : Nat
  /-- Write pointers of the two buffers, which count as rings (R130). -/
  wp0 : Nat
  wp1 : Nat
  /-- Credit the slot holds towards its result's destination, and its shadow of that ring's write pointer (R131). -/
  credit : Nat
  wp : Nat
  deriving DecidableEq, Repr

/-- The router of a site (R122, R130). -/
structure Router where
  /-- 256 ROUTE_ENT words (R122). Reset 0. -/
  entries : SMap W64
  /-- 16 RED_ENT words (R130). Reset 0. -/
  red : SMap W64
  /-- The slots' buffers (R130). Reset empty. -/
  bufs : SMap RedBuf
  /-- Removed from the path graph (R127): failed, or its bed's transit rail is off. Reset false. -/
  dead : Bool
  /-- The router itself failed a test or failed in service (R17, R317): it stays removed. Reset false. -/
  failed : Bool
  /-- Link directions that leave it and are declared dead: 0 north, 1 east, 2 south, 3 west (R120, R128). Reset none. -/
  deadDirs : List Nat
  /-- Corrected errors of its links' lanes: lane as 32·dir + lane, TICK (R120). Reset none. -/
  laneCe : List (Nat × Nat)
  /-- Lanes marked for sparing, as 32·dir + lane (R120). Reset none. -/
  marked : List Nat
  /-- Lanes moved onto the spare, as 32·dir + lane (R120). Reset none. -/
  spared : List Nat
  /-- Branches that delivered the release token of a tree's tile: (group key, tile, branch) (R154). Reset none. -/
  releases : List (Nat × Nat × Nat)
  /-- Input direction whose class-0 flit an output took last (R134; MODEL: one turn for all outputs). Reset 6: the links come first
  (DESIGN CHOICE, log entry 84). -/
  turn : Nat
  /-- Reduction slot from which the next ready class-0 slot is sought (R134, R154; MODEL). Reset 0 (DESIGN CHOICE, log entry 84). -/
  redTurn : Nat
  deriving DecidableEq, Repr

/-- How far a request accepted by a memory station has come (R155, R158). -/
inductive Stage where
  | issued
  | ready
  | failed
  deriving DecidableEq, Repr

/-- A request that holds request slots at a station (R155), and its place in the order of acceptance (R175; MODEL). -/
structure Active where
  req : Request
  stamp : Nat
  /-- Request slots it holds, of which reserved (R157). -/
  slots : Nat
  reserved : Nat
  stage : Stage
  /-- Bytes read so far (R153, R159); of an UPDATE, not empty once a full pending quota has held its tile (R191). -/
  data : List Byte
  /-- Rows of a GATHER, or parts of an UPDATE, still to come. -/
  left : Nat
  deriving DecidableEq, Repr

/-- What a Parameter Service Engine thread does over several steps (R158): serves a GATHER, stages a block into a slot, or writes a
slot back. UPDATE, DIGEST and PENDING take a free thread for the one step in which the model applies them. -/
inductive Job where
  | serve (rid : Nat)
  | stage (slot : Nat)
  | evict (slot : Nat)
  deriving DecidableEq, Repr

/-- A thread (R158): its job; not ready while an access is in flight, ready while it waits on staging or an interlock. -/
structure Thread where
  job : Option Job
  ready : Bool
  deriving DecidableEq, Repr

/-- A directory entry of the slow tier (R179): `next` is NEXT. PEND and READERS are counted from the pending entries and from the
threads and queued updates that read the block. -/
structure DirEnt where
  valid : Bool
  dirty : Bool
  staging : Bool
  evicting : Bool
  ref : Bool
  part : Nat
  region : Nat
  block : Nat
  next : Nat
  deriving DecidableEq, Repr

/-- A pending entry of the slow tier (R181): its partition and part, the blocks it needs as (station, block) in increasing station
number, how many of them it holds a reservation for, and whether its part has been reported queued (R182). -/
structure PendEnt where
  part : Nat
  grad : GradPart
  blocks : List (Nat × Nat)
  held : Nat
  acked : Bool
  deriving DecidableEq, Repr

/-- A range of the pool (R138): base, size, partition, region. -/
structure Range where
  base : Nat
  size : Nat
  part : Nat
  region : Nat
  deriving DecidableEq, Repr

/-- A journal entry (R188), by its number in the station's journal area: a set's block state before the update of one step. -/
structure Journal where
  entry : Nat
  part : Nat
  pset : Nat
  block : Nat
  step : BitVec 32
  planes : List (Nat × List Byte)
  grads : List GradPart
  deriving DecidableEq, Repr

/-- A key register of a memory or flash station (R262): a partition's MEMK (kind 0), SPLK (1) or VOLK of a volume (2). -/
structure KeyReg where
  part : Nat
  kind : Nat
  vol : Nat
  key : List Byte
  deriving DecidableEq, Repr

/-- The record of a spill granule (R164, R264): its write count, 48 bits, and its tag. -/
structure Seal where
  count : Nat
  tag : List Byte
  deriving DecidableEq, Repr

/-- A record as the zero-write leaves it. Its tag is no tag of the granule, so a READ of a granule that nothing has written since raises
SPILL_AUTH (DESIGN CHOICE, log entry 81). -/
def Seal.fresh : Seal := ⟨0, List.replicate 16 0⟩

/-- A memory station (R137-R159, R177-R188). -/
structure Ms where
  /-- MS_STATE (R166): 0 in service, 1 degraded, 2 out of service. Reset 0. -/
  state : Nat
  /-- The stack's bytes as data, by stack-local address (36 bits, R137). Reset 0 (log entry 8). -/
  stack : SMap Byte
  /-- Poison table: sector addresses, at most 4,096 (R143). Reset empty. -/
  poison : List Nat
  /-- MS_CE, MS_UE, MS_INNER_CE, MS_CLASS0_LATE (R166), 32 bits, saturating. Reset 0. -/
  ce : Nat
  ue : Nat
  innerCe : Nat
  class0Late : Nat
  /-- Corrections of this scrub period by stack row (R142), and rows over the limit. Reset 0. -/
  rowCe : SMap Nat
  rowsDue : List Nat
  /-- Rows that received soft row repair (R142). Reset none. -/
  rowsRepaired : List Nat
  /-- Stack lanes repaired through the stack's test port (R317). Reset none. -/
  lanesRepaired : List Nat
  /-- Next sector address the scrub reads (R144). Reset 0. -/
  scrubAt : Nat
  /-- Pool ranges given to regions (R138) and ranges waiting for their zero-write (R215). Reset none. -/
  ranges : List Range
  zeroing : List Range
  /-- Requests waiting in the attach router and requests that hold slots (R155), in arrival order. Reset none. -/
  waiting : List Request
  active : List Active
  /-- Slots that waiting class-0 requests have taken so far, as (request, reserved, unreserved) (R157). Reset none. -/
  taken : List (Nat × Nat × Nat)
  /-- Slots served to classes 1, 2, 3 in the round robins under way at the slot queue, the stack scheduler, thread dispatch and the
  port output (R155). Reset 0. -/
  rr : List Nat
  rrStack : List Nat
  rrThread : List Nat
  rrOut : List Nat
  /-- Engine threads, 32 (R158). Reset none busy. -/
  threads : SMap Thread
  /-- The thread issued last (R158). Reset 0. MODEL. -/
  lastThread : Nat
  /-- 64 station reduction slots: RED_ENT words and buffers (R133). Reset 0. -/
  red : SMap W64
  bufs : SMap RedBuf
  /-- Gradient parts queued for the engine, oldest first (R172, R174). Reset none. -/
  updq : List GradPart
  /-- Their partitions, in the same order. MODEL. -/
  updParts : List Nat
  /-- Staging slots' directory (R177, R179), its bucket heads as first slot + 1 (R177), and pending entries (R181). Reset
  invalid. -/
  dir : SMap DirEnt
  buckets : SMap Nat
  pends : SMap PendEnt
  /-- Journal entries, at most 2,016 (R188). Reset none. -/
  journals : List Journal
  /-- Its key registers (R262). Reset none. -/
  keys : List KeyReg
  /-- Tags and write counts of spill granules, by stack-local address of the granule's record (R164). Reset none. -/
  seals : SMap Seal
  /-- Its firmware image (R258): 0 A, 1 B, 2 golden, and 4 x how often that slot's content had been written (MODEL). Reset 0. -/
  image : Nat
  /-- Reduction slot from which the next ready class-0 slot is sought (R134, R154; MODEL). Reset 0 (DESIGN CHOICE, log entry 84). -/
  redTurn : Nat
  deriving DecidableEq, Repr

/-- A flash station (R160, R166). -/
structure Fs where
  /-- FS_STATE. Reset 0. -/
  state : Nat
  retries : Nat
  rebuilds : Nat
  ue : Nat
  /-- NAND channels out of service (R317). Reset none. -/
  badChannels : List Nat
  image : Nat
  /-- Its key registers (R262). Reset none. -/
  keys : List KeyReg
  deriving DecidableEq, Repr

/-- A flash volume (R162, R250-R252). -/
structure Volume where
  /-- Owning port, size in GiB. -/
  port : Nat
  sizeGib : Nat
  /-- Confidential: the partition it was created for (R252). -/
  conf : Option Nat
  /-- Bound to (partition, region) (R252). -/
  bound : Option (Nat × Nat)
  /-- R185: inconsistent. -/
  inconsistent : Bool
  /-- Blocks marked lost (R161). -/
  lost : List Nat
  data : SMap Byte
  deriving DecidableEq, Repr

/-! ## Partitions -/

/-- STATE of R222. -/
inductive PState where
  | none
  | created
  | ready
  | casting
  | running
  | quiescing
  | suspended
  | placed
  | resumable
  | complete
  | binding
  | ended
  deriving DecidableEq, Repr

/-- A record register of four 64-bit words (R43, R190, R228). -/
structure Rec4 where
  w0 : W64
  w1 : W64
  w2 : W64
  w3 : W64
  deriving DecidableEq, Repr

/-- A REGION_ENT (R138). -/
structure RegionEnt where
  w0 : W64
  w1 : W64
  deriving DecidableEq, Repr

/-- A route record (R199). -/
structure RouteRec where
  w0 : W64
  w1 : W64
  w2 : W64
  w3 : W64
  deriving DecidableEq, Repr

/-- The header values of a committed skein (R193, R207). -/
structure Settings where
  strict : Bool
  trap : Nat
  scanEn : Bool
  scanRegion : Nat
  startStep : BitVec 32
  castOrder : Byte
  slowQuota : W64
  class0Res : List Nat
  jobSeed : W64
  digest : List Byte
  deriving DecidableEq, Repr

/-- A multicast tree as commit built it (R129, R154): group, issuer core (sa, x, y), its descriptor, root site, and the
nodes (site, parent site, branches), where a branch is an output direction 0-3, or 4 for the local port. -/
structure Tree where
  group : Nat
  sa : Nat
  x : Nat
  y : Nat
  desc : Nat
  root : Nat
  nodes : List (Nat × Nat × List Nat)
  deriving DecidableEq, Repr

/-- What the allocation of a commit has taken, until its swap (R208): route entries (site, index, entry), reduction slots (at a
station, site or station, slot, RED_ENT), where each reduction point lies, ROUTE and RESP fields (core key, offset of the word in
the configuration space, low bit, value), multicast trees, the doorbell tree's entry, pool ranges (station, range), share bases
and the homes of KIND 2 regions. -/
structure Plan where
  entries : List (Nat × Nat × W64)
  reds : List (Bool × Nat × Nat × W64)
  redAt : List (Nat × Bool × Nat × Nat)
  fields : List (Nat × Nat × Nat × Nat)
  trees : List Tree
  dbEntry : Option Nat
  ranges : List (Nat × Range)
  bases : List (Nat × Nat)
  homes : List (Nat × List Nat)
  deriving DecidableEq, Repr

/-- A held divergence (R189): replica group, block, step, the sets' codes, the steps tried (bit 0 REREAD, 1 RECOMPUTE,
2 VOTE). -/
structure Divergence where
  rgroup : Nat
  block : Nat
  step : BitVec 32
  codes : List (Nat × W64)
  tried : Nat
  deriving DecidableEq, Repr

/-- A suspension image (R63, R64, R231; log entry 20): the service arrays it was taken from in SA_REL order with their array
state, the cores by key with the check code of their program, and the buffers of each reduction point with the places the
points had. -/
structure ScanImage where
  sas : List Nat
  arrays : List Arr
  cores : List (Nat × Core)
  codes : List (Nat × W64)
  slots : List (Nat × RedBuf)
  redAt : List (Nat × Bool × Nat × Nat)
  deriving DecidableEq, Repr

/-- A partition (R217-R238). -/
structure Part where
  /-- STATE (4 bits). R222. Reset NONE. -/
  state : PState
  /-- Owning port, class, confidential (R217, R218). Reset 0, 0, false. -/
  owner : Nat
  cls : Nat
  conf : Bool
  /-- Service arrays in SA_REL order (R220), and SA_COUNT (R218). Reset none, 0. -/
  sas : List Nat
  saCount : Nat
  /-- Configuration epoch (4 bits, R208); commits and firmware switchovers since creation (R266). Reset 0. -/
  epoch : Nat
  commits : Nat
  fwChanges : Nat
  /-- SKEIN_CHAIN, HOST_KEY digest (48 B each, R266), creation serial (R262). Reset zeros. -/
  chain : List Byte
  hostKey : List Byte
  serial : Nat
  /-- The bound host public key, whose SHA-384 HOST_KEY is (R261), and the partition root key in the MGS key store (R262). Reset none. -/
  hostPub : List Byte
  prk : List Byte
  /-- Live header values (R207). Reset zeros. -/
  set : Settings
  /-- Counter mode fixed at commit (R108). Reset lenient. -/
  strictMode : Bool
  /-- PART_SW (R225): END, STICKY, FPX, MEM_WARN, SUSP_DEV, CLASS0_LATE, SLOWDOWN, PROGRESS. Reset 0. -/
  endCode : Nat
  /-- When END, PART_FAULT and TRAP_INFO were set: TICK, and the event's place among those of one tick (R229). Reset (0, 0). MODEL. -/
  endAt : Nat × Nat
  faultAt : Nat × Nat
  trapAt : Nat × Nat
  sticky : Bool
  fpx : BitVec 5
  memWarn : Bool
  suspDev : Bool
  class0Late : Bool
  slowdown : Nat
  progress : Nat
  /-- A commit is pending (R208). Reset false. -/
  commitPending : Bool
  /-- FLUSHED (R201). Reset 0. -/
  flushed : Nat
  /-- PART_CTL RESULT (R223). Reset 0. -/
  result : Nat
  /-- JOB_REF words, JOB_TIME ticks (R233). Reset 0. -/
  jobRef0 : W64
  jobRef1 : W64
  elapsedTicks : Nat
  /-- Ticks of the freeze under way, which JOB_TIME takes in if the freeze is released (R233). Reset 0. -/
  quiesceTicks : Nat
  /-- FC_MIN as last gathered, for the states in which no array of the partition fires (R233). Reset 0. MODEL. -/
  fcHeld : Nat
  /-- DL_CTL, DL_STATUS (R111, R112). Reset 0. -/
  dlCtl : W64
  dlStatus : W64
  /-- PART_FAULT (R228), TRAP_INFO (R43), DIV_INFO (R190). Reset 0. -/
  fault : Rec4
  trap : Rec4
  div : Rec4
  /-- REGION_ENT live and shadow (R138); each share's base, key 64·region + MS (R138). Reset 0. -/
  regions : SMap RegionEnt
  regionsShadow : SMap RegionEnt
  bases : SMap Nat
  /-- Stations in service at the region's commit, for KIND 2 homing (R138). Reset none. -/
  homes : SMap (List Nat)
  /-- PSET_ENT words, key 8·set + word, live and shadow (R169). Reset 0. -/
  psets : SMap W64
  psetsShadow : SMap W64
  /-- Graph table bytes, live and shadow (R197). Reset empty. -/
  graph : SMap Byte
  graphShadow : SMap Byte
  /-- Route records, live and of the load (R199). Reset none. -/
  routes : List RouteRec
  routesShadow : List RouteRec
  /-- Multicast trees of the live configuration (R154). Reset none. -/
  trees : List Tree
  /-- Where commit placed each reduction point: (ID, at a station, site or station, slot) (R130, R133). Reset none. -/
  redAt : List (Nat × Bool × Nat × Nat)
  /-- Doorbell-tree entry at the host station's attach router (R247). Reset none. -/
  dbEntry : Option Nat
  /-- What the commit under way has taken (R208). Reset none. -/
  plan : Option Plan
  /-- Cast-on steps still to run (R212), and whether OUTPUTS and WRITES have run (R214). Reset none, false. -/
  castLeft : List Nat
  outputs : Bool
  writes : Bool
  /-- A STOP waits for the current cast-on step (R222), a scan-out is wanted at bind-off (R215). Reset false. -/
  stopWaits : Bool
  scanWanted : Bool
  /-- PLACE or RESUME is running (R223). Reset false. -/
  placing : Bool
  resuming : Bool
  /-- The device started the suspension (R230). Reset false. -/
  byDevice : Bool
  /-- The suspension image as decoded: what the bytes of groups whose layout the spec does not give stand for (log entry 20). Reset
  none. -/
  image : Option ScanImage
  /-- Held divergences, oldest first (R189). Reset none. -/
  divs : List Divergence
  /-- Master groups written for a step, as (set, block, step, group) (R186). Reset none. MODEL. -/
  written : List (Nat × Nat × Nat × Nat)
  /-- Codes computed, as (set, block, step, code) (R186). Reset none. MODEL. -/
  codes : List (Nat × Nat × Nat × W64)
  /-- WRITE tiles sent and not acknowledged, as (core key, descriptor, tile, fire cycle) (R226). Reset none. MODEL. -/
  openWrites : List (Nat × Nat × Nat × Nat)
  /-- TICK at which the deadlock detector's window under way began (R110, R111). Reset 0. MODEL. -/
  dlFrom : Nat
  deriving DecidableEq, Repr

/-- A response PDU body (R276): ABORT and the bytes that follow it. -/
structure DResp where
  abort : Nat
  body : List Byte
  deriving DecidableEq, Repr

/-- A segmented transfer (R285): write or read, object, TOTAL, bytes, timed out. -/
structure Xfer where
  wr : Bool
  index : Nat
  sub : Nat
  total : Nat
  bytes : List Byte
  timedOut : Bool
  deriving DecidableEq, Repr

/-! ## Host ports -/

/-- How far a commit has come (R208). -/
inductive CommitStage where
  | idle
  | halting
  | queued
  | draining
  deriving DecidableEq, Repr

/-- The skein loader of a port (R201, R202). -/
structure Loader where
  /-- STATE of SKEIN_STATUS (3 bits, R202). Reset 0. -/
  state : Nat
  overrun : Bool
  /-- REASON (8 bits), FRAME (32 bits). Reset 0. -/
  reason : Nat
  frame : Nat
  /-- PART of SKEIN_CTL (6 bits), and the partition of the load under way. Reset 0. -/
  ctlPart : Nat
  part : Nat
  /-- DEADLINE in µs (R201). Reset 800,000: 1,000 x 0x5020:00 (R216). -/
  deadline : Nat
  /-- Skein bytes received (R201). Reset none. -/
  bytes : List Byte
  /-- Frames checked so far and the offset of the next one (R202). Reset 0. MODEL. -/
  framesDone : Nat
  framePos : Nat
  /-- Bytes of ROUTE and GRAPH frames so far (R197). Reset 0. MODEL. -/
  routeBytes : Nat
  graphBytes : Nat
  /-- Cores whose scratchpad SCRATCH frames wrote (R206). Reset none. MODEL. -/
  scratched : List Nat
  /-- COMMIT_CTL POLICY (1: FLUSH) and DRAIN_US (R201). Reset 0. -/
  flush : Bool
  drainUs : Nat
  /-- TICK of the load's START (R203), and of the start of its drain (R210). Reset 0. MODEL. -/
  startedAt : Nat
  drainAt : Nat
  /-- COMMIT_STATUS COMMITTED, NO_STAGED, REASON (R201). Reset 0. -/
  committed : Bool
  noStaged : Bool
  commitReason : Nat
  stage : CommitStage
  deriving DecidableEq, Repr

/-- A queue command fetched (R249, R250): started or not, the window requests it still waits for, and its status so far. -/
structure QEntry where
  cmd : QCmd
  started : Bool
  left : List Nat
  status : Nat
  /-- Its number, by which a doorbell waits for a WIN_WRITE fetched before it (R248). MODEL. -/
  id : Nat
  deriving DecidableEq, Repr

/-- A completion waiting for room, or posted (R250). -/
structure Completion where
  cid : Nat
  status : Nat
  result : W64
  deriving DecidableEq, Repr

/-- A queue pair (R249). -/
structure Queue where
  sqBase : W64
  cqBase : W64
  /-- SQ_LOG2, CQ_LOG2, VECTOR, ENABLE. Reset 0. -/
  sqLog2 : Nat
  cqLog2 : Nat
  vector : Nat
  enable : Bool
  /-- SQ_TAIL, SQ head, CQ_HEAD, CQ tail. Reset 0. -/
  sqTail : Nat
  sqHead : Nat
  cqHead : Nat
  cqTail : Nat
  /-- PHASE of the next completion (R250). Reset 1. -/
  phase : Bool
  cmds : List QEntry
  done : List Completion
  deriving DecidableEq, Repr

/-- A doorbell held at its port (R247, R248): token data, and the acknowledgements it waits for. -/
structure Doorbell where
  part : Nat
  epoch : Nat
  saRel : Nat
  x : Nat
  y : Nat
  cnt : Nat
  amount : Nat
  after : List Nat
  deriving DecidableEq, Repr

/-- A host read of region bytes that waits at stations (R175, R245): where a WIN_READ puts them in host memory, the pieces as
(request, bytes once read), and whether one failed. -/
structure OpenRead where
  addr : Option W64
  pieces : List (Nat × Option (List Byte))
  failed : Bool
  deriving DecidableEq, Repr

/-- An IDE stream (R253): active key set, key sets programmed, state (0 idle, 1 secure, 2 insecure), session. -/
structure Ide where
  state : Nat
  keySet : Nat
  progd : List Nat
  session : Nat
  deriving DecidableEq, Repr

/-- An SPDM session (R254, R261): stage (1 handshake, 2 open), its host key digest when authenticated, key updates. -/
structure Spdm where
  stage : Nat
  hostKey : Option (List Byte)
  hostPub : List Byte
  updates : Nat
  deriving DecidableEq, Repr

/-- A host port (R239-R256). -/
structure Port where
  /-- PORT_STATUS (R244): READY, SPEED, WIDTH, FLIT; link up. Reset 0. IDE_LINK follows from the link stream, FW_SWITCH from the switchover. -/
  linkUp : Bool
  ready : Bool
  speed : Nat
  width : Nat
  flit : Bool
  /-- Its host station is out of service (R240). Reset false. -/
  lost : Bool
  /-- PART_CREATE (R218): SA_COUNT, CLASS, CONF, PART, RESULT. BUSY is never seen: creation is one step. Reset 0. -/
  pcSa : Nat
  pcClass : Nat
  pcConf : Bool
  pcPart : Nat
  pcResult : Nat
  loader : Loader
  /-- JOB_COUNT (R234). Reset 0. -/
  started : Nat
  completed : Nat
  /-- PORT_ERR (R244): UNMAPPED, NOT_OWNED, MISALIGNED, DB_DROPPED, 16 bits each, saturating. Reset 0. -/
  unmapped : Nat
  notOwned : Nat
  misaligned : Nat
  dbDropped : Nat
  /-- WIN_MAP 0-63 (R245). Reset 0. -/
  winMap : SMap W64
  /-- Queue pairs 0-7 (R249). Reset 0. -/
  queues : SMap Queue
  /-- MSI-X table words 2v (address) and 2v + 1 (data), unmasked vectors, pending bits (R243). Reset 0: every vector is masked (log
  entry 22). -/
  msix : SMap W64
  unmask : W64
  pba : W64
  /-- Window writes and WIN_WRITEs received and not acknowledged (R248), by request number. Reset none. -/
  openWrites : List Nat
  /-- Host reads under way at stations. Reset none. -/
  openReads : List OpenRead
  doorbells : List Doorbell
  /-- IDE streams: 0 link, 1-8 selective (R253). SPDM sessions 0-3 (R254). Reset none. -/
  ide : SMap Ide
  spdm : SMap Spdm
  /-- MCTP endpoint ID (R255). Reset 0. The transfer of its Gelokan reads (R285, R294). Reset none. -/
  eid : Nat
  mctpXfer : Option Xfer
  /-- AER uncorrectable errors logged (R253). Reset 0. -/
  aer : Nat
  /-- Configuration space (R239, R242): the two BARs' addresses, D3hot, the completion timeout's value and disable bit. Reset 0, D0, 0
  (50 ms; log entry 70). -/
  bar0 : W64
  bar2 : W64
  d3hot : Bool
  cto : Nat
  ctoOff : Bool
  /-- SerDes lanes that failed test 12: the link downtrains (R239, R317). Reset none. -/
  badLanes : List Nat
  /-- The queue whose command started last (R249). Reset 7. MODEL. -/
  lastQ : Nat
  image : Nat
  deriving DecidableEq, Repr

/-! ## Beds, power, clocks -/

/-- BED_STATE (R302). -/
inductive BedState where
  | sleep
  | waking
  | awake
  | draining
  | offHeat
  | failedCore
  | failedTransit
  deriving DecidableEq, Repr

/-- A bed (R295-R311). -/
structure Bed where
  /-- BED_STATE (R302). Reset SLEEP. -/
  state : BedState
  /-- BED_FREQ in MHz, 0 when parked (R311). Reset 0. -/
  freq : Nat
  /-- BED_FMAX (R311). Reset 1,100. -/
  fmax : Nat
  /-- Thermal ceiling in MHz (R306). Reset 1,100 (log entry 5). -/
  thermal : Nat
  /-- Four sensors' last readings in 0.1 °C (R306), and those excluded with their passing checks since (R316). Reset 0, none. -/
  sensors : List Int
  excluded : List (Nat × Nat)
  /-- BED_TRIPS (16 bits, R311), TICK of the last re-enable plus 1 (R298). Reset 0. -/
  trips : Nat
  reenabledAt : Nat
  /-- Latched until module service, by a second trip or a blown fuse (R298). Reset false. -/
  latched : Bool
  /-- A full self-test is asked for, by FULL_TEST or BED_REENABLE (R298, R315, R323); the self-test under way is a full one. Reset
  false. -/
  fullTest : Bool
  testing : Bool
  /-- Own transit converter works; branch fed (R297). Reset true. -/
  converter : Bool
  branch : Bool
  /-- Supply monitor passes (R315). Reset true. -/
  monitor : Bool
  /-- Bed whose spine this bed's spine takes the clock from; its own number at an injection point (R300). Reset none: no clock runs before power-up. -/
  spine : Option Nat
  deriving DecidableEq, Repr

/-! ## The dictionary -/

/-- A Gelokan session (R277-R285). -/
structure Sess where
  seg : Nat
  /-- ROLE: 1 operator, 2 maintenance, 3 commissioning (R276). -/
  role : Nat
  /-- AUTH has succeeded (R278). -/
  opened : Bool
  /-- Highest accepted SEQ, and bit k set: SEQ hi - k accepted (R280). Reset 0. -/
  hi : Nat
  window : BitVec 64
  /-- The 8 most recent responses by SEQ, newest first (R280). -/
  recent : List (Nat × DResp)
  /-- Fields of applied records whose response was dropped before it left the segment, by its SEQ (R274, R289). Reset none. -/
  unsent : List (Nat × List (Nat × Nat × List Byte))
  xfer : Option Xfer
  /-- Staged fields (index, sub, bytes) and stale records (R289). -/
  staged : List (Nat × Nat × List Byte)
  stale : List Nat
  /-- EVT_CURSOR (R293). Reset 0. -/
  cursor : Nat
  /-- The identifier generation it was opened in (R282), the requester's address, its keys GLK-RQ and GLK-RS, and the bodies of OPEN and its response (R278). -/
  gen : Nat
  peer : List Byte
  rqKey : List Byte
  rsKey : List Byte
  bodies : List Byte
  deriving DecidableEq, Repr

/-- A response queued for transmission (R273): SESSION, SEQ, body, and the fields that take effect once it has left
(R289). -/
structure TxFrame where
  session : Nat
  seq : Nat
  resp : DResp
  due : List (Nat × Nat × List Byte)
  /-- KIND, the destination MAC address, and the key of the tag; none in CERT and OPEN (R275, R279). -/
  kind : Nat
  dst : List Byte
  key : List Byte
  deriving DecidableEq, Repr

/-- A field-network segment (R272-R274, R292). -/
structure Seg where
  /-- PLCA_NODE, PLCA_COUNT, TO_TIMER, MAX_BURST, PLCA_EN, PLCA_LOSS, T1S_TERM (R292, R339). Reset 1, 8, 32, 0, 1, 20, 0. -/
  node : Nat
  count : Nat
  toTimer : Nat
  maxBurst : Nat
  plcaEn : Bool
  plcaLoss : Nat
  term : Bool
  /-- MODE (R292): 0 PLCA, 1 CSMA/CD, 2 link down. Reset 0 (R273). -/
  mode : Nat
  /-- FCS_ERR, PLCA_COLL, CSMA_COLL, TX_DROPPED, MODE_CHANGES, MALFORMED (R292), saturating. Reset 0. -/
  fcsErr : Nat
  plcaColl : Nat
  csmaColl : Nat
  txDropped : Nat
  modeChanges : Nat
  malformed : Nat
  /-- Frames queued for transmission (R273), attempts of the first one in CSMA/CD (R274). Reset none, 0. -/
  txq : List TxFrame
  attempts : Nat
  backoff : Bool
  /-- OPEN requests accepted, by TICK (R281). Reset none. -/
  opens : List Nat
  deriving DecidableEq, Repr

/-- An event record (R293). -/
structure Evt where
  tick : Nat
  seq : Nat
  source : Nat
  code : Nat
  part : Nat
  param : List Byte
  deriving DecidableEq, Repr

/-- The dictionary and the event log (R276-R294). -/
structure Gel where
  sessions : SMap Sess
  segA : Seg
  segB : Seg
  /-- STRANGERS, GMAC_FAIL, REPLAYS, OPEN_LIMITED, both segments together (R292), saturating. Reset 0. -/
  strangers : Nat
  gmacFail : Nat
  replays : Nat
  openLimited : Nat
  /-- ETHERTYPE, SEG_TIMEOUT, SESSION_IDLE, SESS_GEN, SESS_NEXT (R292). Reset 0x88B5, 500, 300, 0, 1. -/
  etherType : Nat
  segTimeout : Nat
  sessionIdle : Nat
  sessGen : Nat
  sessNext : Nat
  /-- MAINT_AUTH, OPER_AUTH (48 B, R271, R292). Reset zeros. -/
  maintAuth : List Byte
  operAuth : List Byte
  /-- The event log, oldest first, at most 65,536; EVT_NEXT, EVT_LOST (R293). Reset none, 0, 0. -/
  log : List Evt
  evtNext : Nat
  evtLost : Nat
  deriving DecidableEq, Repr

/-- Tunable objects that stand alone (RW objects of R95, R108, R136, R166, R191, R216, R238, R310, R323). -/
structure Tune where
  scratchCeLimit : Nat
  scratchCeWindow : Nat
  counterStrictSa : Nat
  deadlockTicks : Nat
  laneCeLimit : Nat
  laneCeWindow : Nat
  scrubPeriod : Nat
  memRowCeLimit : Nat
  slowWaitLimit : Nat
  skeinDeadlineDef : Nat
  drainTimeoutDef : Nat
  quiesceLimit : Nat
  powerLimit : Nat
  throttleT : Int
  drainT : Int
  drainHold : Nat
  bedIdleSleep : Nat
  checkPeriod : Nat
  deriving DecidableEq, Repr

/-- Saturating device counters that stand alone (R95, R136, R191, R216, R271, R295, R323, R327). -/
structure Tally where
  scratchUe : Nat
  scratchRowsMapped : Nat
  lanesSpared : Nat
  routeDrops : Nat
  slotEvictions : Nat
  pendFullWaits : Nat
  digestMismatch : Nat
  digestReread : Nat
  digestRecompute : Nat
  digestVote : Nat
  skeinRejects : Nat
  commits : Nat
  tokensFlushed : Nat
  keysDestroyed : Nat
  feedDrops : Nat
  borderRestarts : Nat
  checkRuns : Nat
  checkFails : Nat
  entropyFails : Nat
  deriving DecidableEq, Repr

/-! ## MGS, power-up, feeds -/

/-- Where power-up stands (R312, R314): off; standby phase ended; border phase running; border released; border held
in reset (R258, R317). -/
inductive Phase where
  | off
  | standby
  | border
  | released
  | held
  deriving DecidableEq, Repr

/-- An entry of the measurement log (R258, R259, R269): an element's image with its digest, or a debug session. -/
inductive LogEntry where
  | image (element image : Nat) (digest : List Byte)
  | debug (session : Nat)
  deriving DecidableEq, Repr

/-- Firmware update state (R327). -/
structure Fw where
  /-- Active and written slot (0 A, 1 B; 2 golden), FW_OFFSET, image bytes written, FW_RESULT, verified SVN. Reset 0, 0, 0, none,
  0, 0. -/
  active : Nat
  slot : Nat
  offset : Nat
  image : SMap Byte
  result : Nat
  svn : Nat
  /-- Elements still to switch, in order, as (kind, number) (R327). Reset none. -/
  pending : List (Nat × Nat)
  /-- Running SVN, SVN_MIN's 64 one-time bits (R257, R259), SVN_COMMIT as last written (R271). Reset 0 (log entry 18). -/
  runningSvn : Nat
  svnFuse : W64
  svnCommit : Nat
  /-- First stage running: 0 A, 1 B, 2 golden (R271), and the content of its slot at power-up. How often the contents of A and B have
  been written. MODEL. Reset 0. -/
  first : Nat
  firstVer : Nat
  verA : Nat
  verB : Nat
  /-- The image that the management controllers run, with its slot's content as in Ms.image (R259, R265). Reset 0. MODEL. -/
  mgsImage : Nat
  /-- The measurement log (R258, R259, R269). Reset none. -/
  log : List LogEntry
  deriving DecidableEq, Repr

/-- A repair of the repair map (R318): an SA number's site, a site out of service, a core mapped out (as `Arr.mappedOut` numbers it), a
scratchpad row's entry (key and value of `Arr.remap`), a lane on its spare, a lane and a row of a stack. -/
inductive Repair where
  | move (sa site : Nat)
  | out (site : Nat)
  | core (sa core : Nat)
  | row (sa key row : Nat)
  | lane (site key : Nat)
  | stackLane (ms lane : Nat)
  | stackRow (ms row : Nat)
  deriving DecidableEq, Repr

/-- MGS, the always-on domain, the module (R257-R271, R295-R300, R312-R323, R331-R339). -/
structure Mgs where
  phase : Phase
  /-- TICK, always-on ticks since power-up (64 bits, R293, R299). Reset 0. -/
  tick : Nat
  /-- TICK at the standby phase's start and at border release (R323 POWERUP_MS). Reset 0. -/
  releasedAt : Nat
  /-- 54 V feeds connected (R295). Standby feeds within limits (R296). Reset none. -/
  feeds : List Nat
  standby : List Nat
  /-- POWER_NOW, common power ceiling in MHz, periods below the cap (R304). Reset 0, 1,100, 0. -/
  powerNow : Nat
  ceiling : Nat
  below : Nat
  /-- REF_STATE bits (R310), TPLL_STATE. Reset 3 (both good), 0. -/
  refA : Bool
  refB : Bool
  refBInUse : Bool
  tpll : Nat
  /-- Coolant readings (R307, R310) in 0.1 °C and 0.1 L/min; leak; commissioning input (R339). Reset 350, 350, 480 (log
  entry 19), false, false. -/
  coolIn : Int
  coolOut : Int
  coolFlow : Nat
  coolLeak : Bool
  commission : Bool
  /-- Management controllers in service (R323 MGC_PASS), entropy sources in service and the spare one (R270, R271), requests
  served since the generator's last reseed (R270), key store banks in service (R317). Reset all, sources 0 and 1, 2, 0, both. -/
  mgcs : List Nat
  entropy : List Nat
  spareSource : Option Nat
  drbg : Nat
  banks : List Nat
  /-- DEBUG_LOCK and MAINT_DEBUG fuses (R257), debug token's remaining ticks (R269), debug sessions logged (R269). Reset true,
  false, 0, 0. -/
  debugLock : Bool
  maintDebug : Bool
  debugTicks : Nat
  debugSessions : Nat
  /-- Commits waiting for allocation, by port, in order of COMMIT arrival (R208). Reset none. -/
  commitQueue : List Nat
  /-- Partitions created since shipment (R262). Reset 0. -/
  creations : Nat
  /-- Repair map: SA number to site, moved entries only (R7, R319); spare sites; sites out of service; soft entries; free fuse
  records (R318, R323). Reset: SA n at site n, spares 1200-1295 (log entry 14), none, 0, 8,192. -/
  saSite : SMap Nat
  spares : List Nat
  deadSites : List Nat
  softEntries : Nat
  fuseFree : Nat
  /-- Repairs that the repair fuses hold (R318): they survive the loss of module flash. Reset none (log entry 14). -/
  fused : List Repair
  /-- Copies of the repair map in module flash, 0 and 1, that fail their CRC-32 (R318). Reset none. -/
  mapBad : List Nat
  /-- The trim or options fuses failed their ECC, and MGS applies safe defaults (R317). Reset false. -/
  safeDefaults : Bool
  /-- Test results by test number (R323 TEST_RESULT, TEST_RUNS, TEST_FAILS). Reset 3 not run, 0, 0. -/
  testResult : SMap Nat
  testRuns : SMap Nat
  testFails : SMap Nat
  /-- A BORDER_RESTART waits for every partition to end (R314). The border phase has begun since power-up. Reset false. -/
  restartWaits : Bool
  bordered : Bool
  /-- Base routes are loaded into entries 240-255 of every router (R123, R312 B6). Reset false. -/
  baseRoutes : Bool
  /-- CDI and the alias certificate of this power-up, and the seal on DIK and UDS (R258). Reset none, none, false. -/
  cdi : List Byte
  aliasCert : List Byte
  sealed : Bool
  /-- Silicon stepping, from the OPTIONS fuses (R193, R244, R257). Reset 0 (log entry 18). -/
  stepping : Nat
  deriving DecidableEq, Repr

/-! ## Outputs and the whole device -/

/-- What the device sends out (log entry 21). -/
inductive Out where
  /-- Completion of a host read: data, Unsupported Request, Completer Abort (R245); of a configuration request (R241). -/
  | readData (port : Nat) (data : List Byte)
  | unsupported (port : Nat)
  | completerAbort (port : Nat)
  | config (port : Nat) (reg : CfgReg) (data : Option W32)
  | rrs (port : Nat)
  /-- A posted queue completion, 16 bytes as two words, and an MSI-X vector (R250). -/
  | completion (port q : Nat) (w0 w1 : W64)
  | msix (port vector : Nat)
  /-- Host memory written by WIN_READ or VOL_READ (R250). -/
  | hostWrite (port : Nat) (addr : W64) (data : List Byte)
  /-- A DOE or SPDM response: the request's name and its bytes (R254). -/
  | spdm (port : Nat) (name : String) (data : List Byte)
  /-- An MCTP control response (R255). -/
  | mctp (port : Nat) (name : String) (data : List Byte)
  /-- A Gelokan response over MCTP (R294), or a frame that left on a segment (R273). -/
  | mctpGelokan (port seq : Nat) (r : DResp)
  | frame (seg session seq : Nat) (r : DResp) (bytes : List Byte)
  /-- A PLCA beacon (R273). -/
  | beacon (seg : Nat)
  /-- A debug request that is served (R269). -/
  | debug (t : DebugTarget)
  deriving DecidableEq, Repr

/-- The device. -/
structure State where
  /-- Commands waiting, first in, first out. MODEL (the block's own queue). Reset empty. -/
  pending : List Instr
  /-- Logical cores, key 576·sa + 24·y + x (R12). Reset: Core.reset each. -/
  cores : SMap Core
  /-- Service arrays 0-1199 (R12). Reset: Arr.reset each. -/
  arrays : SMap Arr
  /-- Tokens in flight, in order of injection (R209), and the next token or request number. MODEL. Reset none, 1. -/
  net : List Token
  nextId : Nat
  /-- Routers of sites 0-1295 (R122). Reset: Router.reset each. -/
  routers : SMap Router
  /-- Memory stations MS0-MS39 (R137). Reset: Ms.reset each. -/
  ms : SMap Ms
  /-- Flash stations FS0-FS7 (R160). Reset: Fs.reset each. -/
  fs : SMap Fs
  /-- Flash volumes 0-1023 (R162); an unlisted number is free. Reset none. -/
  volumes : SMap (Option Volume)
  /-- Partitions 0-63 (R217). Reset: Part.reset each. -/
  parts : SMap Part
  /-- Host ports 0-31 (R239). Reset: Port.reset each. -/
  ports : SMap Port
  /-- Beds 0-35 (R302). Reset: Bed.reset each. -/
  beds : SMap Bed
  /-- The dictionary (R272-R294). -/
  gel : Gel
  /-- Tunable objects. Reset: their defaults. -/
  tune : Tune
  /-- Saturating counters. Reset 0. -/
  tally : Tally
  /-- MGS and the module. -/
  mgs : Mgs
  /-- Firmware update. -/
  fw : Fw
  /-- What the device has sent out, newest first. MODEL (log entry 21). Reset none. -/
  out : List Out
  /-- Free values drawn so far. MODEL: the argument of Config.freeValue (log entry 7). Reset 0, DESIGN CHOICE. -/
  draws : Nat
  deriving DecidableEq, Repr

/-! ## Reset values -/

def LoopFrame.zero : LoopFrame := ⟨0, 0, 0, 0⟩
def Ring.reset : Ring := ⟨0, 0, [], 0⟩
def OutPort.reset : OutPort := ⟨0, 0, 0, none, 0⟩
def Steer.reset : Steer := ⟨[], 0, 0⟩
def Desc.reset : Desc := ⟨false, 0, 0, [], 0, 0, 0, []⟩

/-- A core that no skein has programmed: idle (R50), everything 0 (R46). -/
def Core.reset : Core :=
  { cfg := [], cfgShadow := [], prog := [], progShadow := [], scratch := [], slot := 0, lastFire := 0, extra := 0,
    loops := [], halted := true, fpStatus := 0, flags := 0, counters := [], stickies := 0, rings := [], ports := [],
    steers := [], meshClaim := [], meshOut := [], seqs := [], descs := [], stepNum := 0, resident := [], acc := [], pend := [], tiles := [],
    mmaPend := [], accOpenTo := 0, vecPend := [], matrixFree := 0, vectorFree := 0, vaccFree := 0, moveFree := 0,
    tileFree := [], claims := [], retires := [] }

def Arr.reset : Arr :=
  { released := false, fireCycle := 0, freeze := none, part := none, lastCheck := 0, failedOnce := false,
    mappedOut := [], mapNext := [], remap := [], rowCe := [], notes := [], dirtyConf := false }

def RedBuf.reset : RedBuf := ⟨none, none, 0, 0, 0, 0, 0, 0, 0⟩

def Router.reset : Router :=
  { entries := [], red := [], bufs := [], dead := false, failed := false, deadDirs := [], laneCe := [], marked := [], spared := [],
    releases := [], turn := 6, redTurn := 0 }

def DirEnt.reset : DirEnt := ⟨false, false, false, false, false, 0, 0, 0, 0⟩
def Thread.reset : Thread := ⟨none, false⟩

def Ms.reset : Ms :=
  { state := 0, stack := [], poison := [], ce := 0, ue := 0, innerCe := 0, class0Late := 0, rowCe := [], rowsDue := [],
    rowsRepaired := [], lanesRepaired := [], scrubAt := 0, ranges := [], zeroing := [], waiting := [], active := [], taken := [],
    rr := [0, 0, 0], rrStack := [0, 0, 0], rrThread := [0, 0, 0], rrOut := [0, 0, 0],
    threads := [], lastThread := 0, red := [], bufs := [], updq := [], updParts := [], dir := [], buckets := [], pends := [],
    journals := [], keys := [], seals := [], image := 0, redTurn := 0 }

def Fs.reset : Fs := ⟨0, 0, 0, 0, [], 0, []⟩
def Rec4.zero : Rec4 := ⟨0, 0, 0, 0⟩
def RegionEnt.zero : RegionEnt := ⟨0, 0⟩

/-- CAST_ORDER of a partition with no committed skein: 0. -/
def Settings.reset : Settings :=
  { strict := false, trap := 0, scanEn := false, scanRegion := 0, startStep := 0, castOrder := 0, slowQuota := 0,
    class0Res := [], jobSeed := 0, digest := [] }

def Part.reset : Part :=
  { state := .none, owner := 0, cls := 0, conf := false, sas := [], saCount := 0, epoch := 0, commits := 0,
    fwChanges := 0, chain := [], hostKey := [], serial := 0, hostPub := [], prk := [], set := Settings.reset, strictMode := false, endCode := 0, endAt := (0, 0), faultAt := (0, 0), trapAt := (0, 0),
    sticky := false, fpx := 0, memWarn := false, suspDev := false, class0Late := false,
    slowdown := 0, progress := 0, commitPending := false, flushed := 0, result := 0, jobRef0 := 0, jobRef1 := 0,
    elapsedTicks := 0, quiesceTicks := 0, fcHeld := 0, dlCtl := 0, dlStatus := 0, fault := Rec4.zero, trap := Rec4.zero, div := Rec4.zero,
    regions := [], regionsShadow := [], bases := [], homes := [], psets := [], psetsShadow := [], graph := [],
    graphShadow := [], routes := [], routesShadow := [], trees := [], redAt := [], dbEntry := none, plan := none, castLeft := [],
    outputs := false, writes := false, stopWaits := false, scanWanted := false, placing := false, resuming := false,
    byDevice := false, image := none, divs := [], written := [], codes := [], openWrites := [], dlFrom := 0 }

/-- SKEIN_DEADLINE is 1,000 x the default of 0x5020:00 (R201, R216). -/
def Loader.reset : Loader :=
  { state := 0, overrun := false, reason := 0, frame := 0, ctlPart := 0, part := 0, deadline := 800000, bytes := [], framesDone := 0,
    framePos := 320, routeBytes := 0, graphBytes := 0, scratched := [], flush := false, drainUs := 0, startedAt := 0, drainAt := 0,
    committed := false, noStaged := false, commitReason := 0, stage := .idle }

/-- PHASE starts at 1 (R250). -/
def Queue.reset : Queue :=
  { sqBase := 0, cqBase := 0, sqLog2 := 0, cqLog2 := 0, vector := 0, enable := false, sqTail := 0, sqHead := 0,
    cqHead := 0, cqTail := 0, phase := true, cmds := [], done := [] }

def Ide.reset : Ide := ⟨0, 0, [], 0⟩
def Spdm.reset : Spdm := ⟨0, none, [], 0⟩

def Port.reset : Port :=
  { linkUp := false, ready := false, speed := 0, width := 0, flit := false, lost := false, pcSa := 0,
    pcClass := 0, pcConf := false, pcPart := 0, pcResult := 0, loader := Loader.reset, started := 0, completed := 0,
    unmapped := 0, notOwned := 0, misaligned := 0, dbDropped := 0, winMap := [], queues := [], msix := [], unmask := 0, pba := 0,
    openWrites := [], openReads := [], doorbells := [], ide := [], spdm := [], eid := 0, mctpXfer := none, aer := 0,
    bar0 := 0, bar2 := 0, d3hot := false, cto := 0, ctoOff := false, badLanes := [], lastQ := 7, image := 0 }

def Bed.reset : Bed :=
  { state := .sleep, freq := 0, fmax := 1100, thermal := 1100, sensors := [0, 0, 0, 0], excluded := [], trips := 0,
    reenabledAt := 0, latched := false, fullTest := false, testing := false, converter := true, branch := true, monitor := true,
    spine := none }

/-- The segment's defaults of R292. -/
def Seg.reset : Seg :=
  { node := 1, count := 8, toTimer := 32, maxBurst := 0, plcaEn := true, plcaLoss := 20, term := false, mode := 0,
    fcsErr := 0, plcaColl := 0, csmaColl := 0, txDropped := 0, modeChanges := 0, malformed := 0, txq := [], attempts := 0,
    backoff := false, opens := [] }

def Gel.reset : Gel :=
  { sessions := [], segA := Seg.reset, segB := Seg.reset, strangers := 0, gmacFail := 0, replays := 0, openLimited := 0,
    etherType := 0x88B5, segTimeout := 500, sessionIdle := 300, sessGen := 0, sessNext := 1,
    maintAuth := List.replicate 48 0, operAuth := List.replicate 48 0, log := [], evtNext := 0, evtLost := 0 }

/-- The defaults of the tables of R95, R108, R136, R166, R191, R216, R238, R310, R323. -/
def Tune.reset : Tune :=
  { scratchCeLimit := 8, scratchCeWindow := 3600, counterStrictSa := 64, deadlockTicks := 25000000, laneCeLimit := 16,
    laneCeWindow := 3600, scrubPeriod := 86400, memRowCeLimit := 4, slowWaitLimit := 10000, skeinDeadlineDef := 800,
    drainTimeoutDef := 10000, quiesceLimit := 100, powerLimit := 46000, throttleT := 95, drainT := 102, drainHold := 50,
    bedIdleSleep := 1000, checkPeriod := 3600 }

def Tally.reset : Tally :=
  { scratchUe := 0, scratchRowsMapped := 0, lanesSpared := 0, routeDrops := 0, slotEvictions := 0, pendFullWaits := 0,
    digestMismatch := 0, digestReread := 0, digestRecompute := 0, digestVote := 0, skeinRejects := 0, commits := 0,
    tokensFlushed := 0, keysDestroyed := 0, feedDrops := 0, borderRestarts := 0, checkRuns := 0, checkFails := 0,
    entropyFails := 0 }

def Fw.reset : Fw :=
  { active := 0, slot := 0, offset := 0, image := [], result := 0, svn := 0, pending := [], runningSvn := 0, svnFuse := 0,
    svnCommit := 0, first := 0, firstVer := 0, verA := 0, verB := 0, mgsImage := 0, log := [] }

def Mgs.reset : Mgs :=
  { phase := .off, tick := 0, releasedAt := 0, feeds := [], standby := [], powerNow := 0, ceiling := 1100, below := 0,
    refA := true, refB := true, refBInUse := false, tpll := 0, coolIn := 350, coolOut := 350, coolFlow := 480,
    coolLeak := false, commission := false, mgcs := [0, 1, 2], entropy := [0, 1], spareSource := some 2, drbg := 0, banks := [0, 1], debugLock := true,
    maintDebug := false, debugTicks := 0, debugSessions := 0, commitQueue := [], creations := 0, saSite := [],
    spares := List.range' 1200 96, deadSites := [], softEntries := 0, fuseFree := 8192, fused := [], mapBad := [], safeDefaults := false, testResult := [],
    testRuns := [], testFails := [], restartWaits := false, bordered := false, baseRoutes := false, cdi := [], aliasCert := [], sealed := false, stepping := 0 }

/-- The module before its power-up: no feed is connected, nothing has run (log entry 4). -/
def State.reset : State :=
  { pending := [], cores := [], arrays := [], net := [], nextId := 1, routers := [], ms := [], fs := [], volumes := [],
    parts := [], ports := [], beds := [], gel := Gel.reset, tune := Tune.reset, tally := Tally.reset, mgs := Mgs.reset,
    fw := Fw.reset, out := [], draws := 0 }

end Sys2Proof.Machine
end

