-- ==== Sys2Proof/Machine/Sum.lean ====
section
/-!
DEFINITION. The reference order (spec/02): packed elements, shared scales, exact block sums, the tree of R28, and the
insertion and fold of the accumulator store (R76).
-/
namespace Sys2Proof.Machine

/-- Element number `idx` of a packed image of format `f` (R20), through a reader of its bytes. -/
def packedElem (f : Nat) (byte : Nat → Byte) (idx : Nat) : Nat :=
  let n := fmtBits f
  let at0 := n * idx / 8
  let w := leNat ((List.range 5).map fun k => byte (at0 + k))
  (w >>> (n * idx % 8)) % 2 ^ n

/-- SCALE_FMT of a scale control (R21). -/
def scFmt (c : Nat) : Nat := bits c 1 0
/-- Block size of a scale control (R21): 8 to 128. -/
def scBlock (c : Nat) : Nat := 8 * 2 ^ bits c 4 2
/-- DIR of a scale control (R21). -/
def scDir (c : Nat) : Nat := bits c 5 5

/-- Constancy along K (R25): none does not limit L. -/
def constancy (c : Nat) : Nat :=
  if scFmt c == 0 then 128 else if scDir c == 0 then scBlock c else 1

/-- Summation block length L (R25). -/
def blockLen (f scaleA scaleB : Nat) : Nat :=
  if f == 1 || f == 2 then 16 else min 128 (min (constancy scaleA) (constancy scaleB))

/-- MACs per cell per fire cycle (R48). -/
def macRate (f : Nat) : Nat :=
  match f with
  | 1 => 1
  | 2 => 1
  | 3 => 2
  | 4 => 2
  | 8 => 2
  | _ => 4

/-- KLEN maximum of a format (R67); 0 for FP32, which is no matrix operand (R18). -/
def klenMax (f : Nat) : Nat :=
  match f with
  | 1 => 128
  | 2 => 128
  | 3 => 256
  | 4 => 256
  | 5 => 256
  | 6 => 256
  | 7 => 512
  | 8 => 256
  | _ => 0

/-- Subnormal BF16 and FP16 inputs become zero of the same sign (R27). -/
def flushIn (f : Nat) (v : Val) : Val :=
  if f == 1 || f == 2 then
    match v with
    | .fin neg m e => if m < 2 ^ fmtMant f then .fin neg 0 e else v
    | v => v
  else v

/-- Byte of a 32-byte scale slot that holds the scale of an element (R71): `idx` its M or N index. -/
def slotByte (c idx k : Nat) : Nat :=
  let g := 16 / min (scBlock c) 16
  if scDir c == 0 then idx * g + (k % 16) / scBlock c else (k % 16) * g + (idx % 16) / scBlock c

/-- The scale of one operand for the block that begins at `k` (R22, R71): none is a NaN scale; (1, 0) when unscaled. -/
def scaleAt (c : Nat) (byte : Nat → Byte) (idx k : Nat) : Option (Nat × Int) :=
  if scFmt c == 0 then some (1, 0) else decodeScale (scFmt c) (byte (32 * (k / 16) + slotByte c idx k))

/-- The product of two element values as R26 sees it. -/
inductive Prod where
  | nan
  | invalid
  | inf (neg : Bool)
  | fin (neg : Bool) (m : Nat) (e : Int)
  deriving DecidableEq, Repr

/-- INT8 has no −0 (R19): a zero product of two's-complement elements is +0. -/
def intProd (f : Nat) (p : Prod) : Prod :=
  match p with
  | .fin neg m e => if f == 8 && m == 0 then .fin false 0 e else .fin neg m e
  | p => p

def mulVal (a b : Val) : Prod :=
  match a, b with
  | .nan, _ => .nan
  | _, .nan => .nan
  | .inf x, .inf y => .inf (x != y)
  | .inf x, .fin n m _ => if m == 0 then .invalid else .inf (x != n)
  | .fin n m _, .inf x => if m == 0 then .invalid else .inf (x != n)
  | .fin n1 m1 e1, .fin n2 m2 e2 => .fin (n1 != n2) (m1 * m2) (e1 + e2)

/-- The exact sum of finite products, as (neg, m, e); other products count as nothing. -/
def sumProds : List Prod → Bool × Nat × Int
  | [] => (false, 0, 0)
  | .fin n m e :: ps =>
    let t := sumProds ps
    sumFin n m e t.1 t.2.1 t.2.2
  | _ :: ps => sumProds ps

def isNegZero : Prod → Bool
  | .fin neg m _ => neg && m == 0
  | _ => false

/-- One leaf (R26, R27) from the block's products and the two scales: the first case that applies. A non-zero scaled sum that
rounds to zero keeps its sign, as a rounding to FP32 does (DESIGN CHOICE, log entry 56: R26 names −0 for leaves of −0 products
alone). -/
def blockLeaf (ps : List Prod) (sa sb : Option (Nat × Int)) : W32 × Flags :=
  match sa, sb with
  | some a, some b =>
    if ps.any (· == .nan) then (nan32, 0)
    else
      let infP := ps.any (· == .inf false)
      let infN := ps.any (· == .inf true)
      let zeroScale := a.1 == 0 || b.1 == 0
      if ps.any (· == .invalid) || (infP && infN) || ((infP || infN) && zeroScale) then (nan32, fInvalid)
      else if infP || infN then (inf32 infN, 0)
      else
        let t := sumProds ps
        if t.2.1 == 0 || zeroScale then (zero32 (!ps.isEmpty && ps.all isNegZero), 0)
        else round32 t.1 (t.2.1 * a.1 * b.1) (t.2.2 + a.2 + b.2)
  | _, _ => (nan32, fInvalid)

/-- A matrix profile (R68) as numbers. -/
structure Prof where
  fmtA : Nat
  fmtB : Nat
  scaleA : Nat
  scaleB : Nat
  klen : Nat
  last : Bool
  deriving DecidableEq, Repr

/-- The products of output (i, n) from `k0` to before `k1` (R26, R27, R74). -/
def outputProds (p : Prof) (mov res : Nat → Byte) (i n k0 k1 : Nat) : List Prod :=
  (List.range' k0 (k1 - k0)).map fun k =>
    intProd p.fmtA (mulVal (flushIn p.fmtA (decodeVal p.fmtA (packedElem p.fmtA mov (16 * k + i))))
      (flushIn p.fmtB (decodeVal p.fmtB (packedElem p.fmtB res (16 * k + n)))))

/-- Weight of a long accumulator's least significant bit, 2^−w (R26); none for BF16 and FP16, of which the spec gives none. -/
def accWeight (f : Nat) : Option Int :=
  match f with
  | 3 => some 18
  | 4 => some 32
  | 5 => some 8
  | 6 => some 6
  | 7 => some 2
  | 8 => some 0
  | _ => none

/-- A long accumulator that holds the sum of some products (R26, R67), as 96 bits. -/
def longAcc (w : Int) (ps : List Prod) : BitVec 96 :=
  let t := sumProds ps
  let e := t.2.2 + w
  let m := if 0 ≤ e then t.2.1 * 2 ^ e.toNat else t.2.1 / 2 ^ (-e).toNat
  if t.1 then BitVec.ofInt 96 (-(m : Int)) else BitVec.ofNat 96 m

/-- The leaves of output (i, n) in order of increasing k (R74): readers of the moving image, the resident image and the
scale area. Each with its exception bits and the last k of its block. -/
def outputLeaves (p : Prof) (mov res scl : Nat → Byte) (i n : Nat) : List (W32 × Flags × Nat) :=
  let l := blockLen p.fmtA p.scaleA p.scaleB
  let skip := if scFmt p.scaleA == 0 then 0 else 32 * ceilDiv p.klen 16
  (List.range (ceilDiv p.klen l)).map fun q =>
    let k0 := q * l
    let k1 := min (k0 + l) p.klen
    let r := blockLeaf (outputProds p mov res i n k0 k1) (scaleAt p.scaleA scl i k0) (scaleAt p.scaleB (fun b => scl (skip + b)) n k0)
    (r.1, r.2, k1 - 1)

/-- The node function of R28 on two full nodes. -/
def nodeAdd (l r : W32) : W32 × Flags := add32 l r

/-- Pair up one level of the tree of R28: a last node without a sibling passes unchanged. -/
def treeLevel : List W32 → List W32 × Flags
  | a :: b :: l =>
    let s := nodeAdd a b
    let t := treeLevel l
    (s.1 :: t.1, s.2 ||| t.2)
  | l => (l, 0)

/-- The root of the tree of R28 over the leaves, `n` levels high; +0 without leaves. -/
def treeRoot : Nat → List W32 → W32 × Flags
  | 0, l => (nth 0 l 0, 0)
  | n + 1, l =>
    let t := treeLevel l
    let r := treeRoot n t.1
    (r.1, t.2 ||| r.2)

/-! ## The accumulator store (R75, R76) -/

/-- One output's entries (levels 0-15) and pending map. -/
structure Column where
  entry : List W32
  pend : BitVec 16
  deriving DecidableEq, Repr

/-- insert of R76: `m` the level, `n` the levels left before 16 (m + n = 16). Answers the column and the exception bits of the
nodes formed. -/
def insertNode (c : Column) (value : W32) (m : Nat) : Nat → Column × Flags
  | 0 => (⟨c.entry.set 15 value, c.pend ||| (1#16 <<< 15)⟩, 0)
  | n + 1 =>
    if c.pend.getLsbD m then
      let s := nodeAdd (nth 0 c.entry m) value
      let r := insertNode ⟨c.entry, c.pend &&& ~~~(1#16 <<< m)⟩ s.1 (m + 1) n
      (r.1, s.2 ||| r.2)
    else (⟨c.entry.set m value, c.pend ||| (1#16 <<< m)⟩, 0)

/-- fold of R76 from level `m` on, over `n` levels: the carry so far, and the exception bits. -/
def foldFrom (c : Column) : Nat → Nat → Option W32 → Flags → W32 × Flags
  | 0, _, carry, fl => (carry.getD 0, fl)
  | n + 1, m, carry, fl =>
    if c.pend.getLsbD m then
      match carry with
      | none => foldFrom c n (m + 1) (some (nth 0 c.entry m)) fl
      | some v =>
        let s := nodeAdd (nth 0 c.entry m) v
        foldFrom c n (m + 1) (some s.1) (fl ||| s.2)
    else foldFrom c n (m + 1) carry fl

/-- fold of R76: the value, and the exception bits of the nodes formed. -/
def foldColumn (c : Column) : W32 × Flags := foldFrom c 16 0 none 0

end Sys2Proof.Machine
end

