-- ==== Sys2Proof/Machine/Operands.lean ====
section
/-!
DEFINITION. The operand forms of a core: schedule-slot fields (R47, R48, R52, R73, R85-R89), the core configuration space
(R198) with its registers, effective addresses and ring reads (R72, R103), bank claims (R92, R93), and the order of slots
(R49).
-/
namespace Sys2Proof.Machine

/-! ## The slot word (R47) -/

def Core.word (c : Core) : W64 := SMap.look 0 c.prog c.slot
def slotClass (w : W64) : Nat := fld w 63 60
def slotOp (w : W64) : Nat := fld w 59 56
def slotDelta (w : W64) : Nat := fld w 55 48

/-- Fire cycle in which the next slot fires (R47, R48). -/
def Core.due (c : Core) : Nat := c.lastFire + c.extra + slotDelta c.word

/-- Iteration count of the innermost open loop (R72). -/
def Core.it (c : Core) : Nat :=
  match c.loops with
  | f :: _ => f.it
  | [] => 0

/-- The slot after slot `i` and the loop stack then (R49): the end of a body starts its next iteration while the count lasts;
bodies that end at one slot close together. -/
def loopNext : List LoopFrame → Nat → Nat × List LoopFrame
  | [], i => (i + 1, [])
  | f :: fs, i =>
    if f.last == i then
      if f.left == 0 then loopNext fs i else (f.first, { f with left := f.left - 1, it := f.it + 1 } :: fs)
    else (i + 1, f :: fs)

/-- The core after its slot fired in fire cycle `d`, with `extra` fire cycles before the next slot's DELTA. -/
def Core.advance (c : Core) (d extra : Nat) : Core :=
  let n := loopNext c.loops c.slot
  { c with slot := n.1 % 1024, loops := n.2, lastFire := d, extra := extra }

/-! ## Configuration registers (R198) -/

def Core.cfg64 (c : Core) (o : Nat) : W64 := BitVec.ofNat 64 (leNat (SMap.span 0 c.cfg o 8))
def Core.cfg32 (c : Core) (o : Nat) : W32 := BitVec.ofNat 32 (leNat (SMap.span 0 c.cfg o 4))

def Core.chanW0 (c : Core) (p : Nat) : W64 := c.cfg64 (16 * p)
def Core.chanW1 (c : Core) (p : Nat) : W64 := c.cfg64 (16 * p + 8)
def Core.ringCfg (c : Core) (r : Nat) : W64 := c.cfg64 (0x80 + 8 * r)
def Core.steerCfg (c : Core) (u : Nat) : W64 := c.cfg64 (0xC0 + 8 * u)
def Core.profW (c : Core) (p : Nat) : W64 := c.cfg64 (0x100 + 8 * p)
def Core.mcastRt (c : Core) (d : Nat) : Nat := (SMap.look 0 c.cfg (0x200 + d)).toNat
def Core.econst (c : Core) (k : Nat) : W32 := c.cfg32 (0x400 + 4 * k)
def Core.eprog (c : Core) (i : Nat) : W32 := c.cfg32 (0x500 + 4 * i)
def Core.tensW (c : Core) (t w : Nat) : W64 := c.cfg64 (0x600 + 24 * t + 8 * w)
def Core.descW (c : Core) (d w : Nat) : W64 := c.cfg64 (0x900 + 24 * d + 8 * w)

/-- CHAN_CFG (R96). -/
def chanRoute (w : W64) : Nat := fld w 7 0
def chanKind (w : W64) : Nat := fld w 9 8
def chanRing (w : W64) : Nat := fld w 12 10
def chanSize (w : W64) : Nat := fld w 15 13
def chanRank (w : W64) : Nat := fld w 31 16
def chanLandFlag (w : W64) : Nat := fld w 37 32
def chanLandOp (w : W64) : Bool := bitOf w 38
def chanEnable (w : W64) : Bool := bitOf w 39

/-- RING_CFG (R100). -/
def ringBase (w : W64) : Nat := fld w 11 0
def ringSizeCode (w : W64) : Nat := fld w 14 12
def ringOn (w : W64) : Bool := bitOf w 15
/-- Ring size in units of 16 bytes, from a size code. -/
def ringUnits (code : Nat) : Nat := 16 * 2 ^ code

/-- MX_PROF (R68). -/
def profOf (w : W64) : Prof := ⟨fld w 3 0, fld w 7 4, fld w 15 8, fld w 23 16, fld w 32 24 + 1, bitOf w 33⟩

/-- STREAM_DESC (R145). -/
structure DescCfg where
  op : Nat
  role : Nat
  region : Nat
  fmt : Nat
  stepInc : Bool
  lcnt : Nat
  lcntEn : Bool
  laddr : Nat
  tbytes : Nat
  tcount : Nat
  valid : Bool
  ofs : Nat
  route : Nat
  resp : Nat
  tstride : Nat
  iaddr : Nat
  deriving DecidableEq, Repr

def Core.descCfg (c : Core) (d : Nat) : DescCfg :=
  let w0 := c.descW d 0
  let w1 := c.descW d 1
  let w2 := c.descW d 2
  { op := fld w0 1 0, role := fld w0 2 2, region := fld w0 8 3, fmt := fld w0 12 9, stepInc := bitOf w0 13,
    lcnt := fld w0 17 14, lcntEn := bitOf w0 18, laddr := fld w0 30 19, tbytes := 64 * (fld w0 38 31 + 1),
    tcount := fld w0 62 39 + 1, valid := bitOf w0 63, ofs := fld w1 41 0, route := fld w1 49 42, resp := fld w1 57 50,
    tstride := fld w2 41 0, iaddr := fld w2 53 42 }

/-- Units of one buffer, and the first unit of the buffer of tile `t` (R145). -/
def DescCfg.bufUnits (g : DescCfg) : Nat := ceilDiv g.tbytes 16
def DescCfg.buffer (g : DescCfg) (t : Nat) : Nat := (g.laddr + t % 3 * g.bufUnits) % 4096

/-! ## Tiles, tensor coordinates -/

/-- Word (i, j) of a tile register (R80). -/
def tileWord (m : SMap Byte) (t i j : Nat) : W32 := BitVec.ofNat 32 (leNat (SMap.span 0 m (1024 * t + 4 * (16 * i + j)) 4))

/-- The byte writes that put words into a tile register, element by element in row order (R80). -/
def tileWrites (t : Nat) (ws : List W32) : List (Nat × Byte) :=
  (ws.zipIdx).flatMap fun p =>
    (leBytes 4 p.1.toNat).zipIdx.map fun b => (1024 * t + 4 * p.2 + b.2, b.1)

/-- Apply byte writes to the tile registers. -/
def writeTiles (m : SMap Byte) (ws : List (Nat × Byte)) : SMap Byte :=
  ws.foldl (fun m p => SMap.put 0 m p.1 p.2) m

/-- Positions of a tile in row order. -/
def positions : List (Nat × Nat) := (List.range 256).map fun o => (o / 16, o % 16)

/-- Logical row and column of tile element (i, j) of a tensor-table entry at iteration `it` (R82). -/
def Core.tensRow (c : Core) (t it i : Nat) : Nat := fld (c.tensW t 1) 31 0 + it * fld (c.tensW t 2) 15 0 + i
def Core.tensCol (c : Core) (t it j : Nat) : Nat := fld (c.tensW t 1) 63 32 + it * fld (c.tensW t 2) 31 16 + j
def Core.tensId (c : Core) (t : Nat) : Nat := fld (c.tensW t 0) 31 0
def Core.tensBatch (c : Core) (t : Nat) : Nat := fld (c.tensW t 2) 47 32
/-- Element index e (R82, R37). -/
def Core.tensIndex (c : Core) (t it i j : Nat) : Nat :=
  c.tensRow t it i * fld (c.tensW t 0) 63 32 + c.tensCol t it j

/-! ## Rings and scratchpad ranges (R72, R103) -/

def Core.ring (c : Core) (r : Nat) : Ring := SMap.look Ring.reset c.rings r
def Core.setRing (c : Core) (r : Nat) (v : Ring) : Core := { c with rings := SMap.put Ring.reset c.rings r v }
def Core.ringSize (c : Core) (r : Nat) : Nat := ringUnits (ringSizeCode (c.ringCfg r))

/-- The enabled ring whose region holds a unit. -/
def Core.ringAt (c : Core) (u : Nat) : Option Nat :=
  (List.range 8).find? fun r =>
    let w := c.ringCfg r
    ringOn w && decide (ringBase w ≤ u) && decide (u < ringBase w + c.ringSize r)

/-- What a slot read of `n` units from an effective address gives (R103): the units in order, and the ring whose oldest
message it reads to the end; none when it breaks the range rule of a ring read. -/
def Core.readRange (c : Core) (a n : Nat) : Option (List Nat × Option Nat) :=
  match c.ringAt a with
  | none => some ((List.range n).map fun i => (a + i) % 4096, none)
  | some r =>
    let b := ringBase (c.ringCfg r)
    match (c.ring r).msgs with
    | [] => none
    | m :: _ =>
      let k := a - b
      if k + n ≤ m.units then
        some ((List.range n).map fun i => b + ((c.ring r).rp + k + i) % c.ringSize r,
              if k + n == m.units then some r else none)
      else none

/-- The unit in which a read met an uncorrectable error, or one it corrected (R94). -/
def eccFails (e : ReadEcc) (us : List Nat) : Option Nat :=
  match e with
  | .uncorrectable i => us[i]?
  | _ => none
def eccFixes (e : ReadEcc) (us : List Nat) : Option Nat :=
  match e with
  | .corrected i => us[i]?
  | _ => none

/-- The bytes of a list of units. -/
def unitBytes (m : SMap Byte) (us : List Nat) : List Byte := us.flatMap fun u => SMap.span 0 m (16 * u) 16

/-- Byte `b` of the image that a list of units holds. -/
def imageByte (m : SMap Byte) (us : List Nat) (b : Nat) : Byte := SMap.look 0 m (16 * nth 0 us (b / 16) + b % 16)

/-- Write bytes from a unit on; a range past unit 4,095 continues at unit 0 (R72). -/
def writeUnits (m : SMap Byte) (a : Nat) (bs : List Byte) : SMap Byte :=
  bs.zipIdx.foldl (fun m p => SMap.put 0 m ((16 * a + p.2) % 65536) p.1) m

/-- An address with its step (R72), in units. -/
def Core.eff (c : Core) (addr step : Nat) : Nat := (addr + c.it * step) % 4096

/-! ## Bank claims (R92, R93) -/

def bankOf (u : Nat) : Nat := (u % 16 + u / 16 % 16 + u / 256 % 16) % 16

def Claim.last (k : Claim) : Nat := k.start + ceilDiv k.units.length k.perCycle

/-- The banks a claim takes in fire cycle `t`. -/
def Claim.banks (k : Claim) (t : Nat) : List Nat :=
  if t < k.start then [] else ((k.units.drop ((t - k.start) * k.perCycle)).take k.perCycle).map bankOf

/-- Do two claims need one bank in one fire cycle? -/
def Claim.clash (a b : Claim) : Bool :=
  (List.range (a.last - a.start)).any fun i => (a.banks (a.start + i)).any fun k => (b.banks (a.start + i)).contains k

/-- The claims still running in fire cycle `d`. -/
def liveClaims (ks : List Claim) (d : Nat) : List Claim := ks.filter fun k => decide (d < k.last)

/-! ## Outbound ports (R101, R105) -/

def Core.port (c : Core) (p : Nat) : OutPort := SMap.look OutPort.reset c.ports p
def Core.setPort (c : Core) (p : Nat) (v : OutPort) : Core := { c with ports := SMap.put OutPort.reset c.ports p v }

/-- Units F of a message of `len` bytes (R101). -/
def msgUnits (len : Nat) : Nat := 1 + ceilDiv (len - 8) 16

/-- Units a wrap marker skips before a message of `f` units at write pointer `wp` of a ring of `s` units (R101). -/
def wrapSkip (s wp f : Nat) : Nat := if f ≤ s - wp then 0 else s - wp

/-- Write pointer after that message (R101). -/
def wpAfter (s wp f : Nat) : Nat := if f ≤ s - wp then (wp + f) % s else f % s

/-- PORT_READY with VALUE `v` (R52, R105). -/
def Core.portReady (c : Core) (p v : Nat) : Bool :=
  let q := c.port p
  let w := c.chanW0 p
  let f := ceilDiv v 2
  q.out.isNone && (chanKind w == 2 || decide (2 * f + 2 * wrapSkip (ringUnits (chanSize w)) q.wp f ≤ q.credit))

/-! ## Steering units (R57) -/

def Core.steer (c : Core) (u : Nat) : Steer := SMap.look Steer.reset c.steers u
def Core.setSteer (c : Core) (u : Nat) (v : Steer) : Core := { c with steers := SMap.put Steer.reset c.steers u v }
def steerSkewMax (w : W64) : Nat := fld w 7 0
def steerTagInit (w : W64) : Nat := fld w 19 14

/-- First fire cycle in which some entry of a unit is older than SKEW_MAX (R59), whose fault has not been raised. -/
def Core.skewAt (c : Core) (u : Nat) : Option Nat :=
  match (c.steer u).entries.filter (!·.late) with
  | [] => none
  | e :: _ => some (e.born + steerSkewMax (c.steerCfg u) + 1)

/-! ## Descriptors (R147-R149) -/

def Core.desc (c : Core) (d : Nat) : Desc := SMap.look Desc.reset c.descs d
def Core.setDesc (c : Core) (d : Nat) (v : Desc) : Core := { c with descs := SMap.put Desc.reset c.descs d v }

/-- Outstanding transfers of a descriptor (R149): tiles started or sent, and not landed or acknowledged. -/
def Desc.outstanding (d : Desc) : Nat := d.late.length + if d.opened then d.next - d.done.length else 0

/-- The descriptor opens a pass at tile 0, with `k` tiles started. -/
def Desc.opens (d : Desc) (k : Nat) : Desc := { Desc.reset with opened := true, next := k, late := d.late }

/-- The descriptor closes; tiles that have not landed stay outstanding. -/
def Desc.closes (d : Desc) : Desc :=
  { d with opened := false, late := d.late ++ (List.range d.next).filter fun t => !d.done.contains t }

/-- STREAM_LANDED (R147, R148). -/
def Core.streamLanded (c : Core) (d : Nat) : Bool :=
  let v := c.desc d
  if (c.descCfg d).op % 2 == 0 then v.opened && v.done.contains v.head && decide (v.head < v.next)
  else decide (v.outstanding < 3)

def Core.outstanding (c : Core) : Nat := (c.descs.map fun d => d.2.outstanding).foldl (· + ·) 0
def Core.openDescs (c : Core) : List Nat := (c.descs.filter fun d => d.2.opened).map (·.1)

/-- Do the buffers of two descriptors overlap (R149)? -/
def Core.buffersMeet (c : Core) (a b : Nat) : Bool :=
  let x := c.descCfg a
  let y := c.descCfg b
  decide (x.laddr < y.laddr + 3 * y.bufUnits) && decide (y.laddr < x.laddr + 3 * x.bufUnits)

end Sys2Proof.Machine
end

