-- ==== Sys2Proof/Config.lean ====
section
/-!
DEFINITION. What one unit fixes at manufacture, and the values the spec leaves open. Nothing can evaluate an opaque
constant, so no statement rests on a value of one.
-/
namespace Sys2Proof

/-- A free value: what a read of the accumulator store gives within the 6 fire cycles after an MMA's occupancy ends (R51:
"the value read is then undefined"). Applied to State.draws, which every draw advances (log entry 7). -/
opaque Config.freeValue : Nat → W32

/-! What a unit fixes at manufacture (R255, R257, R260, R292; log entry 18): the serial number, the address of segment A, the
endpoint UUID, the vendor ID, the OPTIONS fuses, the MCTP versions. -/

opaque Config.serial : List Byte
opaque Config.macA : List Byte
opaque Config.uuid : List Byte
opaque Config.vendorId : List Byte
opaque Config.options : Nat
opaque Config.mctpVersions : List Byte

/-- First-stage version text, SHA-384 digest and SVN of a firmware image, by image and content, the digest by element too (R265, R292;
log entry 18: one signed image carries the firmware of every element under one SVN). -/
opaque Config.fwVersion : Nat → Nat → List Byte
opaque Config.fwDigest : Nat → Nat → Nat → List Byte
opaque Config.fwSvn : Nat → Nat → Nat

/-- Fuses that nothing outside MGS reads (R257): the unique device secret, the device identity key, the digest of the firmware-signing
key. -/
opaque Config.uds : List Byte
opaque Config.dik : Nat
opaque Config.fwKeyHash : List Byte

/-- Certificates of slot 0 (R260): the root's and the product CA's; the DER form of what the identity certificate and the alias certificate
state (public key, then serial number or first-stage measurement), and of a certificate with its signature. -/
opaque Config.rootCert : List Byte
opaque Config.caCert : List Byte
opaque Config.identityCert : List Byte → List Byte → List Byte
opaque Config.aliasBody : List Byte → List Byte → List Byte
opaque Config.signedCert : List Byte → List Byte → List Byte

/-- The secret number of an ECDSA signature over a digest. -/
opaque Config.signNonce : List Byte → Nat

/-- Random bytes, by draw (R270, R278). -/
opaque Config.random : Nat → List Byte

/-- Does a debug token verify, and for how many ticks (R269)? 0: it does not. -/
opaque Config.tokenTicks : List Byte → Nat

/-- A measured value that no command brings: a voltage, a current, a power, a duration (R310, R311, R323), by object and draw. -/
opaque Config.reading : Nat → Nat → Nat

/-- Coverage of a test for which R315 states no fraction (R323 TEST_COVERAGE). -/
opaque Config.coverage : Nat → Nat

/-- The class code's lower three bytes of a port's function, of which R239 gives only the base class. -/
opaque Config.classLow : Nat

/-- Bytes of a scan image that the spec lays out for no group, by draw and offset (R63, R64, R231). -/
opaque Config.scanByte : Nat → Nat → Byte

/-- The base routes that station firmware loads (R123), by router and entry 240-255: the spec gives their use and not their words. -/
opaque Config.baseRoute : Nat → Nat → W64

/-- Does a graph table name a flag or counter outside R106's ranges (R197)? The spec gives the table's contents in words and no layout. -/
opaque Config.graphRange : List (Nat × Byte) → Bool

/-- Event codes that R324 does not list: of a leak (R339), of a change of the capacity objects that no fault makes (R329), of a host port's
SerDes lane (R317). -/
opaque Config.leakCode : Nat
opaque Config.capacityCode : Nat
opaque Config.serdesCode : Nat

/-- The OPTIONS word that MGS applies when those fuses fail their ECC (R317). -/
opaque Config.safeOptions : Nat

end Sys2Proof
end

