-- ==== Sys2Proof/WellFormed.lean ====
section
/-!
DEFINITION. Which commands can be given at all: those whose operands name units the device has (R2, R7, R12, R15, R39,
R130, R133, R217, R239, R249, R253, R272, R302). Every other operand value is an ordinary value, on which the
command's own rule says what happens.
-/
namespace Sys2Proof

def saOk (n : Nat) : Bool := decide (n < 1200)
def coreOk (sa x y : Nat) : Bool := decide (sa < 1200) && decide (x < 24) && decide (y < 24)
def siteOk (n : Nat) : Bool := decide (n < 1296)
def bedOk (n : Nat) : Bool := decide (n < 36)
def msOk (n : Nat) : Bool := decide (n < 40)
def fsOk (n : Nat) : Bool := decide (n < 8)
def portOk (n : Nat) : Bool := decide (n < 32)
def partOk (n : Nat) : Bool := decide (n < 64)
def qOk (n : Nat) : Bool := decide (n < 8)
def segOk (n : Nat) : Bool := decide (n < 2)

/-- The command names only units the device has. -/
def Instr.wf : Instr → Bool
  | .nop sa x y => coreOk sa x y
  | .wait sa x y => coreOk sa x y
  | .loop sa x y => coreOk sa x y
  | .halt sa x y => coreOk sa x y
  | .hold sa => saOk sa
  | .mload sa x y _ => coreOk sa x y
  | .mma sa x y _ => coreOk sa x y
  | .mmaLeafInsert sa x y => coreOk sa x y
  | .mdrain sa x y => coreOk sa x y
  | .mnode sa x y => coreOk sa x y
  | .mcheck sa x y _ => coreOk sa x y
  | .tload sa x y _ => coreOk sa x y
  | .tstore sa x y => coreOk sa x y
  | .vrun sa x y => coreOk sa x y
  | .vrow sa x y => coreOk sa x y
  | .vcvt sa x y => coreOk sa x y
  | .vacc sa x y => coreOk sa x y
  | .vectorResultWrite sa x y => coreOk sa x y
  | .send sa x y => coreOk sa x y
  | .rwrite sa x y => coreOk sa x y
  | .sendDrained sa x y port _ => coreOk sa x y && decide (port < 8)
  | .fset sa x y => coreOk sa x y
  | .fclr sa x y => coreOk sa x y
  | .cinc sa x y => coreOk sa x y
  | .cdec sa x y => coreOk sa x y
  | .cclr sa x y => coreOk sa x y
  | .sfetch sa x y _ => coreOk sa x y
  | .srel sa x y _ => coreOk sa x y
  | .stok sa x y => coreOk sa x y
  | .steerItemArrival sa x y unit mport _ _ => coreOk sa x y && decide (unit < 2) && decide (mport < 4)
  | .steerSkew sa x y unit => coreOk sa x y && decide (unit < 2)
  | .ringMessageArrival _ mport => decide (mport < 4)
  | .directWriteArrival _ mport => decide (mport < 4)
  | .creditReturn sa x y port => coreOk sa x y && decide (port < 8)
  | .deadlock part => partOk part
  | .dlCtlWrite port part _ => portOk port && partOk part
  | .routerMessage _ _ => true
  | .laneSpare site dir lane => siteOk site && decide (dir < 7) && decide (lane < 16)
  | .releaseToken _ _ => true
  | .reductionInput _ => true
  | .reductionAdd site slot => siteOk site && decide (slot < 16)
  | .stationRedInput _ => true
  | .stationRedAdd ms slot => msOk ms && decide (slot < 64)
  | .streamRequestArrival _ => true
  | .streamRequestAdmit ms => msOk ms
  | .stackAccessComplete ms _ _ => msOk ms
  | .tileResponse ms _ => msOk ms
  | .tileLanding _ => true
  | .writeAck _ => true
  | .pseThreadReturn ms thread _ => msOk ms && decide (thread < 32)
  | .updatePartArrival _ => true
  | .updateApply ms _ => msOk ms
  | .divRereadDone part _ => partOk part
  | .divRecomputeDone part _ _ => partOk part
  | .divRecomputeTimeout part _ => partOk part
  | .flashStageComplete ms _ _ => msOk ms
  | .writebackComplete ms _ _ => msOk ms
  | .pendingApply ms _ _ => msOk ms
  | .slowStarved ms _ => msOk ms
  | .scrubRead ms _ _ => msOk ms
  | .softRowRepair ms _ => msOk ms
  | .zeroWriteDone ms => msOk ms
  | .skeinStart port part => portOk port && partOk part
  | .skeinEnd port => portOk port
  | .skeinAbort port => portOk port
  | .skeinWinWrite port _ => portOk port
  | .skeinVerifyDone port => portOk port
  | .skeinDeadlineExpiry port => portOk port
  | .commit port _ _ => portOk port
  | .commitHaltDone port => portOk port
  | .commitAllocate port => portOk port
  | .drainComplete port => portOk port
  | .drainTimeout port => portOk port
  | .partCreate port _ _ _ => portOk port
  | .partStart port part => portOk port && partOk part
  | .castLockDone part => partOk part
  | .castLockTimeout part => partOk part
  | .partStop port part _ => portOk port && partOk part
  | .bindOffDone part => partOk part
  | .partSuspend port part => portOk port && partOk part
  | .quiesceDone part => partOk part
  | .quiesceTimeout part _ => partOk part
  | .scanOutDone part _ _ => partOk part
  | .partPlace port part => portOk port && partOk part
  | .placeDone part => partOk part
  | .partResume port part => portOk port && partOk part
  | .resumeDone part _ => partOk part
  | .partRelease port part => portOk port && partOk part
  | .warnClr port part => portOk port && partOk part
  | .partComplete part => partOk part
  | .statusGather part => partOk part
  | .portReset port _ => portOk port
  | .linkUp port _ _ _ => portOk port
  | .portReady port => portOk port
  | .configRequest port _ _ _ => portOk port
  | .registerWrite port _ _ _ _ => portOk port
  | .winMapWrite port slot _ => portOk port && decide (slot < 64)
  | .windowRead port _ _ _ _ => portOk port
  | .windowWrite port _ _ _ => portOk port
  | .partDb port part _ _ => portOk port && partOk part
  | .doorbellRelease port => portOk port
  | .doorbellLand _ mport => decide (mport < 4)
  | .sqTailWrite port q _ _ => portOk port && qOk q
  | .cqHeadWrite port q _ _ => portOk port && qOk q
  | .queueEnable port q _ => portOk port && qOk q
  | .queueDisable port q => portOk port && qOk q
  | .skeinFetch port q _ _ => portOk port && qOk q
  | .winRead port q _ _ _ => portOk port && qOk q
  | .winWrite port q _ _ _ => portOk port && qOk q
  | .volCreate port q _ => portOk port && qOk q
  | .volDelete port q _ => portOk port && qOk q
  | .volBind port q _ => portOk port && qOk q
  | .volInfo port q _ => portOk port && qOk q
  | .volRead port q _ _ => portOk port && qOk q
  | .volWrite port q _ _ _ => portOk port && qOk q
  | .completionPost port q => portOk port && qOk q
  | .ideIntegrityFail port stream => portOk port && decide (stream < 9)
  | .doeDiscovery port _ => portOk port
  | .getVersion port => portOk port
  | .getCapabilities port => portOk port
  | .negotiateAlgorithms port => portOk port
  | .getDigests port => portOk port
  | .getCertificate port _ _ => portOk port
  | .challenge port _ => portOk port
  | .getMeasurements port _ _ _ => portOk port
  | .keyExchange port => portOk port
  | .finish port _ _ => portOk port
  | .keyUpdate port _ => portOk port
  | .heartbeat port _ => portOk port
  | .endSession port _ => portOk port
  | .hostKey port _ _ _ => portOk port
  | .query port _ => portOk port
  | .keyProg port _ stream _ => portOk port && decide (stream < 9)
  | .kSetGo port _ stream _ => portOk port && decide (stream < 9)
  | .kSetStop port _ stream _ => portOk port && decide (stream < 9)
  | .setEndpointId port _ _ => portOk port
  | .getEndpointId port _ => portOk port
  | .getEndpointUuid port _ => portOk port
  | .getMctpVersionSupport port _ => portOk port
  | .getMessageTypeSupport port _ => portOk port
  | .getVendorDefinedMessageSupport port _ => portOk port
  | .mctpGelokanRequest port _ _ _ _ _ _ => portOk port
  | .cert f _ => segOk f.seg
  | .openReq f _ _ _ => segOk f.seg
  | .auth f _ _ _ _ => segOk f.seg
  | .close f => segOk f.seg
  | .expRead f _ _ => segOk f.seg
  | .expWrite f _ _ _ _ => segOk f.seg
  | .segRead f _ _ _ _ => segOk f.seg
  | .segWrite f _ _ _ _ _ => segOk f.seg
  | .apply _ _ => true
  | .objectWrite _ _ _ _ => true
  | .sessionIdleExpiry _ => true
  | .sessionAuthTimeout _ => true
  | .segTransferTimeout _ => true
  | .transmitOpportunity seg => segOk seg
  | .plcaBeacon seg => segOk seg
  | .plcaLossExpiry seg => segOk seg
  | .csmaBackoffExpiry seg _ => segOk seg
  | .rekey _ _ => true
  | .svnCommit _ _ => true
  | .maintAuth _ _ => true
  | .debugToken _ _ _ _ => true
  | .debugTokenExpiry => true
  | .evtRecords _ => true
  | .bedReenable _ bed _ => bedOk bed
  | .borderRestart _ _ => true
  | .fullTest _ _ => true
  | .fuseBurn _ _ => true
  | .fwChunk _ _ => true
  | .fwVerify _ _ => true
  | .fwVerifyDone _ => true
  | .fwSwitch _ _ => true
  | .fwElementSwitchDone => true
  | .standbyPowerGood feed _ _ _ _ _ _ => decide (feed < 2)
  | .borderPhaseStart _ => true
  | .borderRelease => true
  | .standbyLoss => true
  | .feedDrop feed => decide (feed < 3)
  | .feedReconnect feed => decide (feed < 3)
  | .branchFault bed _ => bedOk bed
  | .coreRailFault bed => bedOk bed
  | .transitRailShort bed => bedOk bed
  | .transitConverterFail bed => bedOk bed
  | .bedPllLockLoss bed => bedOk bed
  | .voltageMonitorCheck _ => true
  | .refLoss ref => decide (ref < 2)
  | .trellisPllFailover _ => true
  | .bedFreqStep bed => bedOk bed
  | .powerControlPeriod _ _ _ _ _ => true
  | .thermalStep bed _ => bedOk bed
  | .bedDrain bed => bedOk bed
  | .bedDrainDone bed => bedOk bed
  | .bedCrit bed _ => bedOk bed
  | .offHeatRecover bed => bedOk bed
  | .bedWake bed => bedOk bed
  | .bedAwake bed _ _ => bedOk bed
  | .bedSleep bed => bedOk bed
  | .thermalSensorCheck bed _ => bedOk bed
  | .coolLeak _ => true
  | .commissionInput _ => true
  | .periodicCheck sa _ _ => saOk sa
  | .entropyTestFail source _ => decide (source < 3)
  | .keyStoreBankFail bank => decide (bank < 2)
  | .mgcFail mgc => decide (mgc < 3)
  | .attachRouterFail site => siteOk site
  | .referenceRestored ref => decide (ref < 2)
  | .standbyFeedDrop feed => decide (feed < 2)
  | .completionTimeout port q _ _ => portOk port && qOk q
  | .physicalCollision seg => segOk seg
  | .coordinatorBeacon seg => segOk seg
  | .nandChannelFail fs channel => fsOk fs && decide (channel < 4)

end Sys2Proof
end

