-- ==== Sys2Proof/Machine/Ops.lean ====
section
/-!
DEFINITION. The named operations over the state: units by number, events, freezes, faults and teardown (R53, R227-R229,
R293), tokens (R209), stack and region bytes (R137-R139).
-/
namespace Sys2Proof.Machine

/-- The answer of a step. -/
abbrev Answer := Host.Outcome State Fault Refusal

/-! ## Units by number -/

/-- Key of logical core (x, y) of service array `sa`: arrays in order, cores in increasing y, then x (R64). -/
def coreKey (sa x y : Nat) : Nat := 576 * sa + 24 * y + x
def keyArr (k : Nat) : Nat := k / 576
def keyX (k : Nat) : Nat := k % 576 % 24
def keyY (k : Nat) : Nat := k % 576 / 24

def State.core (s : State) (k : Nat) : Core := SMap.look Core.reset s.cores k
def State.setCore (s : State) (k : Nat) (c : Core) : State := { s with cores := SMap.put Core.reset s.cores k c }
def State.arr (s : State) (n : Nat) : Arr := SMap.look Arr.reset s.arrays n
def State.setArr (s : State) (n : Nat) (a : Arr) : State := { s with arrays := SMap.put Arr.reset s.arrays n a }
def State.router (s : State) (n : Nat) : Router := SMap.look Router.reset s.routers n
def State.setRouter (s : State) (n : Nat) (r : Router) : State := { s with routers := SMap.put Router.reset s.routers n r }
def State.mem (s : State) (n : Nat) : Ms := SMap.look Ms.reset s.ms n
def State.setMem (s : State) (n : Nat) (m : Ms) : State := { s with ms := SMap.put Ms.reset s.ms n m }
def State.flash (s : State) (n : Nat) : Fs := SMap.look Fs.reset s.fs n
def State.setFlash (s : State) (n : Nat) (f : Fs) : State := { s with fs := SMap.put Fs.reset s.fs n f }
def State.volume (s : State) (n : Nat) : Option Volume := SMap.look none s.volumes n
def State.setVolume (s : State) (n : Nat) (v : Option Volume) : State := { s with volumes := SMap.put none s.volumes n v }
def State.part (s : State) (n : Nat) : Part := SMap.look Part.reset s.parts n
def State.setPart (s : State) (n : Nat) (p : Part) : State := { s with parts := SMap.put Part.reset s.parts n p }
def State.port (s : State) (n : Nat) : Port := SMap.look Port.reset s.ports n
def State.setPort (s : State) (n : Nat) (p : Port) : State := { s with ports := SMap.put Port.reset s.ports n p }
def State.bed (s : State) (n : Nat) : Bed := SMap.look Bed.reset s.beds n
def State.setBed (s : State) (n : Nat) (b : Bed) : State := { s with beds := SMap.put Bed.reset s.beds n b }
def State.emit (s : State) (o : Out) : State := { s with out := o :: s.out }

/-- A meaning on operands that name existing units; otherwise the device has no such unit. -/
def guardUnit (ok : Bool) (t : State) : Answer := if ok then .next t else .fault .absentUnit

/-! ## Geometry (R6, R7, R15) -/

/-- Site that holds service array `n` (R7, log entry 14). -/
def State.siteOf (s : State) (n : Nat) : Nat := SMap.look n s.mgs.saSite n
def siteRow (n : Nat) : Nat := n / 36
def siteCol (n : Nat) : Nat := n % 36
/-- Bed of a site (R6). -/
def bedOf (site : Nat) : Nat := siteCol site / 6 + 6 * (siteRow site / 6)
def State.bedOfArr (s : State) (n : Nat) : Nat := bedOf (s.siteOf n)

/-- Site at position p of side k (R15). -/
def ringSite (k p : Nat) : Nat :=
  match k with
  | 0 => p
  | 1 => 36 * p + 35
  | 2 => 1295 - p
  | _ => 1260 - 36 * p

/-- Attach site of a border station: 0-39 MS, 40-47 FS, 48-79 HS (R15; R228 numbering, HS after FS). -/
def attachSite (st : Nat) : Nat :=
  if st < 40 then ringSite (st / 10) (nth 0 [1, 5, 9, 13, 16, 19, 22, 26, 30, 34] (st % 10))
  else if st < 48 then ringSite ((st - 40) / 2) (nth 0 [17, 18] ((st - 40) % 2))
  else ringSite ((st - 48) / 8) (nth 0 [3, 7, 11, 14, 21, 24, 28, 32] ((st - 48) % 8))

/-- The station a site's router attaches, if any. -/
def stationAt (site : Nat) : Option Nat := (List.range 80).find? fun st => attachSite st == site

/-- Site next to `n` in direction 0 north, 1 east, 2 south, 3 west, if there is one. -/
def neighbour (n dir : Nat) : Option Nat :=
  match dir with
  | 0 => if siteRow n == 0 then none else some (n - 36)
  | 1 => if siteCol n == 35 then none else some (n + 1)
  | 2 => if siteRow n == 35 then none else some (n + 36)
  | _ => if siteCol n == 0 then none else some (n - 1)

/-! ## Gateways (R116, R117) -/

/-- R117's outbound gateway of a core. -/
def gateOf (x y : Nat) : Nat := 4 * (y / 12) + (if x < 8 then 0 else min 3 ((x - 8) / 2))

/-- Cores of a gateway (R117). -/
def gateCores (g : Nat) : List (Nat × Nat) :=
  let x := 8 + 2 * (g % 4)
  let y := if g < 4 then 0 else 23
  [(x, y), (x + 1, y)]

/-- The mesh port (0 N, 1 E, 2 S, 3 W) at which an elastic item that entered at core `g` reaches (x, y): along x first, then along
y (R116). -/
def portFrom (g : Nat × Nat) (x y : Nat) : Nat :=
  let outer := if g.2 == 0 then 0 else 2
  if y != g.2 then outer else if g.1 < x then 3 else if x < g.1 then 1 else outer

/-- The mesh ports at which the halves of a message for (x, y) arrive: one for each core of its gateway. -/
def arrivalPorts (x y : Nat) : List Nat := (gateCores (gateOf x y)).map fun g => portFrom g x y

/-! ## The event log (R293, R324) -/

/-- Enter an event; a full log loses its oldest record. -/
def State.event (s : State) (code source part param : Nat) : State :=
  let g := s.gel
  let e : Evt := ⟨s.mgs.tick, g.evtNext, source, code, part, leBytes 12 param⟩
  let full := decide (g.log.length ≥ 65536)
  { s with gel := { g with log := (if full then g.log.tail else g.log) ++ [e], evtNext := (g.evtNext + 1) % 2 ^ 32,
                           evtLost := if full then sat32 g.evtLost 1 else g.evtLost } }

def noPart : Nat := 0xFFFF

/-! ## The no-stop promise (R328, R329) -/

/-- FAILED_CORE, FAILED_TRANSIT or OFF_HEAT. -/
def BedState.failed : BedState → Bool
  | .offHeat => true
  | .failedCore => true
  | .failedTransit => true
  | _ => false

def State.bedsIn (s : State) (sel : BedState → Bool) : List Nat := (List.range 36).filter fun b => sel (s.bed b).state

/-- Two beds share an edge (R328). -/
def bedsTouch (a b : Nat) : Bool := (a / 6 == b / 6 && (a + 1 == b || b + 1 == a)) || a + 6 == b || b + 6 == a

/-- PROMISE: the conditions of R328 that do not hold. -/
def State.promise (s : State) : Nat :=
  let m := s.mgs
  let failed := s.bedsIn BedState.failed
  let transit := s.bedsIn (· == .failedTransit)
  let coolant := decide (480 ≤ m.coolFlow) && decide (m.coolFlow ≤ 600) && decide (150 ≤ m.coolIn) && decide (m.coolIn ≤ 350)
  let beds := decide (failed.length ≤ 4) && decide (transit.length ≤ 2) && transit.all fun a => transit.all fun b => !bedsTouch a b
  bit (decide (m.feeds.length < 2)) + 2 * bit (!coolant) + 4 * bit (!beds) + 8 * bit (decide (m.mgcs.length < 2))
    + 16 * bit (decide (65536 ≤ m.softEntries))

/-- A change of PROMISE since `old` enters the event log (R329). -/
def State.noted (s old : State) : State :=
  if s.promise == old.promise then s else s.event Config.capacityCode 0x01FF noPart s.promise

/-- A soft entry is added to the repair map (R318); the last free one changes PROMISE, which is logged (R329). -/
def State.addSoft (s : State) : State :=
  let s1 := { s with mgs := { s.mgs with softEntries := s.mgs.softEntries + 1 } }
  if s1.mgs.softEntries == 65536 then s1.event Config.capacityCode 0x01FF noPart s1.promise else s1

/-! ## Sites that leave service (R7, R317-R319) -/

/-- The lowest-numbered spare site, while the soft map has an entry free. -/
def State.spareSite (s : State) : Option Nat :=
  if s.mgs.softEntries < 65536 then
    s.mgs.spares.foldl (fun m n => some (match m with
      | some k => min k n
      | none => n)) none
  else none

/-- SA number `n` moves to a spare site, if there is one; the change of SA_SITES is logged (R329). -/
def State.moveSite (s : State) (n : Nat) : State :=
  match s.spareSite with
  | some t =>
    let m := s.mgs
    { s with mgs := { m with saSite := SMap.put n m.saSite n t, spares := m.spares.filter (· != t) }
             cores := s.cores.filter fun kc => keyArr kc.1 != n
             arrays := SMap.put Arr.reset s.arrays n { Arr.reset with part := (s.arr n).part, lastCheck := m.tick } }.addSoft.event
      0x0204 (0x0200 + n) noPart t
  | none => s

/-- Arrays of a list that no partition holds and whose sites are out of service move (R319, R326). -/
def State.moveDead (s : State) : List Nat → State
  | [] => s
  | n :: ns =>
    (if s.mgs.deadSites.contains (s.siteOf n) && (s.arr n).part.isNone then s.moveSite n else s).moveDead ns

/-- A site leaves service; the array on it moves unless a partition holds it. -/
def State.leaveSite (s : State) (site : Nat) (sas : List Nat) : State :=
  if s.mgs.deadSites.contains site then s
  else
    let m := s.mgs
    (({ s with mgs := { m with deadSites := m.deadSites ++ [site], spares := m.spares.filter (· != site) } }).event
      0x0204 (0x1000 + site) noPart site).moveDead sas

/-- Physical column of logical core (x, y) (R61): the columns from that of the row's mapped-out core on are one further. -/
def Arr.column (a : Arr) (x y : Nat) : Nat :=
  match a.mappedOut.find? fun o => o / 25 == y with
  | some o => if x < o % 25 then x else x + 1
  | none => x

/-- Logical core, as 24·y + x, in physical column `f` of row `y` (R61): none of the mapped-out core and of an unused spare. -/
def Arr.logical (a : Arr) (f y : Nat) : Option Nat :=
  ((List.range 24).find? fun x => a.column x y == f).map fun x => 24 * y + x

/-- Cores of the site that are mapped out now or will be from the next cast-on on. -/
def Arr.outAll (a : Arr) : List Nat := a.mappedOut ++ a.mapNext

/-- The soft entries of an array take effect (R61, R95): at a cast-on, and at a restore, which puts a job on the array anew. -/
def Arr.repaired (a : Arr) : Arr := { a with mappedOut := a.outAll, mapNext := [] }

/-- Number of the physical core that logical core (x, y) of an array is (R61). -/
def State.physical (s : State) (sa x y : Nat) : Nat := 25 * y + (s.arr sa).column x y

/-! ## Freezes, faults and teardown -/

/-- Freeze every array of a list (R53); an array already frozen keeps its cause. -/
def freezeAll (s : State) (why : Freeze) : List Nat → State
  | [] => s
  | n :: ns =>
    let a := s.arr n
    freezeAll (s.setArr n { a with freeze := some (a.freeze.getD why) }) why ns

/-- Release the freeze of every array of a list. -/
def thawAll (s : State) : List Nat → State
  | [] => s
  | n :: ns => thawAll (s.setArr n { s.arr n with freeze := none }) ns

/-- The cores of a list of arrays that the state lists. -/
def State.coresOf (s : State) (sas : List Nat) : SMap Core := s.cores.filter fun kc => sas.contains (keyArr kc.1)

/-- Change every listed core of a list of arrays. -/
def mapCores (s : State) (sas : List Nat) (f : Core → Core) : State :=
  { s with cores := SMap.mapV Core.reset (fun k c => if sas.contains (keyArr k) then f c else c) s.cores }

/-- Change every listed router, memory station, port, partition. -/
def mapRouters (s : State) (f : Router → Router) : State :=
  { s with routers := SMap.mapV Router.reset (fun _ r => f r) s.routers }
def mapMs (s : State) (f : Ms → Ms) : State := { s with ms := SMap.mapV Ms.reset (fun _ m => f m) s.ms }
def mapFs (s : State) (f : Fs → Fs) : State := { s with fs := SMap.mapV Fs.reset (fun _ x => f x) s.fs }
def mapPorts (s : State) (f : Port → Port) : State := { s with ports := SMap.mapV Port.reset (fun _ q => f q) s.ports }
def mapParts (s : State) (f : Nat → Part → Part) : State := { s with parts := SMap.mapV Part.reset f s.parts }

/-- The next random bytes. -/
def State.draw (s : State) : State := { s with draws := s.draws + 1 }

/-- EPOCH of a message's header (R99, R209). -/
def Message.epoch (m : Message) : Nat := fld m.header 19 16

/-- PART of a RED_ENT (R130). -/
def redPart (w : W64) : Nat := fld w 51 46

/-- Messages, of an epoch that the test selects, in reduction buffers of slots that belong to partition `p`. -/
def bufCount (p : Nat) (old : Nat → Bool) (red : SMap W64) (bufs : SMap RedBuf) : Nat :=
  (bufs.filter fun b => redPart (SMap.look 0 red b.1) == p).foldl
    (fun n b => n + bit (b.2.side0.any fun m => old m.epoch) + bit (b.2.side1.any fun m => old m.epoch)) 0

/-- Take them out. -/
def dropBufs (p : Nat) (old : Nat → Bool) (red : SMap W64) (bufs : SMap RedBuf) : SMap RedBuf :=
  SMap.mapV RedBuf.reset
    (fun k b => if redPart (SMap.look 0 red k) == p then
        { b with side0 := b.side0.filter fun m => !old m.epoch, side1 := b.side1.filter fun m => !old m.epoch }
      else b) bufs

/-- Is the token one of partition `p`, of an epoch the test selects? -/
def tokenOf (p : Nat) (old : Nat → Bool) (t : Token) : Bool := t.part == p && old t.epoch

/-- A doorbell. -/
def Body.isBell : Body → Bool
  | .doorbell _ _ _ _ _ => true
  | _ => false

/-- UPDATE requests of partition `p` not acknowledged, of an epoch the test selects: their gradient is lost (R210). -/
def State.unacked (s : State) (p : Nat) (old : Nat → Bool) : List Nat :=
  s.ms.flatMap fun m => ((m.2.waiting ++ m.2.active.map Active.req).filter fun r =>
    r.host.isNone && r.kind == .update && r.part == p && old r.epoch).map Request.rid

/-- A station without what is left of those updates. -/
def Ms.dropParts (m : Ms) (rids : List Nat) : Ms :=
  let keep := (m.updq.zip m.updParts).filter fun u => !rids.contains u.1.rid
  { m with updq := keep.map Prod.fst, updParts := keep.map Prod.snd
           pends := m.pends.filter fun e => !rids.contains e.2.grad.rid }

/-- FLUSH (R210): discard the tokens of partition `p` in epochs `old` selects, in links, ports, reduction slots and station
queues; answers the state and how many were discarded. A doorbell so discarded is counted in DB_DROPPED (R247). -/
def flushTokens (s : State) (p : Nat) (old : Nat → Bool) : State × Nat :=
  let sas := (s.part p).sas
  let inPorts := (s.coresOf sas).foldl (fun n kc => n + (kc.2.ports.filter fun q => q.2.out.any fun m => old m.epoch).length) 0
  let inRouters := s.routers.foldl (fun n r => n + bufCount p old r.2.red r.2.bufs) 0
  let inMs := s.ms.foldl
    (fun n m => n + bufCount p old m.2.red m.2.bufs
      + (m.2.waiting.filter fun r => r.host.isNone && r.part == p && old r.epoch).length
      + (m.2.active.filter fun a => a.req.host.isNone && a.req.part == p && old a.req.epoch).length) 0
  let inBells := s.ports.foldl (fun n q => n + (q.2.doorbells.filter fun d => d.part == p && old d.epoch).length) 0
  let n := (s.net.filter (tokenOf p old)).length + inPorts + inRouters + inMs + inBells
  let gone := fun (q e : Nat) => q == p && old e
  let ends := fun r : Request => r.host.isNone && gone r.part r.epoch
  let bells := (s.net.filter fun t => tokenOf p old t && t.body.isBell).length
  let s1 := mapCores s sas fun c =>
    { c with ports := SMap.mapV OutPort.reset (fun _ q => { q with out := q.out.filter fun m => !old m.epoch }) c.ports }
  let s2 := mapRouters s1 fun r => { r with bufs := dropBufs p old r.red r.bufs }
  let lost := s.unacked p old
  let s3 := mapMs s2 fun m =>
    { m.dropParts lost with
      bufs := dropBufs p old m.red m.bufs
      waiting := m.waiting.filter fun r => !ends r
      taken := m.taken.filter fun x => !(m.waiting.any fun r => r.rid == x.1 && ends r)
      active := m.active.filter fun a => !ends a.req
      threads := SMap.mapV Thread.reset
        (fun _ t => if m.active.any fun a => t.job == some (.serve a.req.rid) && ends a.req then Thread.reset else t)
        m.threads }
  let s4 := mapPorts s3 fun q =>
    { q with
      doorbells := q.doorbells.filter fun d => !(gone d.part d.epoch)
      dbDropped := satAdd 0xFFFF q.dbDropped (q.doorbells.filter fun d => gone d.part d.epoch).length }
  let h := s4.port (s.part p).owner
  let s5 := if bells == 0 then s4 else s4.setPort (s.part p).owner { h with dbDropped := satAdd 0xFFFF h.dbDropped bells }
  ({ s5 with net := s5.net.filter fun t => !(tokenOf p old t) }, n)

/-! ## Arrays at rest, the status word's gathering (R49, R225, R226, R233) -/

/-- Every core of the array has halted. -/
def State.allHalted (s : State) (sa : Nat) : Bool := s.cores.all fun kc => keyArr kc.1 != sa || kc.2.halted

/-- The largest of a list, 0 of none; the least, `d` of none. -/
def maxOf (l : List Nat) : Nat := l.foldl max 0
def minOf (d : Nat) (l : List Nat) : Nat := l.foldl min d

/-- The last fire cycle in which the core fires a slot, or a unit of it is busy or within its result latency (R48, R49). -/
def Core.busyTill (c : Core) : Nat :=
  maxOf [c.lastFire, c.matrixFree - 1, c.vectorFree - 1, c.vaccFree - 1, c.moveFree - 1, maxOf (c.tileFree.map fun t => t.2 - 1),
    maxOf (c.mmaPend.map MmaPend.due), maxOf (c.vecPend.map VecPend.due), maxOf (c.retires.map (·.1))]

/-- Fire cycle in which an array whose cores have all halted comes to rest (R49). -/
def State.restAt (s : State) (sa : Nat) : Nat := maxOf ((s.cores.filter fun kc => keyArr kc.1 == sa).map fun kc => kc.2.busyTill)

/-- The array is at rest (R49): every core has halted, and no unit is busy or within its result latency. -/
def State.atRest (s : State) (sa : Nat) : Bool :=
  decide (s.restAt sa ≤ (s.arr sa).fireCycle)
    && s.cores.all fun kc => keyArr kc.1 != sa || (kc.2.halted && kc.2.mmaPend.isEmpty && kc.2.vecPend.isEmpty)

/-- The watermark F (R226). -/
def State.watermark (s : State) (q : Part) : Nat :=
  let top := maxOf (q.sas.map fun n => (s.arr n).fireCycle)
  let running := (q.sas.filter fun n => !s.atRest n).map fun n => (s.arr n).fireCycle
  minOf (minOf top running) (q.openWrites.map fun w => w.2.2.2)

/-- Do the arrays of a partition hold the fire cycles of its run (R222)? -/
def PState.fires : PState → Bool
  | .casting => true
  | .running => true
  | .quiescing => true
  | .complete => true
  | _ => false

/-- FC_MIN (R233); where no array fires for the partition, as last gathered (log entry 54). -/
def State.fcMin (s : State) (q : Part) : Nat :=
  let running := (q.sas.filter fun n => !s.atRest n).map fun n => (s.arr n).fireCycle
  let top := maxOf (q.sas.map fun n => (s.arr n).fireCycle)
  if !q.state.fires then q.fcHeld else if running.isEmpty then top else minOf top running

/-- SLOWDOWN (R233): 64 x ELAPSED_US / (REF_US x FC_MIN / REF_FC), truncated, at most 1,023; 0 where a divisor is 0. -/
def State.slowdownOf (s : State) (q : Part) : Nat :=
  let refFc := fld q.jobRef0 47 0
  let refUs := fld q.jobRef1 39 0
  let fc := s.fcMin q
  if refFc == 0 || refUs == 0 || fc == 0 then 0
  else min 1023 (64 * (q.elapsedTicks / 25) * refFc / (refUs * fc))

/-- STICKY, FPX, SLOWDOWN and PROGRESS gathered (R225), and FC_MIN. -/
def State.gather (s : State) (p : Nat) : State :=
  let q := s.part p
  let cs := s.coresOf q.sas
  s.setPart p
    { q with sticky := cs.any fun kc => kc.2.stickies != 0
             fpx := cs.foldl (fun v kc => v ||| kc.2.fpStatus) 0
             slowdown := s.slowdownOf q
             progress := s.watermark q / 4096 % 2 ^ 36
             fcHeld := s.fcMin q }

/-- Every shadow that a load touched returns to its live value; scratchpads that SCRATCH frames wrote are zero again (R206). -/
def State.restoreShadows (s : State) (p : Nat) (scratched : List Nat) : State :=
  let q := s.part p
  let s1 := s.setPart p { q with regionsShadow := q.regions, psetsShadow := q.psets, graphShadow := q.graph, routesShadow := [] }
  let s2 := mapCores s1 q.sas fun c => { c with cfgShadow := c.cfg, progShadow := c.prog }
  scratched.foldl (fun s k => s.setCore k { s.core k with scratch := [] }) s2

/-- FRAME when no frame is concerned (R201). -/
def noFrame : Nat := 0xFFFFFFFF

def State.setLoader (s : State) (h : Nat) (l : Loader) : State := s.setPort h { s.port h with loader := l }

/-- Count a load or commit that ended with a reason (R216). -/
def State.countReject (s : State) : State := { s with tally := { s.tally with skeinRejects := sat32 s.tally.skeinRejects 1 } }

/-- A load ends with a load-time reason (R202, R205): the skein is discarded, and what its commit had taken is released. -/
def State.endLoad (s : State) (h reason frame : Nat) : State :=
  let l := (s.port h).loader
  let s1 := s.restoreShadows l.part l.scratched
  let q := s1.part l.part
  let s2 := s1.setPart l.part { q with commitPending := false, plan := none }
  let s3 := { s2 with mgs := { s2.mgs with commitQueue := s2.mgs.commitQueue.filter (· != h) } }
  (s3.setLoader h { l with state := 0, reason := reason, frame := frame, bytes := [], scratched := [], stage := .idle }).countReject

/-- The port whose load targets partition `p`. -/
def State.loaderOf (s : State) (p : Nat) : Option Nat :=
  (List.range 32).find? fun h => (s.port h).loader.state != 0 && (s.port h).loader.part == p

/-- End the load or commit for partition `p` with reason 0x1A (R205, R224). -/
def abortLoads (s : State) (p : Nat) : State :=
  match s.loaderOf p with
  | some h => s.endLoad h 0x1A noFrame
  | none => s

/-- Does a slow-tier slot of partition `p` hold a dirty block (R185)? -/
def State.dirtyBlocks (s : State) (p : Nat) : Bool :=
  s.ms.any fun m => m.2.dir.any fun d => d.2.valid && d.2.dirty && d.2.part == p

/-- Start bind-off (R215 step 1; R222): freeze, discard tokens, BINDING. A partition torn down also loses its queued updates and
pending entries, and its volumes hold blocks of different steps (R185). The status word is gathered from arrays that hold the job; it
is kept over a suspension (R225). The caller tests the state. -/
def startBindOff (s : State) (p : Nat) (why : Freeze) (torn : Bool) : State :=
  let st := (s.part p).state
  let loaded := st != .suspended && st != .placed && st != .resumable
  let s1 := abortLoads (if loaded then s.gather p else s) p
  let s2 := freezeAll s1 why (s1.part p).sas
  let s3 := (flushTokens s2 p fun _ => true).1
  let s4 := if torn then mapMs s3 fun m =>
      { m with
        updq := (m.updq.zip m.updParts).filterMap (fun u => if u.2 == p then none else some u.1)
        updParts := m.updParts.filter (· != p)
        pends := m.pends.filter fun e => e.2.part != p }
    else s3
  let s5 := if torn then { s4 with volumes := SMap.mapV none (fun _ v => v.map fun w =>
      if w.bound.any fun b => b.1 == p then { w with inconsistent := true } else w) s4.volumes } else s4
  let q := s5.part p
  s5.setPart p { q with state := .binding, commitPending := false, placing := false, resuming := false, stopWaits := false,
                        castLeft := [], divs := [] }

/-- Is the partition one that a fault can end (R222, R224)? -/
def PState.live : PState → Bool
  | .none => false
  | .binding => false
  | .ended => false
  | _ => true

/-! ### The arbiter's order (R224, R229) -/

/-- The place of an event among those of one tick: events of arrays by array, fire cycle and core; then routers by site, stations by
number, deadlock, divergence, loss of a bed, a cast-on that fails, and last a STOP. -/
def eventRank (group a cycle c : Nat) : Nat := ((2048 * group + a) * 2 ^ 48 + cycle % 2 ^ 48) * 2048 + c

/-- Events of arrays: a trap of a core comes before a fault of it. -/
def arrayRank (sa x y cycle : Nat) (fault : Bool) : Nat := eventRank 0 sa cycle (2 * (24 * y + x) + bit fault)
def deadlockRank : Nat := eventRank 3 0 0 0
def divergenceRank : Nat := eventRank 4 0 0 0
def castFailRank : Nat := eventRank 6 0 0 0
def stopRank : Nat := eventRank 7 0 0 0

/-- Does END give way to an event: the first that reaches the arbiter, or one of the same tick that R229 puts before the one held? DONE
of a COMPLETE partition gives way to a fault. -/
def Part.endYields (q : Part) (tick rank : Nat) : Bool :=
  (q.state != .binding && decide (q.endCode ≤ 1)) || (q.endAt.1 == tick && decide (rank < q.endAt.2))

/-- END of partition `q`, for an event that reached it in state `q0`. -/
def endWith (q0 : Part) (tick rank code : Nat) (q : Part) : Part :=
  if q0.endYields tick rank then { q with endCode := code, endAt := (tick, rank) } else q

/-- The record register after an event: its words when empty, or when R229 puts the event before the one held, and then MULTI is set;
else MULTI alone. -/
def recordOf (held : Rec4) (heldAt : Nat × Nat) (tick rank : Nat) (words : Rec4) : Rec4 × (Nat × Nat) :=
  let multi := fun r : Rec4 => { r with w0 := r.w0 ||| (1#64 <<< 62) }
  if !bitOf held.w0 63 then (words, (tick, rank))
  else if heldAt.1 == tick && decide (rank < heldAt.2) then (multi words, (tick, rank))
  else (multi held, heldAt)

/-- What a fault record says (R228). -/
structure FaultInfo where
  kind : Nat
  cause : Nat := 0
  sa : Nat := 0
  x : Nat := 0
  y : Nat := 0
  slot : Nat := 0
  router : Bool := false
  mport : Nat := 0
  counter : Nat := 0
  csrc : Nat := 0
  desc : Nat := 0
  fireCycle : Nat := 0
  station : Nat := 0
  region : Nat := 0
  offset : Nat := 0
  site : Nat := 0
  rslot : Nat := 0
  staRed : Bool := false
  sslot : Nat := 0
  bed : Nat := 0
  heat : Bool := false

/-- PART_FAULT's four words (R228), VALID set. -/
def FaultInfo.words (f : FaultInfo) : Rec4 :=
  { w0 := packW [(0, f.kind), (4, f.cause), (8, f.sa), (19, f.x), (24, f.y), (29, f.slot), (39, bit f.router),
                 (40, bit (f.csrc != 0)), (41, f.mport), (43, f.counter), (47, f.csrc), (49, f.desc), (63, 1)]
    w1 := packW [(0, f.fireCycle % 2 ^ 48)]
    w2 := packW [(0, f.station), (7, f.region), (13, f.offset)]
    w3 := packW [(0, f.site), (11, f.rslot), (15, bit f.staRed), (16, f.sslot)] }

/-- Event code of a fault (R324). -/
def FaultInfo.code (f : FaultInfo) : Nat :=
  match f.kind with
  | 4 => 0x0101
  | 5 => 0x0102
  | 6 => 0x0103
  | 7 => 0x0104
  | 8 => if f.cause == 2 then 0x0203 else 0x0105
  | 9 => 0x0106
  | _ => if f.heat then 0x0402 else 0x0401

/-- PARAM of a fault's event (R324): the array and core, where SOURCE is an array; else the bed, station or site itself (log entry 43). -/
def FaultInfo.param (f : FaultInfo) : Nat :=
  if f.kind == 13 then f.bed
  else if f.staRed || f.kind == 7 then f.station
  else if f.router then f.site
  else f.sa + 2 ^ 16 * (24 * f.y + f.x)

/-- SOURCE of a fault's event (R293): the bed, the array, the site, or the station concerned. -/
def FaultInfo.source (f : FaultInfo) : Nat :=
  if f.kind == 13 then f.bed
  else if f.staRed || f.kind == 7 then (if f.station < 40 then 0x0100 + f.station else 0x0140 + (f.station - 40))
  else if f.router then 0x1000 + f.site
  else 0x0200 + f.sa

/-- Its place in the arbiter's order (R229). -/
def FaultInfo.rank (f : FaultInfo) : Nat :=
  if f.kind == 13 then eventRank 5 0 0 0
  else if f.staRed || f.kind == 7 then eventRank 2 f.station 0 0
  else if f.router then eventRank 1 f.site 0 0
  else arrayRank f.sa f.x f.y f.fireCycle true

/-- A fault of a partition (R227-R229): freeze, latch PART_FAULT (or set FMULTI on a record that holds one), set END, start
bind-off, log. A partition in BINDING keeps its END, unless R229 puts the fault first in its tick; its record fills if empty. -/
def faultPart (s : State) (p : Nat) (f : FaultInfo) : State :=
  let q := s.part p
  if q.state == .none || q.state == .ended then s
  else
    let r := recordOf q.fault q.faultAt s.mgs.tick f.rank f.words
    let s1 := (s.setPart p { q with fault := r.1, faultAt := r.2 }).event f.code f.source p f.param
    let s2 := if q.state == .binding then s1 else startBindOff s1 p .fault true
    s2.setPart p (endWith q s.mgs.tick f.rank f.kind (s2.part p))

/-- The partition that holds an array faults; an array of no partition has nobody to tell. -/
def faultArr (s : State) (sa : Nat) (f : FaultInfo) : State :=
  match (s.arr sa).part with
  | some p => faultPart s p f
  | none => s

/-- The site of array `n` leaves service for a failure of its cores or SRAMs: a partition on it, unless it is being torn down, ends with
BED_LOST (R324; DESIGN CHOICE, log entry 80: R324 gives no END code, and R319 gives BED_LOST to a partition that loses its site). -/
def State.retireSite (s : State) (n : Nat) : State :=
  if s.mgs.deadSites.contains (s.siteOf n) then s
  else
    let s1 := s.leaveSite (s.siteOf n) [n]
    match (s.arr n).part with
    | some p => if (s.part p).state == .binding then s1 else faultPart s1 p { kind := 13, bed := s.bedOfArr n }
    | none => s1

/-- A soft entry can put the row's spare in the place of the core in physical column `f` of row `y`. -/
def State.coreFits (s : State) (n y : Nat) : Bool :=
  !((s.arr n).outAll.any fun o => o / 25 == y) && decide (s.mgs.softEntries < 65536)

/-- The core in physical column `f` of row `y` is mapped out by a soft entry: the row's spare takes its place at the array's next
cast-on, or, the second time in a row or with a full soft map, the site leaves service (R61, R62, R95, R318). -/
def State.mapOutAt (s : State) (n y f : Nat) : State :=
  let a := s.arr n
  if a.outAll.contains (25 * y + f) then s
  else if s.coreFits n y then (s.setArr n { a with mapNext := a.mapNext ++ [25 * y + f] }).addSoft
  else s.retireSite n

/-- Logical core `c` = 24·y + x is mapped out. -/
def State.mapOut (s : State) (n c : Nat) : State := s.mapOutAt n (c / 24) ((s.arr n).column (c % 24) (c / 24))

/-- The held record is of a schedule violation of the same array and fire cycle in a core behind (x, y) (R60). -/
def laterViolation (r : Rec4) (sa x y fireCycle : Nat) : Bool :=
  bitOf r.w0 63 && fld r.w0 3 0 == 4 && fld r.w0 18 8 == sa && fld r.w1 47 0 == fireCycle % 2 ^ 48
    && decide (24 * y + x < 24 * fld r.w0 28 24 + fld r.w0 23 19)

/-- A schedule-violation fault of a core's slot (R60): among those of several cores of one array in one fire cycle, that of the
lowest y, then the lowest x, stands in the record. -/
def schedFault (s : State) (sa x y slot cause fireCycle : Nat) : State :=
  let f : FaultInfo := { kind := 4, cause := cause, sa := sa, x := x, y := y, slot := slot, fireCycle := fireCycle }
  match (s.arr sa).part with
  | none => s
  | some p =>
    let s1 := faultPart s p f
    if laterViolation (s.part p).fault sa x y fireCycle then
      s1.setPart p { s1.part p with fault := { f.words with w0 := f.words.w0 ||| (1#64 <<< 62) } }
    else s1

/-- A stream fault (R165), from memory or flash station `station`, of the transfer of core (x, y) of array `sa`. -/
def streamFault (s : State) (p cause station region offset sa x y : Nat) : State :=
  faultPart s p { kind := 7, cause := cause, sa := sa, x := x, y := y, station := station, region := region,
                  offset := offset, fireCycle := (s.arr sa).fireCycle }

/-- A stream fault that no core's transfer met: SA, X, Y and the fire cycle are 0. -/
def stationFault (s : State) (p cause station region offset : Nat) : State :=
  faultPart s p { kind := 7, cause := cause, station := station, region := region, offset := offset }

/-- A stream fault met on behalf of a core (its key), if any. -/
def streamFaultFor (s : State) (p cause station region offset : Nat) : Option Nat → State
  | some k => streamFault s p cause station region offset (keyArr k) (keyX k) (keyY k)
  | none => stationFault s p cause station region offset

/-- TRAP_INFO's four words (R43). -/
def TrapEvent.words (e : TrapEvent) (sa x y : Nat) (multi : Bool) : Rec4 :=
  { w0 := packW [(0, sa), (11, x), (16, y), (21, e.slot), (32, e.fmt), (36, e.src), (62, bit multi), (63, 1)]
    w1 := packW [(0, e.fireCycle % 2 ^ 48)]
    w2 := packW [(0, e.tensor % 2 ^ 32), (32, e.col % 2 ^ 32)]
    w3 := packW [(0, e.row % 2 ^ 48), (48, e.batch % 2 ^ 16)] }

/-- The first-NaN trap (R42): its first event is recorded; MULTI when another came, or a record is held already. END becomes
TRAP. -/
def trapPart (s : State) (sa x y : Nat) (e : TrapEvent) (multi : Bool) : State :=
  match (s.arr sa).part with
  | none => s
  | some p =>
    let q := s.part p
    let rank := arrayRank sa x y e.fireCycle false
    let r := recordOf q.trap q.trapAt s.mgs.tick rank (e.words sa x y multi)
    let s1 := (s.setPart p { q with trap := r.1, trapAt := r.2 }).event 0x0107 (0x0200 + sa) p (sa + 2 ^ 16 * (24 * y + x))
    let s2 := if q.state.live then startBindOff (freezeAll s1 .trap [sa]) p .trap true else s1
    if q.state == .none || q.state == .ended then s2
    else s2.setPart p (endWith q s.mgs.tick rank 3 (s2.part p))

/-- Something of an array of a partition fires, lands or leaves: the deadlock window begins again (R110). -/
def State.stirPart (s : State) (p : Nat) : State := s.setPart p { s.part p with dlFrom := s.mgs.tick }
def State.stir (s : State) (sa : Nat) : State :=
  match (s.arr sa).part with
  | some p => s.stirPart p
  | none => s

/-! ## Tokens -/

/-! ## Host writes that wait at a station (R245, R248) -/

/-- A window request of a queue's command is over, with a status; a command with none left is finished (R250). -/
def Queue.writeOver (u : Queue) (rid status : Nat) : Queue :=
  let cs := u.cmds.map fun e => if e.left.contains rid then
    { e with left := e.left.filter (· != rid), status := if e.status == 0 then status else e.status } else e
  let finished := fun e : QEntry => e.started && e.left.isEmpty
  { u with cmds := cs.filter fun e => !finished e
           done := u.done ++ (cs.filter finished).map fun e => ⟨fld e.cmd.w0 23 8, e.status, 0⟩ }

/-- Host write `rid` of port `h` is acknowledged (status 0) or refused: a window write refused counts in UNMAPPED. -/
def State.hostOver (s : State) (h rid status : Nat) : State :=
  let q := s.port h
  let queued := q.queues.any fun u => u.2.cmds.any fun e => e.left.contains rid
  s.setPort h { q with openWrites := q.openWrites.filter (· != rid)
                       unmapped := if status != 0 && !queued then satAdd 0xFFFF q.unmapped 1 else q.unmapped
                       queues := SMap.mapV Queue.reset (fun _ u => u.writeOver rid status) q.queues }

/-- A host read with the bytes of a piece, or its failure. -/
def OpenRead.take (r : OpenRead) (rid : Nat) (bs : Option (List Byte)) : OpenRead :=
  if r.pieces.any fun p => p.1 == rid then
    { r with pieces := r.pieces.map fun p => if p.1 == rid then (p.1, some (bs.getD [])) else p, failed := r.failed || bs.isNone }
  else r

def OpenRead.isDone (r : OpenRead) : Bool := r.pieces.all fun p => p.2.isSome

/-- What a read that is over sends: its bytes, or a window's Completer Abort. -/
def OpenRead.answer (h : Nat) (r : OpenRead) : List Out :=
  let bs := r.pieces.flatMap fun p => p.2.getD []
  match r.addr with
  | none => [if r.failed then .completerAbort h else .readData h bs]
  | some a => if r.failed then [] else [.hostWrite h a bs]

/-- Piece `rid` of a host read is over, with its bytes or with a status. -/
def State.readOver (s : State) (h rid : Nat) (bs : Option (List Byte)) (status : Nat) : State :=
  let q := s.port h
  let rs := q.openReads.map fun r => r.take rid bs
  let s1 := s.setPort h { q with openReads := rs.filter fun r => !r.isDone
                                 queues := SMap.mapV Queue.reset (fun _ u => u.writeOver rid status) q.queues }
  { s1 with out := ((rs.filter OpenRead.isDone).flatMap (OpenRead.answer h)).reverse ++ s1.out }

/-- The host writes at the stations that `sel` selects leave them, refused with a status. -/
def State.dropHost (s : State) (sel : Nat → Request → Bool) (status : Nat) : State :=
  let gone := s.ms.flatMap fun m => (m.2.waiting ++ m.2.active.map Active.req).filterMap fun r =>
    if sel m.1 r then r.host.map fun h => (h, r.rid, r.kind == .read) else none
  let keep := fun r : Request => !(gone.any fun g => r.host == some g.1 && r.rid == g.2.1)
  gone.foldl (fun s g => if g.2.2 then s.readOver g.1 g.2.1 none status else s.hostOver g.1 g.2.1 status)
    (mapMs s fun m => { m with waiting := m.waiting.filter keep, active := m.active.filter fun a => keep a.req })

/-! ## Live firmware switchover (R327) -/

/-- Element `n` of kind `k` (0 management controller, 1 bed controller, 2 flash, 3 memory, 4 host station) is switching: the first of those
that are still to switch. -/
def State.switching (s : State) (k n : Nat) : Bool := s.fw.pending.head? == some (k, n)

/-- Some element of kind `k` is. -/
def State.switchingKind (s : State) (k : Nat) : Bool := s.fw.pending.head?.any fun e => e.1 == k

/-- What a switching element holds waits (R327): the command has no effect then, and has it when it is given again after the switch (DESIGN
CHOICE, log entry 86). -/
def State.unlessHeld (s : State) (held : Bool) (t : State) : State := if held then s else t

/-- The direction of a link or port at a router, as `via` and lane keys count it: 0-3 the links out of it; of the local port 4 into the
router and 7 out of it; of the station port 6 into the router and 5 out of it (R118). The one by which a new token enters its first
router; the result of a router's reduction slot enters by none. -/
def enterBy (loc : Loc) (body : Body) : Option (Nat × Nat) :=
  match loc, body with
  | .router n, .msg m => if m.src < 2 ^ 40 then some (n, 4) else if m.src < 2 ^ 41 then none else some (n, 6)
  | .router n, .request _ => some (n, 4)
  | .router n, .release _ _ _ => some (n, 4)
  | .router n, .tile _ _ _ _ _ => some (n, 6)
  | .router n, .doorbell _ _ _ _ _ => some (n, 6)
  | _, _ => none

/-- The core that sends what enters by a local port: a message's, a request's, a release token's, whose branch names it. -/
def senderCore : Body → Nat × Nat
  | .msg m => (keyX (m.src / 8), keyY (m.src / 8))
  | .request r => (r.x, r.y)
  | .release _ _ b => ((b - 4) % 24, (b - 4) / 24)
  | _ => (0, 0)

/-- The lanes of that port a token may use: the local lane of its core's gateway (R117); of the station port's, 14 and 15 are reserved
for class 0 (R133, R134). -/
def enterLanes (cls : Nat) (body : Body) : Option (Nat × Nat) → List Nat
  | none => []
  | some v => if v.2 == 6 then (if cls == 0 then [14, 15] else List.range 14) else [gateOf (senderCore body).1 (senderCore body).2]

/-- Put a token into the network under the next number. -/
def State.inject (s : State) (part cls epoch : Nat) (loc : Loc) (entry : Nat) (body : Body) : State :=
  let via := enterBy loc body
  { s with net := s.net ++ [⟨s.nextId, part, cls, epoch, loc, entry, via, enterLanes cls body via, body⟩], nextId := s.nextId + 1 }

def State.token (s : State) (id : Nat) : Option Token := s.net.find? fun t => t.id == id

/-- Take a token out of the network. -/
def State.consume (s : State) (id : Nat) : State := { s with net := s.net.filter fun t => t.id != id }

/-- Put copies in the place of a token; the first keeps its number. -/
def State.replaceToken (s : State) (id : Nat) (ts : List Token) : State :=
  let num := ts.zipIdx.map fun p => if p.2 == 0 then { p.1 with id := id } else { p.1 with id := s.nextId + p.2 - 1 }
  { s with net := s.net.flatMap fun t => if t.id == id then num else [t], nextId := s.nextId + (ts.length - 1) }

/-- No token that `older` selects was injected before token `id` (R97: a channel keeps the sender's order). -/
def State.inOrder (s : State) (id : Nat) (older : Token → Bool) : Bool :=
  !(s.net.takeWhile fun t => t.id != id).any older

/-- Apply a change to the token with a number, when there is one. -/
def withToken (s : State) (id : Nat) (f : Token → State) : State :=
  match s.token id with
  | some t => f t
  | none => s

/-- Inject a token for a partition, in its class and current epoch (R209). -/
def State.injectFor (s : State) (p : Nat) (loc : Loc) (entry : Nat) (body : Body) : State :=
  s.inject p (s.part p).cls (s.part p).epoch loc entry body

/-- Messages of a tile of `n` bytes (R151). -/
def tileMessages (n : Nat) : Nat := ceilDiv n 1024

/-- The live tokens of a partition (R209): in links, ports, reduction slots, station queues and doorbells, by epoch. -/
def State.tokensOf (s : State) (p : Nat) (sel : Nat → Bool) : Nat := (flushTokens s p sel).2

/-! ## Regions and stacks (R137-R139) -/

/-- Numbers of the bits set below `n`, in increasing order. -/
def setBits (v n : Nat) : List Nat := (List.range n).filter fun i => v.testBit i

/-- VALID, KIND, G, SMASK and SIZE of a REGION_ENT (R138). -/
def RegionEnt.valid (r : RegionEnt) : Bool := bitOf r.w0 0
def RegionEnt.kind (r : RegionEnt) : Nat := fld r.w0 2 1
def RegionEnt.gran (r : RegionEnt) : Nat := 2 ^ (10 + fld r.w0 5 3)
def RegionEnt.stations (r : RegionEnt) : List Nat := setBits (fld r.w0 46 7) 40
def RegionEnt.size (r : RegionEnt) : Nat := fld r.w1 41 0

def Part.region (p : Part) (r : Nat) : RegionEnt := SMap.look RegionEnt.zero p.regions r

/-- Where byte `o` of a region of KIND 0 or 1 lies: station and stack-local address (R139). -/
def Part.place (p : Part) (r o : Nat) : Nat × Nat :=
  let e := p.region r
  let n := e.stations.length
  let g := e.gran
  let st := nth 0 e.stations (o / g % n)
  (st, SMap.look 0 p.bases (64 * r + st) + o / (n * g) * g + o % g)

/-- Home station of block `b` of a KIND 2 region (R138, spec/08): index b mod n among the stations in service at commit. -/
def Part.home (p : Part) (r b : Nat) : Nat :=
  let l := SMap.look [] p.homes r
  nth 0 l (b % l.length)

/-- Stack-local address of staging slot `k` (R177). -/
def slotAddr (k : Nat) : Nat := 0xE40000000 + 65536 * k

/-- Bucket of a block (R179), and the end of a chain. -/
def bucketOf (p r b : Nat) : Nat := (b / 40 + 7919 * r + 104729 * p) % 131072
def chainEnd : Nat := 0x1FFFF

/-- Follow a bucket chain from slot `k` to the one that holds a block. -/
def Ms.chain (m : Ms) (p r b : Nat) : Nat → Nat → Option (Nat × DirEnt)
  | 0, _ => none
  | fuel + 1, k =>
    let d := SMap.look DirEnt.reset m.dir k
    if d.valid && d.part == p && d.region == r && d.block == b then some (k, d)
    else if d.next == chainEnd then none else m.chain p r b fuel d.next

/-- The slot that holds block `b` of region `r` of partition `p` at a station, found through its bucket (R177, R179). -/
def Ms.findBlock (m : Ms) (p r b : Nat) : Option (Nat × DirEnt) :=
  match SMap.look 0 m.buckets (bucketOf p r b) with
  | 0 => none
  | k + 1 => m.chain p r b (m.dir.length + 1) k

/-- Slot `k` leaves its chain and is free. -/
def Ms.dropSlot (m : Ms) (k : Nat) : Ms :=
  let d := SMap.look DirEnt.reset m.dir k
  if !d.valid then m
  else
    let bu := bucketOf d.part d.region d.block
    let dir := SMap.put DirEnt.reset m.dir k DirEnt.reset
    if SMap.look 0 m.buckets bu == k + 1 then
      { m with dir := dir, buckets := SMap.put 0 m.buckets bu (if d.next == chainEnd then 0 else d.next + 1) }
    else { m with dir := SMap.mapV DirEnt.reset (fun _ e => if e.valid && e.next == k then { e with next := d.next } else e) dir }

/-- Slot `k` takes a block, at the head of its bucket's chain; its flash read begins. -/
def Ms.takeSlot (m0 : Ms) (k p r b : Nat) : Ms :=
  let m := m0.dropSlot k
  let bu := bucketOf p r b
  let head := SMap.look 0 m.buckets bu
  { m with dir := SMap.put DirEnt.reset m.dir k ⟨true, false, true, false, true, p, r, b, if head == 0 then chainEnd else head - 1⟩
           buckets := SMap.put 0 m.buckets bu (k + 1) }

/-- Where byte `o` of any region lies now: station and stack-local address; none when a KIND 2 block is not staged. -/
def State.locate (s : State) (p r o : Nat) : Option (Nat × Nat) :=
  let q := s.part p
  if (q.region r).kind == 2 then
    let st := q.home r (o / 65536)
    match (s.mem st).findBlock p r (o / 65536) with
    | some d => if d.2.staging then none else some (st, slotAddr d.1 + o % 65536)
    | none => none
  else some (q.place r o)

/-- Read bytes of a region, 0 where a block is not staged. -/
def State.readRegion (s : State) (p r o n : Nat) : List Byte :=
  (List.range n).map fun i =>
    match s.locate p r (o + i) with
    | some a => SMap.look 0 (s.mem a.1).stack a.2
    | none => 0

/-- Whole sectors at a station that lie inside a stack range leave the poison table when they are written (R143). -/
def unpoison (poison : List Nat) (a n : Nat) : List Nat :=
  poison.filter fun q => !(decide (a ≤ q) && decide (q + 32 ≤ a + n))

/-- Write bytes of a region where they lie. -/
def State.writeRegion (s : State) (p r o : Nat) : List Byte → State
  | [] => s
  | b :: bs =>
    let s1 := match s.locate p r o with
      | some a => let m := s.mem a.1
        s.setMem a.1 { m with stack := SMap.put 0 m.stack a.2 b }
      | none => s
    s1.writeRegion p r (o + 1) bs

/-- The stretches of a region range that lie together on one station: (station, stack address, first byte of the range, bytes),
granule by granule. -/
def Part.pieces (p : Part) (r : Nat) : Nat → Nat → Nat → List (Nat × Nat × Nat × Nat)
  | 0, _, _ => []
  | fuel + 1, o, n =>
    if n == 0 then []
    else
      let g := (p.region r).gran
      let k := min n (g - o % g)
      let a := p.place r o
      (a.1, a.2, o, k) :: p.pieces r fuel (o + k) (n - k)

/-- The stations and sectors a range of a region of KIND 0 or 1 touches. -/
def Part.sectors (p : Part) (r o n : Nat) : List (Nat × Nat) :=
  (p.pieces r (n / (p.region r).gran + 2) o n).flatMap fun c =>
    (List.range ((c.2.1 + c.2.2.2 + 31) / 32 - c.2.1 / 32)).map fun i => (c.1, 32 * (c.2.1 / 32 + i))

/-- Is a sector of the range poisoned? -/
def State.poisoned (s : State) (p r o n : Nat) : Bool :=
  ((s.part p).sectors r o n).any fun q => (s.mem q.1).poison.contains q.2

/-- Does a byte of the range lie on a station out of service? -/
def State.unreachable (s : State) (p r o n : Nat) : Bool :=
  ((s.part p).sectors r o n).any fun q => (s.mem q.1).state == 2

/-- After a range was written, its whole sectors leave the poison tables (R143). -/
def State.unpoisonRegion (s : State) (p r o n : Nat) : State :=
  ((s.part p).pieces r (n / ((s.part p).region r).gran + 2) o n).foldl
    (fun s c => let m := s.mem c.1
      s.setMem c.1 { m with poison := unpoison m.poison c.2.1 c.2.2.2 }) s

/-! ## The always-on tick (log entry 3) -/

/-- Does JOB_TIME count in this state (R233)? A freeze counts once it is released (log entry 54). -/
def PState.counts : PState → Bool
  | .running => true
  | .complete => true
  | _ => false

/-- `n` ticks of the always-on clock: TICK, JOB_TIME, and the debug token's validity advance. -/
def State.passTicks (s : State) (n : Nat) : State :=
  let m := s.mgs
  mapParts { s with mgs := { m with tick := if m.phase == .off then 0 else (m.tick + n) % 2 ^ 64
                                    debugTicks := m.debugTicks - n } }
    fun _ q => { q with elapsedTicks := q.elapsedTicks + n * bit q.state.counts
                        quiesceTicks := q.quiesceTicks + n * bit (q.state == .quiescing) }

/-- One tick. -/
def State.tickOnce (s : State) : State := s.passTicks 1

/-- The command of an expiry comes when its limit has passed: the clock stands at `due` or later (log entry 61). -/
def State.passTo (s : State) (due : Nat) : State := s.passTicks (due - s.mgs.tick)

/-- Ticks of a number of microseconds (R299). -/
def usTicks (us : Nat) : Nat := 25 * us

end Sys2Proof.Machine
end

