-- ==== Sys2Proof/Machine/Flags.lean ====
section
/-!
DEFINITION. Flags, arrival counters with their range rule (R106, R107), the sticky exception bits (R41), and hold-point
conditions (R52).
-/
namespace Sys2Proof.Machine

/-! ## Flags and counters -/

def Core.flag (c : Core) (i : Nat) : Bool := c.flags.getLsbD i
def Core.setFlag (c : Core) (i : Nat) (v : Bool) : Core :=
  { c with flags := if v then c.flags ||| (1#48 <<< i) else c.flags &&& ~~~(1#48 <<< i) }

def Core.counter (c : Core) (i : Nat) : Nat := (SMap.look 0#16 c.counters i).toNat
def Core.setCounter (c : Core) (i v : Nat) : Core := { c with counters := SMap.put 0#16 c.counters i (BitVec.ofNat 16 v) }

/-- Set the saturation sticky of a counter. -/
def Core.stick (c : Core) (i : Nat) : Core := { c with stickies := c.stickies ||| (1#16 <<< i) }

/-- Counter + n (R107): the core, and whether the change left the range. -/
def Core.increment (c : Core) (i n : Nat) : Core × Bool :=
  if c.counter i + n ≤ 0xFFFF then (c.setCounter i (c.counter i + n), false) else ((c.setCounter i 0xFFFF).stick i, true)

/-- Counter − n (R107). -/
def Core.decrement (c : Core) (i n : Nat) : Core × Bool :=
  if n ≤ c.counter i then (c.setCounter i (c.counter i - n), false) else ((c.setCounter i 0).stick i, true)

/-- The mode of the partition that holds an array (R108): strict or lenient. -/
def State.strict (s : State) (sa : Nat) : Bool :=
  match (s.arr sa).part with
  | some p => (s.part p).strictMode
  | none => false

/-- Store a core after a counter change; in strict mode a change that left the range is a counter fault (R107). -/
def State.afterCount (s : State) (sa x y : Nat) (r : Core × Bool) (f : FaultInfo) : State :=
  let s1 := s.setCore (coreKey sa x y) r.1
  if r.2 && s.strict sa then faultArr s1 sa f else s1

/-- The record of a counter fault (R107, R228): source `csrc` 0 slot, 1 remote write, 2 stream, 3 doorbell. -/
def counterFault (sa x y counter csrc mport desc slot fireCycle : Nat) : FaultInfo :=
  { kind := 5, cause := 1, sa := sa, x := x, y := y, slot := slot, counter := counter, csrc := csrc, mport := mport,
    desc := desc, fireCycle := fireCycle }

/-- LAND_OP on LAND_FLAG (R96, R104); 63 names no flag. -/
def Core.land (c : Core) (w : W64) : Core :=
  if chanLandFlag w < 48 then c.setFlag (chanLandFlag w) (chanLandOp w) else c

/-! ## FP_STATUS and trap modes (R41, R42) -/

def Core.raise (c : Core) (fl : Flags) : Core := { c with fpStatus := c.fpStatus ||| fl }
def isInvalid (fl : Flags) : Bool := fl.getLsbD 0
def orFlags (fs : List Flags) : Flags := fs.foldl (· ||| ·) 0

/-- The trap mode of the partition that holds an array (R42, R193): 0 off. -/
def State.trapMode (s : State) (sa : Nat) : Nat :=
  match (s.arr sa).part with
  | some p => (s.part p).set.trap
  | none => 0

/-- The notes of the earliest fire cycle among them. -/
def earliest (ns : List TrapNote) : List TrapNote :=
  match ns with
  | [] => []
  | n :: r => let m := r.foldl (fun m o => min m o.cycle) n.cycle
    ns.filter fun o => o.cycle == m

/-- Does event `a` come before event `b` of one array and fire cycle (R42): by core, events of slots before landings, an older slot
before a younger, and of one operation by the position of the element? -/
def TrapNote.before (a b : TrapNote) : Bool :=
  if a.core != b.core then decide (a.core < b.core)
  else if a.landing != b.landing then b.landing
  else if a.issued != b.issued then decide (a.issued < b.issued)
  else decide (a.event.elem < b.event.elem)

/-- The first of the notes. -/
def firstNote : List TrapNote → Option TrapNote
  | [] => none
  | n :: ns => some (ns.foldl (fun m o => if o.before m then o else m) n)

/-- Note trapping events of core (x, y). -/
def State.note (s : State) (sa : Nat) (ns : List TrapNote) : State :=
  let a := s.arr sa
  if ns.isEmpty then s else s.setArr sa { a with notes := earliest (a.notes ++ ns) }

/-- A trapping event at tile element (i, j) of tensor-table entry `t` (R43). -/
def Core.eventAt (c : Core) (t it fireCycle src fmt slot i j : Nat) : TrapEvent :=
  ⟨fireCycle, src, fmt, slot, c.tensId t, c.tensRow t it i, c.tensCol t it j, c.tensBatch t, 16 * i + j⟩

/-- The trapping events of an operation whose slot fired in fire cycle `d` (R42): the array stops at the end of the earliest. -/
def State.trap (s : State) (sa x y d : Nat) (es : List TrapEvent) : State :=
  s.note sa (es.map fun e => ⟨e.fireCycle, 24 * y + x, false, d, e⟩)

/-- The trapping events of a landing partial (R42, R43): they belong to no slot, and arise in the cycle the array has reached. -/
def State.trapLanding (s : State) (sa x y : Nat) (es : List TrapEvent) : State :=
  s.note sa (es.map fun e => ⟨(s.arr sa).fireCycle, 24 * y + x, true, 0, e⟩)

/-! ## Hold points (R52) -/

def holdCombine (w : W64) : Nat := fld w 47 46
structure Term where
  kind : Nat
  sel : Nat
  consume : Bool
  value : Nat
  deriving DecidableEq, Repr

def termA (w : W64) : Term := ⟨fld w 45 43, fld w 42 37, bitOf w 36, fld w 35 20⟩
def termB (w : W64) : Term := ⟨fld w 19 17, fld w 16 11, bitOf w 10, fld w 9 0⟩

/-- Is a term true? -/
def Core.termTrue (c : Core) (t : Term) : Bool :=
  match t.kind with
  | 0 => decide (t.value ≤ c.counter t.sel)
  | 1 => c.flag t.sel
  | 2 => !c.flag t.sel
  | 3 => decide (t.value ≤ (c.ring t.sel).msgs.length)
  | 4 => c.streamLanded t.sel
  | 5 => c.portReady t.sel t.value
  | _ => false

/-- What a term that is true consumes on pass. A COUNT_GE term consumes only what the counter still holds (R52). -/
def Core.termConsume (c : Core) (t : Term) : Core :=
  if t.consume then
    match t.kind with
    | 0 => if t.value ≤ c.counter t.sel then c.setCounter t.sel (c.counter t.sel - t.value) else c
    | 1 => c.setFlag t.sel false
    | _ => c
  else c

/-- Two consuming COUNT_GE terms on one counter. -/
def sameCounter (a b : Term) : Bool := a.kind == 0 && b.kind == 0 && a.consume && b.consume && a.sel == b.sel

/-- Is the hold point of slot word `w` true? -/
def Core.holdTrue (c : Core) (w : W64) : Bool :=
  let a := termA w
  let b := termB w
  match holdCombine w with
  | 0 => c.termTrue a
  | 1 => if sameCounter a b then decide (a.value + b.value ≤ c.counter a.sel) else c.termTrue a && c.termTrue b
  | 2 => c.termTrue a || c.termTrue b
  | _ => false

/-- What the hold point consumes when it passes (R52): A before B, and under A-or-B only the terms that are true. -/
def Core.holdConsume (c : Core) (w : W64) : Core :=
  let a := termA w
  let b := termB w
  match holdCombine w with
  | 0 => c.termConsume a
  | 1 => (c.termConsume a).termConsume b
  | 2 =>
    let c1 := if c.termTrue a then c.termConsume a else c
    if c.termTrue b then c1.termConsume b else c1
  | _ => c

end Sys2Proof.Machine
end

