-- ==== Sys2Proof/Machine/Accum.lean ====
section
/-!
DEFINITION. The accumulator store of a core and the insertion of an MMA's leaves, leaf cycle by leaf cycle (R73-R76).
-/
namespace Sys2Proof.Machine

/-- Output `o`'s column (R75). -/
def Core.column (c : Core) (o : Nat) : Column :=
  ⟨(List.range 16).map fun m => SMap.look 0 c.acc (256 * m + o), SMap.look 0 c.pend o⟩

def Core.setColumn (c : Core) (o : Nat) (v : Column) : Core :=
  { c with acc := v.entry.zipIdx.foldl (fun a p => SMap.put 0 a (256 * p.2 + o) p.1) c.acc
           pend := SMap.put 0 c.pend o v.pend }

def Core.setColumns (c : Core) (vs : List Column) : Core :=
  vs.zipIdx.foldl (fun c p => c.setColumn p.2 p.1) c

/-- Insert one leaf list into a column (R74, R76): the column, the exception bits, and for each leaf whether a node raised
INVALID. -/
def insertLeaves (col : Column) : List W32 → Column × Flags × List Bool
  | [] => (col, 0, [])
  | v :: vs =>
    let r := insertNode col v 0 16
    let t := insertLeaves r.1 vs
    (t.1, r.2 ||| t.2.1, isInvalid r.2 :: t.2.2)

/-- Leaves of an MMA that are inserted before fire cycle `d`. -/
def MmaPend.before (m : MmaPend) (d : Nat) : Nat := (m.cycles.takeWhile fun t => decide (t < d)).length

/-- What is left of an MMA when its next `n` leaves are in. -/
def MmaPend.drop (m : MmaPend) (n : Nat) : MmaPend :=
  { m with start := false, leaves := m.leaves.map (List.drop n), cycles := m.cycles.drop n }

/-- The next `n` leaves of the oldest MMA enter the store (R48, R74-R76); START clears every pending map first (R73). -/
def State.insertMma (s : State) (sa x y : Nat) (m : MmaPend) (rest : List MmaPend) (n : Nat) : State :=
  let k := coreKey sa x y
  let c := s.core k
  let cols := (List.range 256).map fun o => let v := c.column o
    if m.start then { v with pend := 0 } else v
  let rs := (cols.zip m.leaves).map fun q => insertLeaves q.1 (q.2.take n)
  let left := if n < m.cycles.length then m.drop n :: rest else rest
  let c1 := (Core.setColumns { c with mmaPend := left } (rs.map Prod.fst)).raise (orFlags (rs.map fun r => r.2.1))
  let s1 := s.setCore k c1
  if s.trapMode sa == 0 then s1
  else
    let es := (positions.zip rs).flatMap fun q =>
      ((q.2.2.2.zip m.cycles).filter (·.1)).map fun e => c.eventAt m.tens m.it e.2 1 0 m.slot q.1.1 q.1.2
    s1.trap sa x y m.issued es

/-- The leaves that MMAs of core (x, y) insert before fire cycle `d` enter the store. -/
def State.insertBefore (s : State) (sa x y d : Nat) : List MmaPend → State
  | [] => s
  | m :: ms =>
    let n := m.before d
    if n == 0 then s
    else
      let s1 := s.insertMma sa x y m ms n
      if n < m.cycles.length then s1 else s1.insertBefore sa x y d ms

end Sys2Proof.Machine
end

