-- ==== Sys2Proof/Machine/Slots.lean ====
section
/-!
DEFINITION. How a due slot fires: the order of an array's slots (R45, R47, R53), the retirement of ring messages (R103), and
the shared checks of a slot operation (R51, R93).
-/
namespace Sys2Proof.Machine

/-! ## Who feeds a ring (R96, R105, R131) -/

/-- What a channel or a reduction point delivers to: the port of a core, or a reduction point's place. -/
inductive Feeder where
  | port (sa x y port : Nat)
  | redSlot (site slot : Nat)
  | staSlot (ms slot : Nat)
  deriving DecidableEq, Repr

/-- Fields of route records (R199). -/
def RouteRec.kind (r : RouteRec) : Nat := fld r.w0 3 0
def RouteRec.id (r : RouteRec) : Nat := fld r.w0 31 16
def RouteRec.saRel (r : RouteRec) : Nat := fld r.w1 10 0
def RouteRec.x (r : RouteRec) : Nat := fld r.w1 15 11
def RouteRec.y (r : RouteRec) : Nat := fld r.w1 20 16
def RouteRec.port (r : RouteRec) : Nat := fld r.w1 23 21
def RouteRec.desc (r : RouteRec) : Nat := fld r.w1 26 21
def RouteRec.issuer (r : RouteRec) : Bool := bitOf r.w1 27
def RouteRec.atStation (r : RouteRec) : Bool := bitOf r.w1 11
def RouteRec.station (r : RouteRec) : Nat := fld r.w1 17 12
def RouteRec.level (r : RouteRec) : Nat := fld r.w1 22 18
def RouteRec.jout (r : RouteRec) : Nat := fld r.w1 46 23
def RouteRec.lenM1 (r : RouteRec) : Nat := fld r.w1 54 47
def RouteRec.toRed (r : RouteRec) : Bool := bitOf r.w2 0
def RouteRec.destSa (r : RouteRec) : Nat := fld r.w2 11 1
def RouteRec.destX (r : RouteRec) : Nat := fld r.w2 16 12
def RouteRec.destY (r : RouteRec) : Nat := fld r.w2 21 17
def RouteRec.destRed (r : RouteRec) : Nat := fld r.w2 37 22
def RouteRec.destRing (r : RouteRec) : Nat := fld r.w2 40 38

/-- Service array at a relative number (R196). -/
def Part.saAt (q : Part) (rel : Nat) : Nat := nth 0 q.sas rel
/-- Relative number of a service array. -/
def Part.relOf (q : Part) (sa : Nat) : Nat := q.sas.findIdx (· == sa)

/-- The reduction point with an ID: its record. -/
def Part.redPoint (q : Part) (id : Nat) : Option RouteRec := q.routes.find? fun r => r.kind == 3 && r.id == id

/-- The place that commit gave a reduction point (R130, R133). -/
def Part.redPlace (q : Part) (id : Nat) : Option Feeder :=
  (q.redAt.find? fun e => e.1 == id).map fun e => if e.2.1 then .staSlot e.2.2.1 e.2.2.2 else .redSlot e.2.2.1 e.2.2.2

/-- Who sends into ring `ring` of core (sa, x, y). -/
def State.feeder (s : State) (p sa x y ring : Nat) : Option Feeder :=
  let q := s.part p
  let here := fun r : RouteRec => !r.toRed && q.saAt r.destSa == sa && r.destX == x && r.destY == y
  let chan := q.routes.find? fun r =>
    r.kind == 1 && here r
      && (let w := (s.core (coreKey (q.saAt r.saRel) r.x r.y)).chanW0 r.port
          chanEnable w && chanKind w != 2 && chanRing w == ring)
  match chan with
  | some r => some (.port (q.saAt r.saRel) r.x r.y r.port)
  | none =>
    match q.routes.find? fun r => r.kind == 3 && here r && r.destRing == ring with
    | some r => q.redPlace r.id
    | none => none

/-- Return `n` 8-byte units of credit to a feeder (R105, R131): to a port as a token on its way, to a slot at once. -/
def State.credit (s : State) (p : Nat) (f : Option Feeder) (n : Nat) : State :=
  match f with
  | none => s
  | some (.port sa x y port) => s.injectFor p (.core sa x y) 0 (.credit port n)
  | some (.redSlot site slot) =>
    let r := s.router site
    let b := SMap.look RedBuf.reset r.bufs slot
    s.setRouter site { r with bufs := SMap.put RedBuf.reset r.bufs slot { b with credit := b.credit + n } }
  | some (.staSlot ms slot) =>
    let m := s.mem ms
    let b := SMap.look RedBuf.reset m.bufs slot
    s.setMem ms { m with bufs := SMap.put RedBuf.reset m.bufs slot { b with credit := b.credit + n } }

/-! ## Retirement (R103) -/

/-- The ring after its oldest message retires, and the units freed: the message's, and those of a wrap marker that follows. -/
def Ring.retire (r : Ring) (size : Nat) : Ring × Nat :=
  match r.msgs with
  | [] => (r, 0)
  | m :: rest =>
    match rest with
    | [] => ({ r with rp := (r.rp + m.units) % size, msgs := [] }, m.units)
    | n :: more => ({ r with rp := (r.rp + m.units + n.skipped) % size, msgs := { n with skipped := 0 } :: more },
        m.units + n.skipped)

/-- Retire the oldest message of a ring of core `k` and return its credit. -/
def State.retireMsg (s : State) (k ring : Nat) : State :=
  let c := s.core k
  let r := (c.ring ring).retire (c.ringSize ring)
  let s1 := s.setCore k (c.setRing ring r.1)
  match (s.arr (keyArr k)).part with
  | some p => s1.credit p (s1.feeder p (keyArr k) (keyX k) (keyY k) ring) (2 * r.2)
  | none => s1

/-- Retire what operations that ended before fire cycle `d` have read to the end. -/
def State.settleCore (s : State) (d k : Nat) : State :=
  let c := s.core k
  let due := c.retires.filter fun r => decide (r.1 < d)
  if due.isEmpty then s
  else
    let s1 := s.setCore k { c with retires := c.retires.filter fun r => !decide (r.1 < d) }
    due.foldl
      (fun s r =>
        match ((s.core k).ring r.2.1).msgs with
        | m :: _ => if m.unit == r.2.2 then s.retireMsg k r.2.1 else s
        | [] => s)
      s1

/-- Leaves that a core of the array inserts before fire cycle `d` enter its store (R74). -/
def State.settleStore (s : State) (d k : Nat) : State :=
  s.insertBefore (keyArr k) (keyX k) (keyY k) d (s.core k).mmaPend

/-- What operations under way do in the cycles before `d`. -/
def State.settle (s : State) (sa d : Nat) : State :=
  let mine := fun (s : State) (busy : Core → Bool) => (s.cores.filter fun kc => keyArr kc.1 == sa && busy kc.2).map (·.1)
  let s1 := (mine s fun c => !c.mmaPend.isEmpty).foldl (fun s k => s.settleStore d k) s
  (mine s1 fun c => !c.retires.isEmpty).foldl (fun s k => s.settleCore d k) s1

/-- The array fires the cycles up to `d` (R45). -/
def State.fireTo (s : State) (sa d : Nat) : State :=
  let a := s.arr sa
  if a.fireCycle < d then (s.setArr sa { a with fireCycle := d }).stir sa else s

/-- The array has fired every cycle before `d`, and fires `d` (R45). -/
def State.reach (s : State) (sa d : Nat) : State := (s.settle sa d).fireTo sa d

/-! ## Which slot fires (R45, R47, R53) -/

/-- A steering entry outlives its SKEW_MAX by fire cycle `d`. -/
def Core.skewDue (c : Core) (d : Nat) : Bool :=
  (List.range 2).any fun u =>
    match c.skewAt u with
    | some e => decide (e ≤ d)
    | none => false

/-- A result of an older operation, or a steering fault, is due by fire cycle `d`. -/
def Core.resultDue (c : Core) (d : Nat) : Bool :=
  c.mmaPend.any (fun m => decide (m.due ≤ d)) || c.vecPend.any (fun v => decide (v.due ≤ d)) || c.skewDue d

/-- The array fires cycle `d`: released, and not frozen; a fault stops it at the end of the cycle it arises in (R60). A trap is
taken when no slot of its cycle is left to fire (R42). -/
def Arr.runs (a : Arr) (d : Nat) : Bool :=
  a.released &&
    match a.freeze with
    | none => true
    | some .fault => d == a.fireCycle
    | _ => false

/-- Nothing of the array is left to do in fire cycles up to `d`: no slot is due by then, and no result or steering fault. -/
def State.doneTo (s : State) (sa d : Nat) : Bool :=
  s.cores.all fun kc => keyArr kc.1 != sa || (!kc.2.resultDue d && (kc.2.halted || decide (d < kc.2.due)))

/-- The array stops on the first of its noted events, if any, which is recorded. -/
def State.takeTrap (s : State) (sa : Nat) : State :=
  let a := s.arr sa
  match firstNote a.notes with
  | none => s
  | some n =>
    trapPart (s.setArr sa { a with notes := [], fireCycle := max a.fireCycle n.cycle }) sa (n.core % 24) (n.core / 24) n.event
      (decide (1 < a.notes.length))

/-- The trap (R42): once the array has finished the fire cycle of its earliest trapping event, the leaves inserted up to then among
it, it stops, and the first event is recorded. A fault that stopped the array in that cycle does not take the trap away (R229). -/
def State.latch (s : State) (sa : Nat) : State :=
  let a := s.arr sa
  match firstNote a.notes with
  | none => s
  | some n =>
    if (a.freeze.isNone && s.doneTo sa n.cycle) || (a.freeze == some .fault && decide (n.cycle ≤ a.fireCycle)) then
      (s.settle sa (n.cycle + 1)).takeTrap sa
    else s

/-- The array fires every cycle before `d`, and stops before it on a trap of an earlier cycle. -/
def State.pass (s : State) (sa d : Nat) : State := (s.reach sa d).latch sa

/-- The core does not keep the array from firing cycle `d`: no slot of it is due before, and no hold point in `d` (R53). -/
def Core.letsFire (c : Core) (d : Nat) : Bool := c.halted || decide (d < c.due) || (c.due == d && slotClass c.word != 1)

/-- The array can fire cycle `d` as far as its cores go: nothing older is left in any of them, and no hold point is due in `d`: while
one is, the cycle is held, and no result and no age of that cycle comes (R53, R54, R59). -/
def State.reachable (s : State) (sa d : Nat) : Bool :=
  s.cores.all fun kc => keyArr kc.1 != sa || ((d == 0 || !kc.2.resultDue (d - 1)) && kc.2.letsFire d)

/-- No core of the array has an older slot, result or hold point than core `k`'s slot due at `d`; cores in increasing y, then
x, within a cycle (R42). -/
def State.firstInLine (s : State) (sa k d : Nat) : Bool :=
  s.cores.all fun kc =>
    keyArr kc.1 != sa
      || (!kc.2.resultDue d
        && (kc.2.halted || decide (d < kc.2.due)
          || (kc.2.due == d && decide (k ≤ kc.1) && slotClass kc.2.word != 1)))

/-- The slot of core `k` is due, is of class `cls` and operation `op`, and fires next in its array. -/
def State.slotReady (s : State) (sa k cls op : Nat) : Bool :=
  let c := s.core k
  (s.arr sa).runs c.due && !c.halted && slotClass c.word == cls && slotOp c.word == op && s.firstInLine sa k c.due

/-- Fire the slot of core (x, y) when it is ready: the operation sees the array in the slot's fire cycle. -/
def State.withSlot (s : State) (sa x y cls op : Nat) (f : State → Core → W64 → Nat → State) : State :=
  let k := coreKey sa x y
  if s.slotReady sa k cls op then
    let d := (s.core k).due
    let s1 := s.pass sa d
    if (s1.arr sa).runs d then (f s1 (s1.core k) (s1.core k).word d).latch sa else s1
  else s

/-- A slot that changes only its core. -/
def State.fire (s : State) (sa x y d : Nat) (c : Core) : State := s.setCore (coreKey sa x y) (c.advance d 0)

/-- A slot that raises a schedule-violation fault has fired, without its effect (R60). -/
def slotFault (s : State) (sa x y : Nat) (c : Core) (cause d : Nat) : State :=
  schedFault (s.fire sa x y d c) sa x y c.slot cause d

/-! ## Checks of a slot operation (R51, R81, R93) -/

/-- Tile registers that are busy in fire cycle `d`. -/
def Core.tileBusy (c : Core) (d : Nat) (ts : List Nat) : Bool := ts.any fun t => decide (d < SMap.look 0 c.tileFree t)
def Core.holdTiles (c : Core) (till : Nat) (ts : List Nat) : Core :=
  { c with tileFree := ts.foldl (fun m t => SMap.put 0 m t (max till (SMap.look 0 m t))) c.tileFree }

/-- Claim banks for an operation issued in `d`: none when another operation has one (R93); its own accesses do not conflict. -/
def Core.claimAll (c : Core) (d : Nat) (ks : List Claim) : Option Core :=
  let live := liveClaims c.claims d
  if live.any fun o => ks.any fun k => o.clash k || k.clash o then none else some { c with claims := ks ++ live }

/-- Claim the banks of `units`, `per` of them a cycle from `d`. -/
def Core.claim (c : Core) (d per : Nat) (units : List Nat) : Option Core := c.claimAll d [⟨d, per, units⟩]

/-- Note that an operation that ends in fire cycle `last` reads the oldest message of a ring to its end. -/
def Core.noteRetire (c : Core) (last : Nat) (ring : Option Nat) : Core :=
  match ring with
  | none => c
  | some r =>
    match (c.ring r).msgs with
    | m :: _ => { c with retires := c.retires ++ [(last, r, m.unit)] }
    | [] => c

/-- The bank of a unit of core (x, y) has the row's entry already, or a spare row and a soft entry free. -/
def State.rowFits (s : State) (sa x y unit : Nat) : Bool :=
  let b := 32 * s.physical sa x y + 2 * bankOf unit
  let have1 := SMap.look 0 (s.arr sa).remap b
  let have2 := SMap.look 0 (s.arr sa).remap (b + 1)
  have1 == unit / 16 + 1 || have2 == unit / 16 + 1 || ((have1 == 0 || have2 == 0) && decide (s.mgs.softEntries < 65536))

/-- A soft entry for the row of a unit of core (x, y) (R95). A third entry of a bank maps the core out (R61), and with a full soft
map the site leaves service (R318). The entry acts from the next cast-on on; it changes no address, timing or image (R94). -/
def State.softRow (s : State) (sa x y unit : Nat) : State :=
  let a := s.arr sa
  let b := 32 * s.physical sa x y + 2 * bankOf unit
  let row := unit / 16 + 1
  let have1 := SMap.look 0 a.remap b
  let have2 := SMap.look 0 a.remap (b + 1)
  let soft := fun (k : Nat) =>
    { s.setArr sa { a with remap := SMap.put 0 a.remap k row } with
      tally := { s.tally with scratchRowsMapped := sat32 s.tally.scratchRowsMapped 1 } }.addSoft
  if have1 == row || have2 == row then s
  else if 65536 ≤ s.mgs.softEntries then s.retireSite sa
  else if have1 == 0 then soft b
  else if have2 == 0 then soft (b + 1)
  else s.mapOut sa (24 * y + x)

/-- An uncorrectable error in a scratchpad read (R94, R95), in unit `unit`: the count, the scratchpad fault, and the soft entry for its
row. -/
def State.scratchUe (s : State) (sa x y slot d unit : Nat) : State :=
  let s1 := { s with tally := { s.tally with scratchUe := sat32 s.tally.scratchUe 1 } }
  (faultArr s1 sa { kind := 9, sa := sa, x := x, y := y, slot := slot, fireCycle := d }).softRow sa x y unit

/-- A corrected error is counted against its row; above SCRATCH_CE_LIMIT within SCRATCH_CE_WINDOW seconds the row gets a soft entry
(R94, R95). -/
def State.scratchCe (s : State) (sa x y : Nat) (unit : Option Nat) : State :=
  match unit with
  | none => s
  | some u =>
    let a := s.arr sa
    let row := 4096 * s.physical sa x y + 256 * bankOf u + u / 16
    let ces := (a.rowCe.filter fun e => decide (s.mgs.tick < e.2 + 25000000 * s.tune.scratchCeWindow)) ++ [(row, s.mgs.tick)]
    let s1 := s.setArr sa { a with rowCe := ces }
    if s.tune.scratchCeLimit < (ces.filter fun e => e.1 == row).length then s1.softRow sa x y u else s1

/-- An elastic read of the scratchpad, of `us`, and what it meets (R94): what follows from it, or a fault of the core's next slot. -/
def State.portRead (s : State) (sa x y : Nat) (us : List Nat) (ecc : ReadEcc) (f : State → State) : State :=
  match eccFails ecc us with
  | some u => s.scratchUe sa x y (s.core (coreKey sa x y)).slot (s.arr sa).fireCycle u
  | none => (f s).scratchCe sa x y (eccFixes ecc us)

/-- What a list of cores, by key, reads meets: nothing where it names none. -/
def eccOf (l : List (Nat × ReadEcc)) (k : Nat) : ReadEcc := ((l.find? fun e => e.1 == k).map (·.2)).getD .clean

end Sys2Proof.Machine
end

