-- ==== Sys2Proof/Machine/Ctrl.lean ====
section
/-!
DEFINITION. The CTRL, HOLD and SYNC slots (R48, R49, R52, R53, R106, R107).
-/
namespace Sys2Proof.Machine

/-- NOP (R48): the slot fires. -/
def execNop (sa x y : Nat) (s : State) : Answer :=
  guardUnit (coreOk sa x y) (s.withSlot sa x y 0 0 fun s c _ d => s.fire sa x y d c)

/-- WAIT (R48): COUNT extra fire cycles before the next slot's DELTA. -/
def execWait (sa x y : Nat) (s : State) : Answer :=
  guardUnit (coreOk sa x y)
    (s.withSlot sa x y 0 1 fun s c w d => s.setCore (coreKey sa x y) (c.advance d (fld w 23 0)))

/-- LOOP (R49): opens the body from the next slot to END; COUNT_M1 iterations follow the first. -/
def Core.openLoop (c : Core) (w : W64) (d : Nat) : Core :=
  { c with slot := (c.slot + 1) % 1024, lastFire := d, extra := 0,
           loops := ⟨c.slot + 1, fld w 47 38, fld w 37 22, 0⟩ :: c.loops }

def execLoop (sa x y : Nat) (s : State) : Answer :=
  guardUnit (coreOk sa x y)
    (s.withSlot sa x y 0 2 fun s c w d => s.setCore (coreKey sa x y) (c.openLoop w d))

/-- HALT (R49): the sequencer stops. The array fires on until every core has halted and every unit has finished. -/
def State.haltCore (s : State) (k d : Nat) : State :=
  s.setCore k { s.core k with halted := true, lastFire := d, extra := 0 }

def execHalt (sa x y : Nat) (s : State) : Answer :=
  guardUnit (coreOk sa x y) (s.withSlot sa x y 0 3 fun s _ _ d => s.haltCore (coreKey sa x y) d)

/-- An array whose cores have all halted, and that waits for no result, fires on to the cycle in which it comes to rest (R49), unless
a steering entry outlives its SKEW_MAX before. -/
def State.runOut (s : State) (sa : Nat) : State :=
  let e := s.restAt sa
  let a := s.arr sa
  if s.allHalted sa && a.runs e && decide (a.fireCycle < e) && s.doneTo sa e then
    let s1 := s.pass sa (e + 1)
    if (s1.arr sa).freeze.isSome then s1 else s1.setArr sa { s1.arr sa with fireCycle := e }
  else s

/-- The arrays of a list that only wait to come to rest do so. -/
def State.runOuts (s : State) (sas : List Nat) : State := sas.foldl State.runOut s

/-! ## HOLD -/

/-- Cores of the array that still run. -/
def State.runningCores (s : State) (sa : Nat) : SMap Core := (s.coresOf [sa]).filter fun kc => !kc.2.halted

/-- Fire cycle of the array's next slots, 0 without any. -/
def State.nextDue (s : State) (sa : Nat) : Nat :=
  match s.runningCores sa with
  | [] => 0
  | kc :: r => minOf kc.2.due (r.map fun x => x.2.due)

/-- The cores whose hold point is due in fire cycle `d`. -/
def State.dueHolds (s : State) (sa d : Nat) : SMap Core :=
  (s.runningCores sa).filter fun kc => kc.2.due == d && slotClass kc.2.word == 1 && slotOp kc.2.word == 0

/-- The array can evaluate its hold points due at `d`: it runs, and nothing of the cycles before is still to come. Results due in `d`
itself come when the cycle fires (R53, R54). -/
def State.holdReady (s : State) (sa d : Nat) : Bool :=
  (s.arr sa).runs d && !(s.dueHolds sa d).isEmpty
    && s.cores.all fun kc => keyArr kc.1 != sa || d == 0 || !kc.2.resultDue (d - 1)

/-- HOLD (R52, R53): the cycles before it have fired. If every due hold point of the array is true, all pass and consume;
otherwise the cycle is held in all cores. -/
def State.holdCycle (s : State) (sa d : Nat) : State :=
  let s1 := ((s.settle sa d).fireTo sa (d - 1)).latch sa
  let hs := s1.dueHolds sa d
  if (s1.arr sa).runs d && hs.all fun kc => kc.2.holdTrue kc.2.word then
    ((hs.foldl (fun s kc => let c := s.core kc.1
      s.setCore kc.1 ((c.holdConsume c.word).advance d 0)) s1).fireTo sa d).latch sa
  else s1

def execHold (sa : Nat) (s : State) : Answer :=
  guardUnit (saOk sa)
    (let d := s.nextDue sa
     if s.holdReady sa d then s.holdCycle sa d else s)

/-! ## SYNC (R106) -/

def syncSel (w : W64) : Nat := fld w 47 42
def syncValue (w : W64) : Nat := fld w 41 26

/-- FSET: flag = 1. -/
def execFset (sa x y : Nat) (s : State) : Answer :=
  guardUnit (coreOk sa x y)
    (s.withSlot sa x y 5 0 fun s c w d => s.fire sa x y d (c.setFlag (syncSel w) true))

/-- FCLR: flag = 0. -/
def execFclr (sa x y : Nat) (s : State) : Answer :=
  guardUnit (coreOk sa x y)
    (s.withSlot sa x y 5 1 fun s c w d => s.fire sa x y d (c.setFlag (syncSel w) false))

/-- CINC: counter + VALUE (R107). -/
def execCinc (sa x y : Nat) (s : State) : Answer :=
  guardUnit (coreOk sa x y)
    (s.withSlot sa x y 5 2 fun s c w d =>
      let r := c.increment (syncSel w) (syncValue w)
      s.afterCount sa x y (r.1.advance d 0, r.2) (counterFault sa x y (syncSel w) 0 0 0 c.slot d))

/-- CDEC: counter − VALUE (R107). -/
def execCdec (sa x y : Nat) (s : State) : Answer :=
  guardUnit (coreOk sa x y)
    (s.withSlot sa x y 5 3 fun s c w d =>
      let r := c.decrement (syncSel w) (syncValue w)
      s.afterCount sa x y (r.1.advance d 0, r.2) (counterFault sa x y (syncSel w) 0 0 0 c.slot d))

/-- CCLR: counter = 0; its sticky is kept. -/
def execCclr (sa x y : Nat) (s : State) : Answer :=
  guardUnit (coreOk sa x y)
    (s.withSlot sa x y 5 4 fun s c w d => s.fire sa x y d (c.setCounter (syncSel w) 0))

end Sys2Proof.Machine
end

