-- ==== Sys2Proof/Machine/Codes.lean ====
section
/-!
DEFINITION. The published codes the spec names: the CRC-64 of R186, the RS(36,32) outer code of R140 and R141, and
SHA-384 (R195), log entry 13.
-/
namespace Sys2Proof.Machine

/-! ## CRC-64 (R186): ECMA-182, reflected, initial value and final XOR all ones -/

/-- The polynomial 0x42F0_E1EB_A9EA_3693 with its bits reversed. -/
def crcPoly : Nat := 0xC96C5795D7870F42

def crcBit : Nat → Nat → Nat
  | 0, c => c
  | n + 1, c => crcBit n (if c % 2 == 1 then (c / 2) ^^^ crcPoly else c / 2)

def crcBytes : List Byte → Nat → Nat
  | [], c => c
  | b :: bs, c => crcBytes bs (crcBit 8 (c ^^^ b.toNat))

/-- The check code of R186. -/
def crc64 (bs : List Byte) : W64 :=
  BitVec.ofNat 64 (crcBytes bs 0xFFFFFFFFFFFFFFFF ^^^ 0xFFFFFFFFFFFFFFFF)

/-! ## RS(36,32) over GF(2^8) (R140, R141) -/

/-- Multiplication in GF(2^8) modulo x^8 + x^4 + x^3 + x^2 + 1. -/
def gfMulN : Nat → Nat → Nat → Nat → Nat
  | 0, _, _, acc => acc
  | n + 1, a, b, acc =>
    let a2 := if a ≥ 128 then ((2 * a) % 256) ^^^ 0x1D else 2 * a
    gfMulN n a2 (b / 2) (if b % 2 == 1 then acc ^^^ a else acc)

def gfMul (a b : Nat) : Nat := gfMulN 8 a b 0

def gfPow (a : Nat) : Nat → Nat
  | 0 => 1
  | n + 1 => gfMul a (gfPow a n)

/-- The inverse a^254 (0 for 0). -/
def gfInv (a : Nat) : Nat := gfPow a 254

/-- α^n with α = 2. -/
def gfAlpha (n : Nat) : Nat := gfPow 2 (n % 255)

/-- g(x) = (x − α^0)(x − α^1)(x − α^2)(x − α^3), without its leading 1, from x^3 down to x^0. -/
def rsGen : Nat × Nat × Nat × Nat := (15, 54, 120, 64)

/-- One step of the division: the remainder (r3, r2, r1, r0) after the next data symbol. -/
def rsStep (r : Nat × Nat × Nat × Nat) (d : Nat) : Nat × Nat × Nat × Nat :=
  let f := d ^^^ r.1
  (r.2.1 ^^^ gfMul f rsGen.1, r.2.2.1 ^^^ gfMul f rsGen.2.1, r.2.2.2 ^^^ gfMul f rsGen.2.2.1, gfMul f rsGen.2.2.2)

/-- The four check symbols of a 32-byte sector (R140), the coefficient of x^0 first as the metadata word stores them. -/
def rsCheck (data : List Byte) : List Byte :=
  let r := data.foldl (fun r b => rsStep r b.toNat) (0, 0, 0, 0)
  [BitVec.ofNat 8 r.2.2.2, BitVec.ofNat 8 r.2.2.1, BitVec.ofNat 8 r.2.1, BitVec.ofNat 8 r.1]

/-- The exponent of x that symbol `pos` of a read carries: data byte j is the coefficient of x^(35 − j), check symbol
32 + k that of x^k. -/
def rsExp (pos : Nat) : Nat := if pos < 32 then 35 - pos else pos - 32

/-- Syndrome s: the received word at α^s. -/
def rsSyndrome (word : List Byte) (s : Nat) : Nat :=
  ((List.range 36).map fun p => gfMul (nth 0 word p).toNat (gfAlpha (s * rsExp p))).foldl (· ^^^ ·) 0

/-- What the decoder answers (R141): the data and whether it corrected, or uncorrectable. -/
inductive RsResult where
  | good (data : List Byte) (corrected : Bool)
  | uncorrectable
  deriving DecidableEq, Repr

/-- XOR a value into symbol `pos`. -/
def rsFix (word : List Byte) (pos v : Nat) : List Byte := word.set pos (nth 0 word pos ^^^ BitVec.ofNat 8 v)

/-- Does the word have four zero syndromes? -/
def rsIsCode (word : List Byte) : Bool := (List.range 4).all fun s => rsSyndrome word s == 0

/-- The four syndromes of a word. -/
def rsSyndromes (word : List Byte) : Nat × Nat × Nat × Nat :=
  (rsSyndrome word 0, rsSyndrome word 1, rsSyndrome word 2, rsSyndrome word 3)

/-- Is an error of value S0 at symbol `p` what the syndromes say? -/
def rsOneAt (s : Nat × Nat × Nat × Nat) (p : Nat) : Bool :=
  let x := gfAlpha (rsExp p)
  s.2.1 == gfMul s.1 x && s.2.2.1 == gfMul s.2.1 x && s.2.2.2 == gfMul s.2.2.1 x

/-- The word with one symbol corrected, if the syndromes are those of one error. -/
def rsSingle (word : List Byte) (s : Nat × Nat × Nat × Nat) : Option (List Byte) :=
  ((List.range 36).find? (rsOneAt s)).map fun p => rsFix word p s.1

/-- The value at symbol `p` of an error in symbols p and q: (S1 + S0·Xq)/(Xp + Xq). -/
def rsValue (s : Nat × Nat × Nat × Nat) (p q : Nat) : Nat :=
  let xp := gfAlpha (rsExp p)
  let xq := gfAlpha (rsExp q)
  gfMul (s.2.1 ^^^ gfMul s.1 xq) (gfInv (xp ^^^ xq))

/-- Are errors in symbols p and q what the syndromes say? -/
def rsTwoAt (s : Nat × Nat × Nat × Nat) (pq : Nat × Nat) : Bool :=
  let xp := gfAlpha (rsExp pq.1)
  let xq := gfAlpha (rsExp pq.2)
  let vp := rsValue s pq.1 pq.2
  let vq := vp ^^^ s.1
  s.2.2.1 == gfMul vp (gfMul xp xp) ^^^ gfMul vq (gfMul xq xq)
    && s.2.2.2 == gfMul vp (gfMul xp (gfMul xp xp)) ^^^ gfMul vq (gfMul xq (gfMul xq xq))

/-- The pairs of symbols (p, q) with q below p. -/
def rsPairs : List (Nat × Nat) :=
  (List.range 36).flatMap fun p => (List.range p).map fun q => (p, q)

/-- The word with two symbols corrected, if the syndromes are those of two errors. -/
def rsDouble (word : List Byte) (s : Nat × Nat × Nat × Nat) : Option (List Byte) :=
  (rsPairs.find? (rsTwoAt s)).map fun pq =>
    rsFix (rsFix word pq.1 (rsValue s pq.1 pq.2)) pq.2 (rsValue s pq.1 pq.2 ^^^ s.1)

/-- Decode 36 symbols (R141): any two erroneous symbols are corrected; three or more are uncorrectable unless the word lies
within two symbols of another codeword. -/
def rsDecode (word : List Byte) : RsResult :=
  if rsIsCode word then .good (word.take 32) false
  else match rsSingle word (rsSyndromes word) with
    | some w => .good (w.take 32) true
    | none => match rsDouble word (rsSyndromes word) with
      | some w => .good (w.take 32) true
      | none => .uncorrectable

/-! ## SHA-384 (FIPS 180-4), named by R195, R257, R266 -/

def shaK0 : List Nat :=
  [0x428A2F98D728AE22, 0x7137449123EF65CD, 0xB5C0FBCFEC4D3B2F, 0xE9B5DBA58189DBBC,
   0x3956C25BF348B538, 0x59F111F1B605D019, 0x923F82A4AF194F9B, 0xAB1C5ED5DA6D8118,
   0xD807AA98A3030242, 0x12835B0145706FBE, 0x243185BE4EE4B28C, 0x550C7DC3D5FFB4E2,
   0x72BE5D74F27B896F, 0x80DEB1FE3B1696B1, 0x9BDC06A725C71235, 0xC19BF174CF692694]

def shaK1 : List Nat :=
  [0xE49B69C19EF14AD2, 0xEFBE4786384F25E3, 0x0FC19DC68B8CD5B5, 0x240CA1CC77AC9C65,
   0x2DE92C6F592B0275, 0x4A7484AA6EA6E483, 0x5CB0A9DCBD41FBD4, 0x76F988DA831153B5,
   0x983E5152EE66DFAB, 0xA831C66D2DB43210, 0xB00327C898FB213F, 0xBF597FC7BEEF0EE4,
   0xC6E00BF33DA88FC2, 0xD5A79147930AA725, 0x06CA6351E003826F, 0x142929670A0E6E70]

def shaK2 : List Nat :=
  [0x27B70A8546D22FFC, 0x2E1B21385C26C926, 0x4D2C6DFC5AC42AED, 0x53380D139D95B3DF,
   0x650A73548BAF63DE, 0x766A0ABB3C77B2A8, 0x81C2C92E47EDAEE6, 0x92722C851482353B,
   0xA2BFE8A14CF10364, 0xA81A664BBC423001, 0xC24B8B70D0F89791, 0xC76C51A30654BE30,
   0xD192E819D6EF5218, 0xD69906245565A910, 0xF40E35855771202A, 0x106AA07032BBD1B8]

def shaK3 : List Nat :=
  [0x19A4C116B8D2D0C8, 0x1E376C085141AB53, 0x2748774CDF8EEB99, 0x34B0BCB5E19B48A8,
   0x391C0CB3C5C95A63, 0x4ED8AA4AE3418ACB, 0x5B9CCA4F7763E373, 0x682E6FF3D6B2B8A3,
   0x748F82EE5DEFB2FC, 0x78A5636F43172F60, 0x84C87814A1F0AB72, 0x8CC702081A6439EC,
   0x90BEFFFA23631E28, 0xA4506CEBDE82BDE9, 0xBEF9A3F7B2C67915, 0xC67178F2E372532B]

def shaK4 : List Nat :=
  [0xCA273ECEEA26619C, 0xD186B8C721C0C207, 0xEADA7DD6CDE0EB1E, 0xF57D4F7FEE6ED178,
   0x06F067AA72176FBA, 0x0A637DC5A2C898A6, 0x113F9804BEF90DAE, 0x1B710B35131C471B,
   0x28DB77F523047D84, 0x32CAAB7B40C72493, 0x3C9EBE0A15C9BEBC, 0x431D67C49C100D4C,
   0x4CC5D4BECB3E42B6, 0x597F299CFC657E2A, 0x5FCB6FAB3AD6FAEC, 0x6C44198C4A475817]

/-- The 80 round constants. -/
def shaK : List Nat := shaK0 ++ shaK1 ++ shaK2 ++ shaK3 ++ shaK4

def sha0 : List Nat :=
  [0xCBBB9D5DC1059ED8, 0x629A292A367CD507, 0x9159015A3070DD17, 0x152FECD8F70E5939,
   0x67332667FFC00B31, 0x8EB44A8768581511, 0xDB0C2E0D64F98FA7, 0x47B5481DBEFA4FA4]

def rotr64 (x n : Nat) : Nat := (x >>> n) ||| ((x <<< (64 - n)) % 2 ^ 64)

/-- One round: (a, ..., h) with round constant plus schedule word `kw`. -/
def shaRound (v : List Nat) (kw : Nat) : List Nat :=
  match v with
  | [a, b, c, d, e, f, g, h] =>
    let s1 := rotr64 e 14 ^^^ rotr64 e 18 ^^^ rotr64 e 41
    let ch := (e &&& f) ^^^ ((2 ^ 64 - 1 - e) &&& g)
    let t1 := h + s1 + ch + kw
    let s0 := rotr64 a 28 ^^^ rotr64 a 34 ^^^ rotr64 a 39
    let maj := (a &&& b) ^^^ (a &&& c) ^^^ (b &&& c)
    [(t1 + s0 + maj) % 2 ^ 64, a, b, c, (d + t1) % 2 ^ 64, e, f, g]
  | v => v

/-- The rounds over the constants left; `w` the 16 schedule words of the window. -/
def shaRounds : List Nat → List Nat → List Nat → List Nat
  | [], _, v => v
  | k :: ks, w, v =>
    let w0 := nth 0 w 0
    let w1 := nth 0 w 1
    let w14 := nth 0 w 14
    let s0 := rotr64 w1 1 ^^^ rotr64 w1 8 ^^^ (w1 >>> 7)
    let s1 := rotr64 w14 19 ^^^ rotr64 w14 61 ^^^ (w14 >>> 6)
    shaRounds ks (w.tail ++ [(w0 + s0 + nth 0 w 9 + s1) % 2 ^ 64]) (shaRound v (k + w0))

/-- Big-endian number of bytes. -/
def beNat (bs : List Byte) : Nat := bs.foldl (fun n b => 256 * n + b.toNat) 0

/-- The `n` big-endian bytes of a number. -/
def beBytes (n v : Nat) : List Byte := (leBytes n v).reverse

def shaBlock (h : List Nat) (blk : List Byte) : List Nat :=
  let w := (List.range 16).map fun i => beNat ((blk.drop (8 * i)).take 8)
  ((h.zip (shaRounds shaK w h)).map fun p => (p.1 + p.2) % 2 ^ 64)

def shaBlocks : Nat → List Nat → List Byte → List Nat
  | 0, h, _ => h
  | n + 1, h, bs => shaBlocks n (shaBlock h (bs.take 128)) (bs.drop 128)

/-- SHA-384 of a list of bytes: 48 bytes. -/
def sha384 (msg : List Byte) : List Byte :=
  let len := msg.length
  let zeros := (239 - len % 128) % 128
  let padded := msg ++ [0x80] ++ List.replicate zeros 0 ++ beBytes 16 (8 * len)
  ((shaBlocks (padded.length / 128) sha0 padded).take 6).flatMap (beBytes 8)

end Sys2Proof.Machine
end

