-- ==== Sys2Proof/Machine/Crypto.lean ====
section
/-!
DEFINITION. The published mechanisms that the security chapter names: HMAC-SHA-384, the key derivation function of SP 800-108, AES-256 with
XTS, GCM and GMAC, ECDSA and ECDH on P-384 (R254, R257-R264, R278, R279). What those standards leave to the user is in log entry 71.
-/
namespace Sys2Proof.Machine

/-! ## HMAC-SHA-384 (FIPS 198-1) and the KDF (SP 800-108, counter mode; R262) -/

def hmac384 (key msg : List Byte) : List Byte :=
  let k0 := if key.length ≤ 128 then key else sha384 key
  let k := k0 ++ List.replicate (128 - k0.length) 0
  sha384 (k.map (· ^^^ 0x5C#8) ++ sha384 (k.map (· ^^^ 0x36#8) ++ msg))

/-- ASCII bytes of a text. -/
def ascii (t : String) : List Byte := t.toList.map fun c => BitVec.ofNat 8 c.toNat

/-- `n` bytes of key material: a 32-bit counter, the label, a zero byte, the context, the length in bits. -/
def kdf (key : List Byte) (label : List Byte) (context : List Byte) (n : Nat) : List Byte :=
  ((List.range ((n + 47) / 48)).flatMap fun i =>
    hmac384 key (beBytes 4 (i + 1) ++ label ++ [0] ++ context ++ beBytes 4 (8 * n))).take n

/-! ## AES-256 (FIPS 197) -/

/-- FIPS 197's substitution box, 16 bytes a row, the first lowest. -/
def sBoxRows : List Nat :=
  [0x76ABD7FE2B670130C56F6BF27B777C63, 0xC072A49CAFA2D4ADF04759FA7DC982CA,
   0x1531D871F1E5A534CCF73F362693FDB7, 0x75B227EBE28012079A059618C323C704,
   0x842FE329B3D63B52A05A6E1B1A2C8309, 0xCF584C4A39BECB6A5BB1FC20ED00D153,
   0xA89F3C507F02F94585334D43FBAAEFD0, 0xD2F3FF1021DAB6BCF5389D928F40A351,
   0x73195D643D7EA7C41744975FEC130CCD, 0xDB0B5EDE14B8EE4688902A22DC4F8160,
   0x79E4959162ACD3C25C2406490A3A32E0, 0x08AE7A65EAF4566CA94ED58D6D37C8E7,
   0x8A8BBD4B1F74DDE8C6B4A61C2E2578BA, 0x9E1DC186B95735610EF6034866B53E70,
   0xDF2855CEE9871E9B948ED9691198F8E1, 0x16BB54B00F2D99416842E6BF0D89A18C]

/-- Its inverse. -/
def invSBoxRows : List Nat :=
  [0xFBD7F3819EA340BF38A53630D56A0952, 0xCBE9DEC444438E3487FF2F9B8239E37C,
   0x4EC3FA420B954CEE3D23C2A632947B54, 0x25D18B6D49A25B76B224D92866A12E08,
   0x92B6655DCC5CA4D41698688664F6F872, 0x849D8DA75746155EDAB9EDFD5048706C,
   0x0645B3B80558E4F70AD3BC8C00ABD890, 0x6B8A130103BDAFC1020F3FCA8F1E2CD0,
   0x73E6B4F0CECFF297EADC674F4111913A, 0x6EDF751CE837F9E28535ADE72274AC96,
   0x1BBE18AA0E62B76F89C5291D711AF147, 0xF45ACD78FEC0DB9A2079D2C64B3E56FC,
   0x5FEC8027591012B131C7078833A8DD1F, 0xEF9CC9939F7AE52D0D4AB519A97F5160,
   0x619953833CBBEBC8B0F52AAE4D3BE0A0, 0x7D0C2155631469E126D677BA7E042B17]

def boxAt (rows : List Nat) (x : Nat) : Nat := (nth 0 rows (x / 16) >>> (8 * (x % 16))) % 256
def subByte (x : Nat) : Nat := boxAt sBoxRows x
def invSubByte (x : Nat) : Nat := boxAt invSBoxRows x

/-- Exclusive or, element by element. -/
def xorL (a b : List Nat) : List Nat := List.zipWith (· ^^^ ·) a b

/-- The product with x in AES's field. -/
def times2 (x : Nat) : Nat := if x < 128 then 2 * x else (2 * x) ^^^ 0x11B

/-- The product with a constant below 16. -/
def timesC (c x : Nat) : Nat :=
  (if c.testBit 0 then x else 0) ^^^ (if c.testBit 1 then times2 x else 0) ^^^ (if c.testBit 2 then times2 (times2 x) else 0)
    ^^^ (if c.testBit 3 then times2 (times2 (times2 x)) else 0)

/-- One column times the circulant matrix whose first row is `m`. -/
def mixColumn (m col : List Nat) : List Nat :=
  (List.range 4).map fun r => ((List.range 4).map fun c => timesC (nth 0 m ((c + 4 - r) % 4)) (nth 0 col c)).foldl (· ^^^ ·) 0

def mixColumns (m v : List Nat) : List Nat := (List.range 4).flatMap fun c => mixColumn m ((v.drop (4 * c)).take 4)
def shiftRows (v : List Nat) : List Nat := (List.range 16).map fun i => nth 0 v (5 * i % 16)
def invShiftRows (v : List Nat) : List Nat := (List.range 16).map fun i => nth 0 v (13 * i % 16)

/-- The next word of the key schedule, `i` its number; `w` the words so far, newest first. -/
def aesWord (i : Nat) (w : List (List Nat)) : List Nat :=
  let t := nth [] w 0
  let t1 := if i % 8 == 0 then xorL ((t.drop 1 ++ t.take 1).map subByte) [2 ^ (i / 8 - 1), 0, 0, 0]
    else if i % 8 == 4 then t.map subByte else t
  xorL (nth [] w 7) t1

/-- `n` more words, up to 60. -/
def aesExpand : Nat → List (List Nat) → List (List Nat)
  | 0, w => w
  | n + 1, w => aesExpand n (aesWord (59 - n) w :: w)

/-- The 15 round keys of a 32-byte key. -/
def aesKeys (key : List Byte) : List (List Nat) :=
  let k := ((key ++ List.replicate 32 0).take 32).map BitVec.toNat
  let w := (aesExpand 52 ((List.range 8).map fun i => (k.drop (4 * i)).take 4).reverse).reverse
  (List.range 15).map fun i => ((w.drop (4 * i)).take 4).flatten

def aesRounds : List (List Nat) → List Nat → List Nat
  | [], v => v
  | [k], v => xorL (shiftRows (v.map subByte)) k
  | k :: ks, v => aesRounds ks (xorL (mixColumns [2, 3, 1, 1] (shiftRows (v.map subByte))) k)

def aesInvRounds : List (List Nat) → List Nat → List Nat
  | [], v => v
  | [k], v => xorL ((invShiftRows v).map invSubByte) k
  | k :: ks, v => aesInvRounds ks (mixColumns [14, 11, 13, 9] (xorL ((invShiftRows v).map invSubByte) k))

def toBlock (bs : List Byte) : List Nat := ((bs ++ List.replicate 16 0).take 16).map BitVec.toNat
def ofBlock (v : List Nat) : List Byte := v.map (BitVec.ofNat 8)

/-- One block, forward and back. -/
def aesCipher (ks : List (List Nat)) (bs : List Byte) : List Byte := match ks with
  | [] => bs
  | k :: rest => ofBlock (aesRounds rest (xorL (toBlock bs) k))
def aesDecipher (ks : List (List Nat)) (bs : List Byte) : List Byte := match ks.reverse with
  | [] => bs
  | k :: rest => ofBlock (aesInvRounds rest (xorL (toBlock bs) k))

def xorB (a b : List Byte) : List Byte := List.zipWith (· ^^^ ·) a b

/-! ## XTS (IEEE 1619; R262, R264): a sector of 32 bytes under a 64-byte key -/

/-- The next block's mask. -/
def xtsAlpha (t : Nat) : Nat := if t < 2 ^ 127 then 2 * t else (2 * t) % 2 ^ 128 ^^^ 0x87

def xtsSector (block : List (List Nat) → List Byte → List Byte) (key : List Byte) (tweak : Nat) (d : List Byte) : List Byte :=
  let k1 := aesKeys (key.take 32)
  let t0 := aesCipher (aesKeys (key.drop 32)) (leBytes 16 tweak)
  let t1 := leBytes 16 (xtsAlpha (leNat t0))
  let one := fun t p => xorB (block k1 (xorB p t)) t
  one t0 (d.take 16) ++ one t1 ((d.drop 16).take 16)

def xtsEncrypt (key : List Byte) (tweak : Nat) (d : List Byte) : List Byte := xtsSector aesCipher key tweak d
def xtsDecrypt (key : List Byte) (tweak : Nat) (d : List Byte) : List Byte := xtsSector aesDecipher key tweak d

/-! ## GCM and GMAC (SP 800-38D; R262, R264, R279) -/

/-- The product in GCM's field: the bits of `x` from the first, `v` the multiple of the other factor. -/
def gcmLoop : Nat → Nat → Nat → Nat → Nat
  | 0, _, _, z => z
  | n + 1, x, v, z => gcmLoop n x (if v % 2 == 0 then v / 2 else (v / 2) ^^^ (0xE1 * 2 ^ 120)) (if x.testBit n then z ^^^ v else z)
def gcmMul (x y : Nat) : Nat := gcmLoop 128 x y 0

/-- GHASH over whole blocks. -/
def ghash (h : Nat) : Nat → Nat → List Byte → Nat
  | 0, y, _ => y
  | n + 1, y, bs => ghash h n (gcmMul (y ^^^ beNat (bs.take 16)) h) (bs.drop 16)

def pad16 (bs : List Byte) : List Byte := bs ++ List.replicate ((16 - bs.length % 16) % 16) 0

/-- The tag of a ciphertext and additional data under a 32-byte key and a 12-byte initialisation vector. -/
def gcmTag (key iv aad ct : List Byte) : List Byte :=
  let ks := aesKeys key
  let data := pad16 aad ++ pad16 ct ++ beBytes 8 (8 * aad.length) ++ beBytes 8 (8 * ct.length)
  let y := ghash (beNat (aesCipher ks (List.replicate 16 0))) (data.length / 16) 0 data
  xorB (aesCipher ks (iv ++ beBytes 4 1)) (beBytes 16 y)

/-- The keystream's blocks from number `i`: data is the exclusive or of it with the ciphertext. -/
def gcmStream (key iv : List Byte) (i n : Nat) : List Byte :=
  let ks := aesKeys key
  (List.range n).flatMap fun j => aesCipher ks (iv ++ beBytes 4 (2 + i + j))

def gcmCrypt (key iv data : List Byte) : List Byte := xorB data (gcmStream key iv 0 ((data.length + 15) / 16))

/-! ## P-384 (FIPS 186-5, SP 800-186) -/

def p384Prime : Nat := 2 ^ 384 - 2 ^ 128 - 2 ^ 96 + 2 ^ 32 - 1
def p384Order : Nat := 0xFFFFFFFFFFFFFFFFFFFFFFFFFFFFFFFFFFFFFFFFFFFFFFFFC7634D81F4372DDF581A0DB248B0A77AECEC196ACCC52973
def p384B : Nat := 0xB3312FA7E23EE7E4988E056BE3F82D19181D9C6EFE8141120314088F5013875AC656398D8A2ED19D2A85C8EDD3EC2AEF

/-- A point; none: the point at infinity. -/
abbrev Point := Option (Nat × Nat)

def p384Base : Point :=
  some (0xAA87CA22BE8B05378EB1C71EF320AD746E1D3B628BA79B9859F741E082542A385502F25DBF55296C3A545E3872760AB7,
    0x3617DE4A96262C6F5D9E98BF9292DC29F8F41DBD289A147CE9DA3113B5F0B8C00A60B1CE1D7E819D7A431D7C90EA0E5F)

/-- `a` to the power of the lowest `n` bits of `e`, times `z`, modulo `m`. -/
def powMod (m e : Nat) : Nat → Nat → Nat → Nat
  | 0, _, z => z
  | n + 1, a, z => powMod m (e / 2) n (a * a % m) (if e % 2 == 1 then z * a % m else z)

/-- The inverse modulo a prime. -/
def invMod (m a : Nat) : Nat := powMod m (m - 2) 384 (a % m) 1

def p384Add (a b : Point) : Point :=
  let p := p384Prime
  match a, b with
  | none, q => q
  | q, none => q
  | some (x1, y1), some (x2, y2) =>
    if x1 == x2 && (y1 + y2) % p == 0 then none
    else
      let l := if x1 == x2 then (3 * x1 * x1 + p - 3) * invMod p (2 * y1) % p else (y2 + p - y1) * invMod p (x2 + p - x1) % p
      let x := (l * l + 2 * p - x1 - x2) % p
      some (x, (l * (x1 + p - x) + p - y1) % p)

/-- The lowest `n` bits of `k` times a point, onto `z`. -/
def p384Times (k : Nat) (a : Point) : Nat → Point → Point
  | 0, z => z
  | n + 1, z =>
    let d := p384Add z z
    p384Times k a n (if k.testBit n then p384Add d a else d)
def p384Mul (k : Nat) (a : Point) : Point := p384Times k a 384 none

/-- The uncompressed form of a point, 97 bytes, and back: none unless it is a point of the curve. -/
def pointBytes : Point → List Byte
  | none => [0]
  | some (x, y) => 4 :: (beBytes 48 x ++ beBytes 48 y)
def pointOf (bs : List Byte) : Point :=
  let x := beNat ((bs.drop 1).take 48)
  let y := beNat ((bs.drop 49).take 48)
  let p := p384Prime
  if bs.length == 97 && bs.take 1 == [4] && decide (x < p) && decide (y < p) && y * y % p == (x * x * x + (p - 3) * x + p384B) % p then some (x, y)
  else none

/-- A private key from key material. -/
def scalarOf (bs : List Byte) : Nat := beNat bs % (p384Order - 1) + 1
def publicOf (d : Nat) : List Byte := pointBytes (p384Mul d p384Base)

/-- The shared secret of ECDH: the x coordinate. -/
def ecdh (d : Nat) (peer : List Byte) : List Byte := match pointOf peer with
  | none => []
  | some q => match p384Mul d (some q) with
    | none => []
    | some (x, _) => beBytes 48 x

/-- ECDSA over a digest: r then s (R193's form), with the secret number `k` of this signature. -/
def ecdsaSign (d k : Nat) (digest : List Byte) : List Byte :=
  let n := p384Order
  let r := match p384Mul k p384Base with
    | none => 0
    | some (x, _) => x % n
  beBytes 48 r ++ beBytes 48 (invMod n k * (beNat digest + r * d) % n)

/-- Does a signature of 96 bytes verify over a digest under a public key? -/
def ecdsaVerify (key digest sig : List Byte) : Bool :=
  let n := p384Order
  let r := beNat (sig.take 48)
  let s := beNat (sig.drop 48)
  if sig.length != 96 || r == 0 || s == 0 || decide (n ≤ r) || decide (n ≤ s) then false
  else match pointOf key with
    | none => false
    | some q =>
      let w := invMod n s
      match p384Add (p384Mul (beNat digest * w % n) p384Base) (p384Mul (r * w % n) (some q)) with
      | none => false
      | some (x, _) => x % n == r

end Sys2Proof.Machine
end

