-- ==== Sys2Proof/Machine/Planes.lean ====
section
/-!
DEFINITION. Parameter sets: the entry PSET_ENT (R169), planes and frames (R167, R168), the bytes a gradient part touches, and
the arithmetic of the update (R173).
-/
namespace Sys2Proof.Machine

/-! ## PSET_ENT (R169) -/

/-- The fields of a PSET_ENT. -/
structure PSet where
  valid : Bool
  region : Nat
  rowForm : Bool
  cfmt : Nat
  cscale : Bool
  sblkCode : Nat
  digest : Bool
  act : Nat
  rgroup : Nat
  rowLen : Nat
  base : Nat
  n : Nat
  beta1 : W32
  beta2 : W32
  eps : W32
  wd : W32
  lr : W32
  lrLen : Nat
  lrTab : Nat
  lrReg : Nat
  tid : Nat
  deriving DecidableEq, Repr

/-- The entry whose eight words `w` reads. -/
def psetOf (w : Nat → W64) : PSet :=
  let half := fun k hi lo => BitVec.ofNat 32 (fld (w k) hi lo)
  { valid := bitOf (w 0) 0, region := fld (w 0) 6 1, rowForm := bitOf (w 0) 7, cfmt := fld (w 0) 11 8,
    cscale := bitOf (w 0) 12, sblkCode := fld (w 0) 15 13, digest := bitOf (w 0) 16, act := fld (w 0) 19 17,
    rgroup := fld (w 0) 25 20, rowLen := fld (w 0) 37 26 + 1, base := fld (w 1) 41 0, n := fld (w 2) 41 0,
    beta1 := half 3 31 0, beta2 := half 3 63 32, eps := half 4 31 0, wd := half 4 63 32, lr := half 5 31 0,
    lrLen := fld (w 5) 63 32, lrTab := fld (w 6) 41 0, lrReg := fld (w 6) 47 42, tid := fld (w 7) 31 0 }

/-- Set `n` of a partition. -/
def Part.pset (q : Part) (n : Nat) : PSet := psetOf fun k => SMap.look 0 q.psets (8 * n + k)

/-- The sets of a replica group (R187). -/
def Part.replicas (q : Part) (rgroup : Nat) : List Nat :=
  (List.range 64).filter fun n => (q.pset n).valid && (q.pset n).digest && (q.pset n).rgroup == rgroup

/-- SBLK as a block size (R21). -/
def PSet.sblk (p : PSet) : Nat := 8 * 2 ^ p.sblkCode

/-! ## Planes and frames (R167, R168) -/

/-- Format of plane k. -/
def PSet.fmt (p : PSet) (k : Nat) : Nat :=
  match k with
  | 0 => p.cfmt
  | 1 => 0
  | 2 => 3
  | 3 => 4
  | 4 => 4
  | _ => 3

/-- Does plane k carry scales? -/
def PSet.scaled (p : PSet) (k : Nat) : Bool :=
  match k with
  | 0 => p.cscale
  | 1 => false
  | _ => true

/-- Bytes of `n` elements of plane k, and of their scales. -/
def PSet.dataLen (p : PSet) (k n : Nat) : Nat := n * fmtBits (p.fmt k) / 8
def PSet.scaleLen (p : PSet) (k n : Nat) : Nat := if p.scaled k then n / p.sblk else 0

def frameParams : Nat := 2097152

/-- Bytes of a whole frame of plane k, and of the plane. -/
def PSet.frameLen (p : PSet) (k : Nat) : Nat := p.dataLen k frameParams + p.scaleLen k frameParams
def PSet.planeLen (p : PSet) (k : Nat) : Nat :=
  p.n / frameParams * p.frameLen k + p.dataLen k (p.n % frameParams) + p.scaleLen k (p.n % frameParams)

/-- Region offset of plane k: the first multiple of 65,536 at or after the end of the plane before it. -/
def PSet.plane (p : PSet) : Nat → Nat
  | 0 => p.base
  | k + 1 => ceilDiv (p.plane k + p.planeLen k) 65536 * 65536

/-- Region offset of the data, and of the scale, of parameter i in plane k. -/
def PSet.dataAt (p : PSet) (k i : Nat) : Nat :=
  p.plane k + i / frameParams * p.frameLen k + p.dataLen k (i % frameParams)
def PSet.scaleAt (p : PSet) (k i : Nat) : Nat :=
  p.plane k + i / frameParams * p.frameLen k + p.dataLen k (min frameParams (p.n - i / frameParams * frameParams))
    + i % frameParams / p.sblk

/-- The region ranges (offset, bytes) of parameters `first` to `first + n - 1` in plane k, which lie in one frame. -/
def PSet.planeRanges (p : PSet) (first n k : Nat) : List (Nat × Nat) :=
  (p.dataAt k first, p.dataLen k n) :: (if p.scaled k then [(p.scaleAt k first, p.scaleLen k n)] else [])

/-- All that an update of those parameters writes (R173). -/
def PSet.ranges (p : PSet) (first n : Nat) : List (Nat × Nat) := (List.range 6).flatMap (p.planeRanges first n)

/-- Two ranges (offset, bytes) share a byte; a list meets a range. -/
def rangesMeet (a b : Nat × Nat) : Bool := decide (a.1 < b.1 + b.2) && decide (b.1 < a.1 + a.2)
def anyMeet (l m : List (Nat × Nat)) : Bool := l.any fun a => m.any (rangesMeet a)

/-- The element of plane 4 that begins at region offset `o`: the set and the parameter (R172). -/
def Part.dense (q : Part) (r o : Nat) : Option (Nat × Nat) :=
  match (List.range 64).find? fun n =>
      let p := q.pset n
      p.valid && p.region == r && !p.rowForm && decide (p.plane 4 ≤ o) && decide (o < p.plane 4 + p.planeLen 4) with
  | some n =>
    let p := q.pset n
    let rel := o - p.plane 4
    some (n, rel / p.frameLen 4 * frameParams + rel % p.frameLen 4)
  | none => none

/-- The ROWFORM set a row-form tile is for: the one whose planes hold the offset, else the lowest of the region (log entry 26). -/
def Part.rowSet (q : Part) (r o : Nat) : Option Nat :=
  let sets := (List.range 64).filter fun n => (q.pset n).valid && (q.pset n).region == r && (q.pset n).rowForm
  match sets.find? fun n => decide ((q.pset n).base ≤ o) && decide (o < (q.pset n).plane 5 + (q.pset n).planeLen 5) with
  | some n => some n
  | none => sets.head?

/-- Bytes of a row record (R172). -/
def PSet.record (p : PSet) : Nat := ceilDiv (p.rowLen + p.rowLen / p.sblk) 8 * 8

/-! ## The arithmetic of R173 -/

/-- The exact value of an element with its E8M0 block scale (R22, R173). -/
def decS (f code : Nat) (sc : Byte) : Val :=
  match decodeScale 1 sc with
  | none => .nan
  | some s =>
    match decodeVal f code with
    | .fin n m e => .fin n (m * s.1) (e + s.2)
    | v => v

/-- A block converted to format `f` with its E8M0 scale (R33-R36); `rnd k` the word of R37 of element k, none: to nearest. -/
def encBlock (f : Nat) (rnd : Nat → Option Nat) (ws : List W32) : List Nat × Byte :=
  let special := ws.any fun a => match val32 a with
    | .fin .. => false
    | _ => true
  let amax := ws.foldl (fun m a => max32 m (abs32 a)) 0
  let mode := fun k => match rnd k with
    | some r => Round.stochastic r
    | none => Round.nearestEven
  match blockScale 1 f amax special with
  | none => (ws.map fun _ => (convert .nearestEven f true nan32).1, 0xFF)
  | some b =>
    match decodeScale 1 b with
    | none => (ws.map fun _ => 0, b)
    | some sc => (ws.zipIdx.map fun p => (convert (mode p.2) f true (divScale p.1 sc).1).1, b)

/-- FP32 1.0. -/
def one32 : W32 := 0x3F800000

/-- β to the power n by successive FP32 multiplications from 1.0. -/
def powMul (b : W32) : Nat → W32
  | 0 => one32
  | n + 1 => (mul32 (powMul b n) b).1

/-- The constants of a step. -/
structure Consts where
  omb1 : W32
  omb2 : W32
  c1 : W32
  c2 : W32
  lr : W32
  deriving DecidableEq, Repr

/-- omb1, omb2, c1 and c2 of step t, with the learning rate given. -/
def PSet.consts (p : PSet) (t : Nat) (lr : W32) : Consts :=
  let corr := fun b => (div32 one32 (sub32 one32 (powMul b t)).1).1
  ⟨(sub32 one32 p.beta1).1, (sub32 one32 p.beta2).1, corr p.beta1, corr p.beta2, lr⟩

/-- One element's parameter state: master, and the exact first moment, second moment and error term. -/
structure Elem where
  w : W32
  m1 : Val
  m2 : Val
  err : Val
  deriving DecidableEq, Repr

/-- m, v, w and r of one element (R173), from u and the held gradient. -/
def PSet.elem (p : PSet) (k : Consts) (e : Elem) (u : W32) (gh : Val) : W32 × W32 × W32 × W32 :=
  let r := (addV (val32 u) (negV gh)).1
  let m := (add32 (mulV (val32 p.beta1) e.m1).1 (mulV (val32 k.omb1) gh).1).1
  let v := (add32 (mulV (val32 p.beta2) e.m2).1 (mul32 k.omb2 (mulV gh gh).1).1).1
  let d := (add32 (sqrt32 (mul32 v k.c2).1).1 p.eps).1
  let w := (sub32 e.w (mul32 k.lr (add32 (div32 (mul32 m k.c1).1 d).1 (mul32 p.wd e.w).1).1).1).1
  (m, v, w, r)

/-- The codes and scales a block's update writes, by plane 0 to 5 (scale 0 where the plane has none). -/
def PSet.updateBlock (p : PSet) (k : Consts) (seed : W64) (step i0 : Nat) (es : List Elem) (gs : List Val) :
    List (List Nat × Byte) :=
  let us := (es.zip gs).map fun q => (addV q.2 q.1.err).1
  let g8 := encBlock 4 (fun j => some (philox seed (i0 + j) p.tid step)) us
  let rs := (es.zip (us.zip g8.1)).map fun q => p.elem k q.1 q.2.1 (decS 4 q.2.2 g8.2)
  let near := fun _ => none
  let ws := rs.map fun r => r.2.2.1
  let p0 := if p.cscale then encBlock p.cfmt near ws
    else (ws.map fun w => (convert .nearestEven p.cfmt false w).1, 0)
  [p0, (ws.map fun w => w.toNat, 0), encBlock 3 near (rs.map fun r => r.1), encBlock 4 near (rs.map fun r => r.2.1), g8,
    encBlock 3 near (rs.map fun r => r.2.2.2)]

/-- Codes packed as in R20. -/
def packCodes (f : Nat) (cs : List Nat) : List Byte :=
  let n := fmtBits f
  leBytes (cs.length * n / 8) (cs.foldr (fun c t => c + 2 ^ n * t) 0)

end Sys2Proof.Machine
end

