-- ==== Sys2Proof/Machine/Skein.lean ====
section
/-!
DEFINITION. The layout of a skein (R192-R200): header, frames, route records, trailer; and what one frame writes into the shadows
(R206).
-/
namespace Sys2Proof.Machine

/-! ## Breaches -/

/-- A value of the configuration that a frame can write (R197): frame type, address, offset and length. -/
structure Touch where
  ftype : Nat
  sa : Nat
  x : Nat
  y : Nat
  ofs : Nat
  len : Nat
  deriving DecidableEq, Repr

/-- A breach of a loader rule: its reason code (R205) and the values involved. -/
abbrev Breach := Nat × List Touch

/-- The breach when the test holds. -/
def when (b : Bool) (reason : Nat) (ts : List Touch) : List Breach := if b then [(reason, ts)] else []

/-- The lowest reason of a list of breaches. -/
def lowest (bs : List Breach) : Option Nat :=
  match bs with
  | [] => none
  | b :: l => some (l.foldl (fun m c => min m c.1) b.1)


/-! ## Bytes -/

/-- Number of `n` bytes at offset `o`. -/
def numAt (bs : List Byte) (o n : Nat) : Nat := leNat ((bs.drop o).take n)
def wordAt (bs : List Byte) (o : Nat) : W64 := BitVec.ofNat 64 (numAt bs o 8)
def allZero (bs : List Byte) : Bool := bs.all (· == 0)

/-! ## The header (R193, R194) -/

def hLength (h : List Byte) : Nat := numAt h 0x10 8
def hFrames (h : List Byte) : Nat := numAt h 0x18 4
def hSaCount (h : List Byte) : Nat := numAt h 0x1C 2
def hClass (h : List Byte) : Nat := numAt h 0x1E 1
def hCast (h : List Byte) : Nat := numAt h 0x1F 1
def hFlags (h : List Byte) : Nat := numAt h 6 2
def hPartial (h : List Byte) : Bool := (hFlags h).testBit 0
def hConf (h : List Byte) : Bool := (hFlags h).testBit 1
def hCheck (h : List Byte) : Bool := (hFlags h).testBit 2
def hScanEn (h : List Byte) : Bool := (hFlags h).testBit 6
def hScanRegion (h : List Byte) : Nat := numAt h 0x24 1

/-- The settings a header carries (R207). -/
def headerSettings (h : List Byte) : Settings :=
  { strict := (hFlags h).testBit 3, trap := bits (hFlags h) 5 4, scanEn := hScanEn h, scanRegion := hScanRegion h,
    startStep := BitVec.ofNat 32 (numAt h 0x20 4), castOrder := BitVec.ofNat 8 (hCast h), slowQuota := wordAt h 0x28,
    class0Res := ((h.drop 0x30).take 40).map (·.toNat), jobSeed := wordAt h 0x58, digest := (h.drop 0x80).take 48 }

/-- CAST_ORDER is a permutation of the four step codes with LOCK before RESET (R213). -/
def castSteps (c : Nat) : List Nat := [bits c 1 0, bits c 3 2, bits c 5 4, bits c 7 6]
def castOk (c : Nat) : Bool :=
  let l := castSteps c
  ([0, 1, 2, 3].all fun k => l.contains k) && decide (l.findIdx (· == 0) < l.findIdx (· == 2))

/-- SLOW_QUOTA's own ranges (R178). -/
def quotaOk (w : W64) : Bool :=
  let slots := fld w 16 0
  let pends := fld w 29 17
  fld w 63 30 == 0 && (slots == 0 || (decide (16 ≤ slots) && decide (slots ≤ 104857))) && decide (pends ≤ 6553)

/-- The header values a partial skein, or a full skein in PLACED, must repeat (R207, R231). -/
def repeats (q : Part) (h : List Byte) : Bool :=
  let n := headerSettings h
  let o := q.set
  hClass h == q.cls && hConf h == q.conf && hSaCount h == q.saCount && n.strict == o.strict && n.trap == o.trap
    && n.scanEn == o.scanEn && n.scanRegion == o.scanRegion && n.slowQuota == o.slowQuota && n.class0Res == o.class0Res
    && n.jobSeed == o.jobSeed

/-- The header's breaches (R205), for partition `q` on a unit of the given stepping. -/
def headerBreaches (q : Part) (stepping : Nat) (h : List Byte) : List Breach :=
  let len := hLength h
  let wantPartial := q.state == .running
  when (numAt h 0 4 != 0x4B535849 || numAt h 4 2 != 1 || len % 8 != 0 || decide (len < 336) || decide (2 ^ 36 < len)
      || bits (hFlags h) 15 7 != 0 || bits (hFlags h) 5 4 == 3 || !allZero ((h.drop 0x25).take 3)
      || !allZero ((h.drop 0x60).take 32) || !allZero ((h.drop 0x110).take 48) || hSaCount h != q.saCount
      || hConf h != q.conf || hPartial h != wantPartial) 3 []
    ++ when (numAt h 8 4 != 0x1200) 4 []
    ++ when (!(numAt h 0xC 4).testBit stepping) 5 []
    ++ when (!quotaOk (wordAt h 0x28)) 0xC []
    ++ when (hCheck h) 0x10 []
    ++ when (!hPartial h && !castOk (hCast h)) 0x11 []
    ++ when ((hPartial h || q.state == .placed) && !repeats q h) 0x12 []

/-! ## Frame headers (R196, R197) -/

/-- A frame: its two header words. -/
structure Frame0 where
  w0 : W64
  w1 : W64
  deriving DecidableEq, Repr

def Frame0.ftype (f : Frame0) : Nat := fld f.w0 7 0
def Frame0.sa (f : Frame0) : Nat := fld f.w0 19 9
def Frame0.x (f : Frame0) : Nat := fld f.w0 24 20
def Frame0.y (f : Frame0) : Nat := fld f.w0 29 25
def Frame0.allCores (f : Frame0) : Bool := bitOf f.w0 30
def Frame0.len (f : Frame0) : Nat := fld f.w1 31 0
def Frame0.ofs (f : Frame0) : Nat := fld f.w1 63 32

def frameAt (bs : List Byte) (pos : Nat) : Frame0 := ⟨wordAt bs pos, wordAt bs (pos + 8)⟩

/-- The defined ranges of the core configuration space (R198). -/
def cfgDefined (o : Nat) : Bool :=
  decide (o < 0xD0) || (decide (0x100 ≤ o) && decide (o < 0x120)) || (decide (0x200 ≤ o) && decide (o < 0x240))
    || (decide (0x400 ≤ o) && decide (o < 0x480)) || (decide (0x500 ≤ o) && decide (o < 0xF00))

/-- The limit on OFS + LEN, and the unit in which both must come (R197; of records, log entry 26). -/
def frameLimit (t : Nat) : Nat := nth 0 [0, 8192, 65536, 3840, 16777216, 1024, 4096, 1048576] t
def frameUnit (t : Nat) : Nat := nth 1 [1, 1, 1, 1, 32, 16, 64, 1] t

/-- Breaches of a frame's header. `routes`, `graph`: bytes of such frames before it; `past`: it does not end before the trailer. A
table frame (FTYPE 4 to 7) whose address fields are not 0 is reported as a frame error, 0x08, also where ADDR_MODE is 1 and 0x09
would name it too: DESIGN CHOICE (log entry 62). So is ALL_CORES 1 with a non-zero X or Y, for which R196 and R205 give no reason:
DESIGN CHOICE (log entry 82). -/
def frameBreaches (q : Part) (f : Frame0) (routes graph : Nat) (past : Bool) : List Breach :=
  let t := f.ftype
  let table := decide (4 ≤ t)
  when (t == 0 || decide (7 < t) || fld f.w0 63 31 != 0 || f.len % 8 != 0 || past || decide (frameLimit t < f.ofs + f.len)
      || f.ofs % frameUnit t != 0 || f.len % frameUnit t != 0
      || (t == 3 && (List.range f.len).any fun i => !cfgDefined (f.ofs + i))
      || (table && decide (t ≤ 7) && (bitOf f.w0 8 || f.sa != 0 || f.x != 0 || f.y != 0 || f.allCores))
      || (f.allCores && (f.x != 0 || f.y != 0)) || (t == 4 && decide (16777216 < routes + f.len))
      || (t == 7 && decide (1048576 < graph + f.len))) 8 []
    ++ when (bitOf f.w0 8 || decide (q.saCount ≤ f.sa) || decide (23 < f.x) || decide (23 < f.y)) 9 []
    ++ when (q.state == .running && t == 2) 0x12 []

/-! ## What a frame writes (R206) -/

/-- Does frame `f` write a value? -/
def Frame0.writes (f : Frame0) (t : Touch) : Bool :=
  f.ftype == t.ftype && rangesMeet (f.ofs, f.len) (t.ofs, t.len)
    && (decide (4 ≤ f.ftype) || (f.sa == t.sa && (f.allCores || (f.x == t.x && f.y == t.y))))

/-- Cores a frame addresses, by key. -/
def Frame0.cores (f : Frame0) (q : Part) : List Nat :=
  let sa := q.saAt f.sa
  if f.allCores then (List.range 576).map (576 * sa + ·) else [coreKey sa f.x f.y]

/-- Slots of a list of bytes. -/
def slotsOf : List Byte → List W64
  | b0 :: b1 :: b2 :: b3 :: b4 :: b5 :: b6 :: b7 :: bs => BitVec.ofNat 64 (leNat [b0, b1, b2, b3, b4, b5, b6, b7]) :: slotsOf bs
  | _ => []

/-- Bytes written into a program bank at a byte offset. -/
def putProgram (m : SMap W64) (o : Nat) (bs : List Byte) : SMap W64 :=
  let old := (SMap.span 0 m (o / 8) ((o % 8 + bs.length + 7) / 8)).flatMap fun w => leBytes 8 w.toNat
  SMap.putAll 0 m (o / 8) (slotsOf (old.take (o % 8) ++ bs ++ old.drop (o % 8 + bs.length)))

def writeCores (s : State) (f : Core → Core) : List Nat → State
  | [] => s
  | k :: ks => writeCores (s.setCore k (f (s.core k))) f ks

/-- Route records of a ROUTE frame. -/
def recordsOf : Nat → List Byte → List RouteRec
  | 0, _ => []
  | n + 1, bs => ⟨wordAt bs 0, wordAt bs 8, wordAt bs 16, wordAt bs 24⟩ :: recordsOf n (bs.drop 32)

/-- Records written from index `i` of the table; a record of zeros stands where no frame has written (R196). -/
def putRecords (l : List RouteRec) (i : Nat) (rs : List RouteRec) : List RouteRec :=
  l.take i ++ List.replicate (i - l.length) ⟨0, 0, 0, 0⟩ ++ rs ++ l.drop (i + rs.length)

/-- Region entries written at index `i`; CONF is the partition's (R138). -/
def putRegions (conf : Bool) (m : SMap RegionEnt) (i : Nat) : Nat → List Byte → SMap RegionEnt
  | 0, _ => m
  | n + 1, bs =>
    let w0 := wordAt bs 0 &&& ~~~(1#64 <<< 6)
    let w0 := if conf then w0 ||| (1#64 <<< 6) else w0
    putRegions conf (SMap.put RegionEnt.zero m i ⟨w0, wordAt bs 8⟩) (i + 1) n (bs.drop 16)

/-- A frame's payload goes into the shadows; a SCRATCH frame writes the scratchpads. -/
def applyFrame (s : State) (p : Nat) (f : Frame0) (bs : List Byte) : State :=
  let q := s.part p
  match f.ftype with
  | 1 => writeCores s (fun c => { c with progShadow := putProgram c.progShadow f.ofs bs }) (f.cores q)
  | 2 => writeCores s (fun c => { c with scratch := SMap.putAll 0 c.scratch f.ofs bs }) (f.cores q)
  | 3 => writeCores s (fun c => { c with cfgShadow := SMap.putAll 0 c.cfgShadow f.ofs bs }) (f.cores q)
  | 4 => s.setPart p { q with routesShadow := putRecords q.routesShadow (f.ofs / 32) (recordsOf (f.len / 32) bs) }
  | 5 => s.setPart p { q with regionsShadow := putRegions q.conf q.regionsShadow (f.ofs / 16) (f.len / 16) bs }
  | 6 => s.setPart p { q with psetsShadow := SMap.putAll 0 q.psetsShadow (f.ofs / 8) (slotsOf bs) }
  | 7 => s.setPart p { q with graphShadow := SMap.putAll 0 q.graphShadow f.ofs bs }
  | _ => s

/-- The frames of a load with their index, read again from its bytes: (index, frame). -/
def framesFrom (bs : List Byte) : Nat → Nat → Nat → List (Nat × Frame0)
  | 0, _, _ => []
  | n + 1, i, pos =>
    let f := frameAt bs pos
    (i, f) :: framesFrom bs n (i + 1) (pos + 16 + f.len)

/-- FRAME of a breach (R202): the highest-indexed frame among those that wrote a value involved. -/
def frameOf (fs : List (Nat × Frame0)) (ts : List Touch) : Nat :=
  (fs.filter fun f => ts.any f.2.writes).foldl (fun m f => if m == noFrame then f.1 else max m f.1) noFrame

/-- The breach reported: the lowest reason, and with it the lowest frame. -/
def report (fs : List (Nat × Frame0)) (bs : List Breach) : Option (Nat × Nat) :=
  match lowest bs with
  | none => none
  | some r => some (r, minOf noFrame ((bs.filter fun b => b.1 == r).map fun b => frameOf fs b.2))

end Sys2Proof.Machine
end

