-- ==== Sys2Proof/Machine/Check.lean ====
section
/-!
DEFINITION. The skein loader's checks of one core: its program (R47-R57, R69-R73, R83-R91, R106) and its configuration space (R57,
R68, R82, R96-R102, R145, R146).
-/
namespace Sys2Proof.Machine

/-! ## Formats and scale controls (R18, R21, R69) -/

def fmtReserved (f : Nat) : Bool := decide (8 < f)

/-- A scale control breaks R21 for an operand of format `f`. -/
def scaleBad (f c : Nat) : Bool :=
  if f ≤ 2 then c != 0 else scFmt c == 3 || decide (4 < bits c 4 2) || bits c 7 6 != 0

/-- A scale control that holds a reserved code or bit (R21). -/
def scaleReserved (c : Nat) : Bool := scFmt c == 3 || decide (4 < bits c 4 2) || bits c 7 6 != 0

/-- A profile that holds a reserved code or a reserved bit of a scale control, whether or not a slot names it (R9, R18, R21). -/
def profReserved (p : Prof) : Bool :=
  fmtReserved p.fmtA || fmtReserved p.fmtB || scaleReserved p.scaleA || scaleReserved p.scaleB

/-- A profile that an MMA or MCHECK may not name (R23, R69). -/
def profBad (p : Prof) : Bool :=
  p.fmtA != p.fmtB || p.fmtA == 0 || fmtReserved p.fmtA || scaleBad p.fmtA p.scaleA || scaleBad p.fmtB p.scaleB
    || decide (klenMax p.fmtA < p.klen)
    || (!p.last && p.klen % blockLen p.fmtA p.scaleA p.scaleB != 0)

/-! ## One slot (R47, R48) -/

/-- Bits of OPERANDS that a class and operation use, as the lowest bit used and a mask of the rest; none: reserved. -/
def slotUses (cls op : Nat) : Option Nat :=
  match cls, op with
  | 0, 0 => some 0
  | 0, 1 => some (2 ^ 24 - 1)
  | 0, 2 => some (2 ^ 48 - 2 ^ 22)
  | 0, 3 => some 0
  | 1, 0 => some (2 ^ 48 - 1)
  | 2, 0 => some (2 ^ 48 - 2 ^ 26)
  | 2, 1 => some (2 ^ 48 - 1)
  | 2, 2 => some (2 ^ 48 - 2 ^ 17)
  | 2, 3 => some (2 ^ 48 - 2 ^ 36)
  | 2, 4 => some (2 ^ 48 - 2 ^ 12)
  | 3, 0 => some (2 ^ 48 - 2 ^ 33)
  | 3, 1 => some (2 ^ 48 - 2 ^ 33)
  | 4, 0 => some (2 ^ 48 - 2 ^ 9)
  | 4, 1 => some (2 ^ 48 - 2 ^ 9)
  | 5, n => if n ≤ 4 then some (2 ^ 48 - 2 ^ 26) else none
  | 6, n => if n ≤ 1 then some (2 ^ 48 - 2 ^ 42) else none
  | 7, 0 => some (2 ^ 48 - 2 ^ 35)
  | 8, 0 => some (2 ^ 48 - 2 ^ 31)
  | 8, 1 => some (2 ^ 48 - 2 ^ 30)
  | 8, 2 => some (2 ^ 48 - 2 ^ 9)
  | 8, 3 => some (2 ^ 48 - 2 ^ 35)
  | _, _ => none

def isOp (w : W64) (cls op : Nat) : Bool := slotClass w == cls && slotOp w == op
def isHalt (w : W64) : Bool := isOp w 0 3
def isLoop (w : W64) : Bool := isOp w 0 2

/-- A hold term that R52 rejects. -/
def termBad (t : Term) : Bool :=
  match t.kind with
  | 0 => decide (15 < t.sel)
  | 1 => decide (47 < t.sel)
  | 2 => decide (47 < t.sel) || t.consume
  | 3 => decide (7 < t.sel) || t.consume || t.value == 0
  | 4 => t.consume
  | 5 => decide (7 < t.sel) || t.consume
  | _ => true

def holdBad (w : W64) : Bool :=
  match holdCombine w with
  | 0 => termBad (termA w) || fld w 19 0 != 0
  | 3 => true
  | _ => termBad (termA w) || termBad (termB w)

/-- VCVT breaches (R87): 0x0A for the format and scale control, 0x0B for the rest. -/
def vcvtBad (w : W64) : Bool :=
  let f := fld w 41 38
  let c := fld w 37 30
  let ofs := fld w 26 25
  let areg := fld w 16 14
  (decide (f ≤ 2) && f != 0 && ofs % 2 != 0) || (f == 0 && ofs != 0)
    || (areg != 0 && decide (scBlock c ≤ 16)) || (scFmt c == 0 && (areg != 0 || fld w 24 22 != 0 || fld w 21 17 != 0))
    || (bitOf w 29 && bitOf w 28)

/-- Breaches whose values all lie in the slot. -/
def slotBreaches (w : W64) (ts : List Touch) : List Breach :=
  let o := w.toNat % 2 ^ 48
  match slotUses (slotClass w) (slotOp w) with
  | none => [(0xB, ts)]
  | some m =>
    when (slotDelta w == 0 || o &&& m != o) 0xB ts
    ++ when (isOp w 1 0 && holdBad w) 0xB ts
    ++ when (isOp w 2 1 && bitOf w 21) 0xB ts
    ++ when (isOp w 2 1 && bitOf w 24) 0xB ts
    ++ when (isOp w 2 4) 0x10 ts
    ++ when (isOp w 2 4 && (fld w 21 20 == 3)) 0xB ts
    ++ when (isOp w 8 1 && decide (4 < fld w 41 39)) 0xB ts
    ++ when (isOp w 8 2 && vcvtBad w) 0xB ts
    ++ when (isOp w 8 2 && (fmtReserved (fld w 41 38) || scaleBad (fld w 41 38) (fld w 37 30))) 0xA ts
    ++ when (isOp w 8 0 && decide (63 < fld w 47 42 + fld w 41 36)) 0xB ts
    ++ when (isOp w 7 0 && (decide (5 < fld w 40 38) || decide (5 < fld w 37 35))) 0xB ts
    ++ when (isOp w 7 0 && decide (47 < fld w 46 41)) 0xC ts
    ++ when (isOp w 2 0 && (fld w 47 36 % 16 != 0 || fld w 35 26 % 16 != 0)) 0xC ts
    ++ when (slotClass w == 5 && (if slotOp w ≤ 1 then decide (47 < fld w 47 42) || fld w 41 26 != 0
        else decide (15 < fld w 47 42) || (slotOp w == 4 && fld w 41 26 != 0))) 0xC ts

/-! ## Element steps (R83) -/

def readsB (e : Nat) : Bool := [1, 2, 3, 4, 5, 6, 7, 0x13, 0x14, 0x15].contains e
def readsC (e : Nat) : Bool := [4, 0x15].contains e

/-- A step with a non-zero reserved bit, whether or not a VRUN runs it (R9). -/
def stepReserved (v : W32) : Bool := bits v.toNat 5 0 != 0

/-- A step that a VRUN may not run. -/
def stepBad (v : W32) : Bool :=
  let n := v.toNat
  let e := bits n 31 26
  decide (0x15 < e) || bits n 7 6 == 3 || bits n 5 0 != 0
    || (!readsB e && bits n 19 17 + bits n 13 13 + bits n 12 8 + bits n 7 6 != 0)
    || (!readsC e && bits n 16 14 != 0)
    || (readsB e && bits n 13 13 == 1 && bits n 19 17 + bits n 7 6 != 0)
    || (readsB e && bits n 13 13 == 0 && bits n 12 8 != 0)

/-! ## The program as a whole (R29, R49, R50, R69) -/

/-- Slots 0 to the first HALT; none: no HALT among the 1,024. -/
def cutHalt : Nat → List W64 → Option (List W64)
  | 0, _ => none
  | _, [] => none
  | n + 1, w :: ws => if isHalt w then some [w] else (cutHalt n ws).map (w :: ·)

/-- The shadow bank as a list. -/
def Core.bank (c : Core) : List W64 := SMap.span 0 c.prog 0 1024

def loopEnd (w : W64) : Nat := fld w 47 38
def loopTimes (w : W64) : Nat := fld w 37 22 + 1

/-- Slot numbers of LOOP slots that R49 rejects; `open0` the ENDs of the bodies open before slot `i`, innermost first. -/
def loopsBad : Nat → List Nat → List W64 → List Nat
  | _, _, [] => []
  | i, ends, w :: ws =>
    let e := loopEnd w
    let bad := isLoop w && (decide (e ≤ i) || decide (4 ≤ ends.length) || (match ends with
      | o :: _ => decide (o < e)
      | [] => false))
    let next := (if isLoop w then e :: ends else ends).filter (· != i)
    (if bad then [i] else []) ++ loopsBad (i + 1) next ws

/-- Largest iteration count of the innermost LOOP around each slot (R72): `open0` as (END, iterations - 1). -/
def iters : Nat → List (Nat × Nat) → List W64 → List Nat
  | _, _, [] => []
  | i, ends, w :: ws =>
    let here := match ends with
      | o :: _ => o.2
      | [] => 0
    let next := (if isLoop w then (loopEnd w, loopTimes w - 1) :: ends else ends).filter fun o => o.1 != i
    here :: iters (i + 1) next ws

/-- Leaves an output has received since the last reset, over a stretch of the program: whether the stretch resets, the leaves
before the first reset, after the last, and the most within (R29). -/
structure Stretch where
  resets : Bool
  first : Nat
  last : Nat
  peak : Nat
  deriving DecidableEq, Repr

def Stretch.zero : Stretch := ⟨false, 0, 0, 0⟩

/-- One stretch after another. -/
def Stretch.then (a b : Stretch) : Stretch :=
  match a.resets, b.resets with
  | false, false => ⟨false, a.first + b.first, 0, 0⟩
  | false, true => ⟨true, a.first + b.first, b.last, b.peak⟩
  | true, false => ⟨true, a.first, a.last + b.first, max a.peak (a.last + b.first)⟩
  | true, true => ⟨true, a.first, b.last, max (max a.peak b.peak) (a.last + b.first)⟩

/-- A stretch run `n` times. -/
def Stretch.times (a : Stretch) (n : Nat) : Stretch :=
  if a.resets then { a with peak := if 1 < n then max a.peak (a.last + a.first) else a.peak } else { a with first := n * a.first }

/-- Leaves of an MMA (R24-R27, R74). -/
def profLeaves (p : Prof) : Nat := ceilDiv p.klen (blockLen p.fmtA p.scaleA p.scaleB)

/-- What one slot adds: the leaves of an MMA, or those below the nodes that an MNODE inserts (R78). -/
def Core.slotStretch (c : Core) (w : W64) : Stretch :=
  if isOp w 2 1 then
    let n := profLeaves (profOf (c.profW (fld w 23 22)))
    if fld w 21 20 == 1 then ⟨true, 0, n, n⟩ else ⟨false, n, 0, 0⟩
  else if isOp w 2 2 then ⟨true, 0, 0, 0⟩
  else if isOp w 2 3 then ⟨false, 2 ^ fld w 44 41, 0, 0⟩
  else Stretch.zero

/-- The stretch of slots `i` to `last`, bodies taken as often as their loops say; `fuel` bounds the slots visited. -/
def Core.stretch (c : Core) : Nat → Nat → Nat → Stretch
  | 0, _, _ => Stretch.zero
  | fuel + 1, i, last =>
    let w := SMap.look 0 c.prog i
    if last < i then Stretch.zero
    else if isLoop w then
      ((c.stretch fuel (i + 1) (loopEnd w)).times (loopTimes w)).then (c.stretch fuel (loopEnd w + 1) last)
    else (c.slotStretch w).then (c.stretch fuel (i + 1) last)

/-- The MMA whose LAST profile left the leaves that the accumulator holds, over a stretch that begins with that of `b`: the one at
the end, and the pairs (that MMA, an ACCUM that then meets its leaves) (R69). -/
def Core.lastRun (c : Core) : Nat → Nat → Nat → Option Nat → Option Nat × List (Nat × Nat)
  | 0, _, _, b => (b, [])
  | fuel + 1, i, last, b =>
    let w := SMap.look 0 c.prog i
    if last < i then (b, [])
    else if isLoop w then
      let r1 := c.lastRun fuel (i + 1) (loopEnd w) b
      let r2 := if 1 < loopTimes w then c.lastRun fuel (i + 1) (loopEnd w) r1.1 else (r1.1, [])
      let r3 := c.lastRun fuel (loopEnd w + 1) last r2.1
      (r3.1, r1.2 ++ r2.2 ++ r3.2)
    else
      let p := profOf (c.profW (fld w 23 22))
      let bad := match b with
        | some k => if isOp w 2 1 && fld w 21 20 == 0 then [(k, i)] else []
        | none => []
      let b1 := if isOp w 2 1 then (if p.last then some i else none) else if isOp w 2 2 then none else b
      let r := c.lastRun fuel (i + 1) last b1
      (r.1, bad ++ r.2)

/-! ## One core's program against its configuration -/

/-- A slot and a range of the configuration space as touched values. -/
def progTouch (rel x y i : Nat) : Touch := ⟨1, rel, x, y, 8 * i, 8⟩
def cfgTouch (rel x y o n : Nat) : Touch := ⟨3, rel, x, y, o, n⟩

/-- Units (first, count) of an enabled ring; a range of units taken modulo 4,096 touches one (R97). -/
def Core.ringRegions (c : Core) : List (Nat × Nat × Nat) :=
  (List.range 8).filterMap fun r =>
    let w := c.ringCfg r
    if ringOn w then some (r, ringBase w, ringUnits (ringSizeCode w)) else none
def unitsMeet (a n b m : Nat) : Bool := (List.range n).any fun i => decide (b ≤ (a + i) % 4096) && decide ((a + i) % 4096 < b + m)

/-- The ring a range touches. -/
def Core.ringHit (c : Core) (a n : Nat) : Option Nat := (c.ringRegions.find? fun r => unitsMeet a n r.2.1 r.2.2).map (·.1)

/-- Unit ranges a slot writes over all its iterations, or sends from (R97). -/
def slotWrites (w : W64) (maxIt : Nat) : List (Nat × Nat) :=
  if isOp w 2 2 && bitOf w 47 then (List.range (maxIt + 1)).map fun t => ((fld w 43 32 + t * fld w 31 22) % 4096, 64)
  else if isOp w 3 1 then [(fld w 44 33, 64)]
  else []
def payloadUnits (lenM1 : Nat) : Nat := ceilDiv (8 * lenM1) 16

/-- Is a profile's MMA scaled? -/
def profScaled (p : Prof) : Bool := scFmt p.scaleA != 0 || scFmt p.scaleB != 0

/-- Breaches of slot `i` with the core's registers; `t` its largest iteration count. An RWRITE on a port with KIND 2 and ENABLE 0 is rejected
as a SEND on an unbound port is (DESIGN CHOICE, log entry 73: R97 names SEND alone). -/
def Core.slotConfig (c : Core) (rel x y i t : Nat) (w : W64) : List Breach :=
  let me := progTouch rel x y i
  let cf := cfgTouch rel x y
  let at0 := fun o n => [me, cf o n]
  let prof := fld w 23 22
  let pr := profOf (c.profW prof)
  let chan := c.chanW0 (fld w 47 45)
  let chanT := at0 (16 * fld w 47 45) 16
  let ring := fun (r : Option Nat) => match r with
    | some k => at0 (0x80 + 8 * k) 8
    | none => [me]
  let dsc := fun d => at0 (0x900 + 24 * d) 24
  let tens := fun n => at0 (0x600 + 24 * n) 24
  let tensBad := fun n => decide (2 ^ 48 ≤ c.tensRow n t 15 * fld (c.tensW n 0) 63 32 + c.tensCol n t 15)
  let names := fun d => !(c.descCfg d).valid
  let unit := if bitOf w 47 then 1 else 0
  let sw := c.steerCfg unit
  when ((isOp w 2 1 || isOp w 2 4) && profBad pr) 0xA (at0 (0x100 + 8 * prof) 8)
  ++ when (isOp w 2 1 && !profScaled pr && (fld w 35 24 != 0 || fld w 9 5 != 0)) 0xB (at0 (0x100 + 8 * prof) 8)
  ++ when (isOp w 7 0 && (fld sw 7 0 == 0 || fld sw 13 11 != 4)) 0xB (at0 (0xC0 + 8 * unit) 8)
  ++ (if isOp w 8 0 then
        ((List.range (fld w 41 36 + 1)).filter fun k => decide (fld w 47 42 + k < 64) && stepBad (c.eprog (fld w 47 42 + k))).map fun k =>
          (0xB, at0 (0x500 + 4 * (fld w 47 42 + k)) 4)
      else [])
  ++ when (isOp w 8 2 && tensBad (fld w 13 9)) 0xC (tens (fld w 13 9))
  ++ when (isOp w 2 1 && tensBad (fld w 4 0)) 0xC (tens (fld w 4 0))
  ++ when (isOp w 2 4 && tensBad (fld w 16 12)) 0xC (tens (fld w 16 12))
  ++ when (isOp w 2 2 && tensBad (fld w 21 17)) 0xC (tens (fld w 21 17))
  ++ when (isOp w 2 3 && tensBad (fld w 40 36)) 0xC (tens (fld w 40 36))
  ++ when (isOp w 8 0 && tensBad (fld w 35 31)) 0xC (tens (fld w 35 31))
  ++ when (isOp w 8 1 && tensBad (fld w 34 30)) 0xC (tens (fld w 34 30))
  ++ when (isOp w 8 3 && bitOf w 44 && tensBad (fld w 39 35)) 0xC (tens (fld w 39 35))
  ++ when (isOp w 4 0 && (!chanEnable chan || chanKind chan == 2)) 0xC chanT
  ++ when (isOp w 4 1 && (!chanEnable chan || chanKind chan != 2)) 0xC chanT
  ++ when (isOp w 4 0 && chanEnable chan && decide (chanKind chan < 2)
      && decide (ringUnits (chanSize chan) < 2 * msgUnits (8 * (fld w 32 25 + 1)))) 0xC chanT
  ++ (if slotClass w == 4 then
        match c.ringHit (fld w 44 33) (payloadUnits (fld w 32 25)) with
        | some k => [(0xC, ring (some k))]
        | none => []
      else [])
  ++ (match (slotWrites w t).findSome? fun a => c.ringHit a.1 a.2 with
      | some k => [(0xC, ring (some k))]
      | none => [])
  ++ when (slotClass w == 6 && names (fld w 47 42)) 0xC (dsc (fld w 47 42))
  ++ when (isOp w 6 1 && (c.descCfg (fld w 47 42)).op % 2 == 1) 0xC (dsc (fld w 47 42))
  ++ when (isOp w 1 0 && (termA w).kind == 4 && names (termA w).sel) 0xC (dsc (termA w).sel)
  ++ when (isOp w 1 0 && holdCombine w != 0 && (termB w).kind == 4 && names (termB w).sel) 0xC (dsc (termB w).sel)

/-- Breaches of a program prefix that lie in the slots alone: each slot's own, and the loops'. -/
def prefixBreaches (rel x y : Nat) (ws : List W64) : List Breach :=
  ws.zipIdx.flatMap (fun q => slotBreaches q.1 [progTouch rel x y q.2])
    ++ (loopsBad 0 [] ws).map fun i => (0xB, [progTouch rel x y i])

/-- Slot `i` and, where it is an MMA, the profile that it names. -/
def mxTouch (rel x y i : Nat) (w : W64) : List Touch :=
  progTouch rel x y i :: (if isOp w 2 1 then [cfgTouch rel x y (0x100 + 8 * fld w 23 22) 8] else [])

/-- What R29's count of leaves rests on: MMAs with their profiles, MNODEs, and the loops around them. -/
def leafTouches (rel x y : Nat) (ws : List W64) : List Touch :=
  let mx := fun (q : W64 × Nat) => isOp q.1 2 1 || isOp q.1 2 3
  ws.zipIdx.flatMap fun q =>
    if mx q then mxTouch rel x y q.2 q.1
    else if isLoop q.1 && ((ws.take (loopEnd q.1 + 1)).zipIdx.drop q.2).any mx then [progTouch rel x y q.2]
    else []

/-- Breaches of a core's program (R50): none of an idle core. -/
def Core.progBreaches (c : Core) (rel x y : Nat) : List Breach :=
  if c.prog.isEmpty then []
  else
    match cutHalt 1024 c.bank with
    | none => [(0xB, [⟨1, rel, x, y, 0, 8192⟩])]
    | some ws =>
      let mx := fun i => mxTouch rel x y i (SMap.look 0 c.prog i)
      prefixBreaches rel x y ws
        ++ (ws.zip (iters 0 [] ws)).zipIdx.flatMap (fun q => c.slotConfig rel x y q.2 q.1.2 q.1.1)
        ++ (if (loopsBad 0 [] ws).isEmpty then
            let st := c.stretch 1025 0 (ws.length - 1)
            when (decide (65536 < max (max st.first st.last) st.peak)) 0xE (leafTouches rel x y ws)
            ++ ((c.lastRun 1025 0 (ws.length - 1) none).2.map fun p => (0xA, progTouch rel x y p.2 :: mx p.1))
          else [])

/-! ## The configuration space (R57, R96, R97, R100, R116, R145, R146) -/

def chanBad (w0 w1 : W64) : Bool :=
  chanKind w0 == 3 || (decide (48 ≤ chanLandFlag w0) && chanLandFlag w0 != 63) || fld w0 63 40 != 0 || fld w1 63 29 != 0
    || (chanKind w0 != 1 && w1 != 0)
def ringBad (w : W64) : Bool :=
  fld w 63 16 != 0 || ringSizeCode w == 7 || ringBase w % ringUnits (ringSizeCode w) != 0
    || (ringOn w && decide (4096 < ringBase w + ringUnits (ringSizeCode w)))
def steerBad (w : W64) : Bool := decide (3 < fld w 10 8) || decide (4 < fld w 13 11) || fld w 63 20 != 0
/-- The unit ranges a descriptor uses: its three buffers and, for GATHER, its three index lists. -/
def DescCfg.uses (g : DescCfg) : List (Nat × Nat) :=
  let lists := ceilDiv (8 * (if g.tstride == 0 then 0 else g.tbytes / g.tstride)) 16
  (g.laddr, 3 * g.bufUnits) :: (if g.op == 2 then [(g.iaddr, 3 * lists)] else [])

/-- What R146 rejects in a descriptor by its own values. -/
def DescCfg.ownBad (g : DescCfg) : Bool :=
  g.valid && (g.ofs % 64 != 0 || g.uses.any (fun u => decide (4096 < u.1 + u.2))
    || ((g.fmt == 5 || g.fmt == 6) && (g.ofs % 192 != 0 || g.tstride % 192 != 0 || g.tbytes % 192 != 0))
    || (g.role == 1 && g.op % 2 == 1) || (g.op == 2 && (g.tstride == 0 || g.tbytes % g.tstride != 0)))

/-- Breaches of each register taken alone, as (offset, length, reason). -/
def Core.regBreaches (c : Core) : List (Nat × Nat × Nat) :=
  let pick := fun (bad : Nat → Bool) (n base size reason : Nat) =>
    ((List.range n).filter bad).map fun i => (base + size * i, size, reason)
  pick (fun i => chanBad (c.chanW0 i &&& ~~~0xFF#64) (c.chanW1 i)) 8 0 16 0xC
    ++ pick (fun i => ringBad (c.ringCfg i)) 8 0x80 8 0xC
    ++ pick (fun i => steerBad (c.steerCfg i)) 2 0xC0 8 0xC
    ++ pick (fun i => fld (c.profW i) 63 34 != 0) 4 0x100 8 0xC
    ++ pick (fun i => profReserved (profOf (c.profW i))) 4 0x100 8 0xA
    ++ pick (fun i => decide (31 < c.mcastRt i)) 64 0x200 1 0xC
    ++ pick (fun i => stepReserved (c.eprog i)) 64 0x500 4 0xB
    ++ pick (fun i => fld (c.tensW i 2) 63 48 != 0) 32 0x600 24 0xC
    ++ pick (fun i => fmtReserved (c.descCfg i).fmt) 64 0x900 24 0xA
    ++ pick (fun i => (c.descCfg i).ownBad) 64 0x900 24 0xC
    ++ pick (fun i => fld (c.descW i 1) 63 58 != 0 || fld (c.descW i 2) 63 54 != 0) 64 0x900 24 0xC

/-- Two enabled rings that overlap. -/
def Core.ringsOverlap (c : Core) : List (Nat × Nat) :=
  c.ringRegions.flatMap fun a => c.ringRegions.filterMap fun b =>
    if decide (a.1 < b.1) && rangesMeet a.2 b.2 then some (a.1, b.1) else none

/-- Bytes of its region a tile of an UPDATE occupies for R146: the data of a dense tile (R172). -/
def DescCfg.tileLen (g : DescCfg) (sblk : Nat) : Nat := if g.op == 3 then g.tbytes / (4096 + 4096 / sblk) * 4096 else g.tbytes

/-- What R146 and R172 reject in a descriptor with its region and sets: `q` is the configuration after the load. -/
def Core.descBad (c : Core) (q : Part) (d : Nat) : Bool :=
  let g := c.descCfg d
  let e := q.region g.region
  let kind := e.kind
  let n := e.stations.length
  let set := match q.dense g.region g.ofs with
    | some (m, _) => some (q.pset m)
    | none => none
  let tile := g.tileLen (match set with
    | some p => p.sblk
    | none => 32)
  let crosses := decide (e.gran < g.ofs % e.gran + tile)
  let updateBad := match set with
    | some p => !(g.tbytes == 4096 + 4096 / p.sblk || g.tbytes == 2 * (4096 + 4096 / p.sblk)) || (g.ofs - p.plane 4) % 4096 != 0
    | none => match q.rowSet g.region g.ofs with
      | some m => kind != 2 || g.tbytes % (8 + (q.pset m).record) != 0
      | none => true
  g.valid && (!e.valid
    || (if g.op == 0 || g.op == 1 then decide (1 < kind) else kind == 1)
    || (g.op != 2 && decide (kind < 2) && (crosses || (decide (1 < g.tcount) && g.tstride % (n * e.gran) != 0)))
    || (g.op == 2 && e.gran % g.tstride != 0)
    || (g.op == 3 && updateBad)
    || (q.conf && g.op == 1 && kind == 1 && (g.ofs % e.gran != 0 || g.tbytes % e.gran != 0
        || (decide (1 < g.tcount) && g.tstride % e.gran != 0))))

/-- Enabled rings that a valid descriptor's buffers or index lists touch (R97, R146). -/
def Core.descRings (c : Core) (d : Nat) : List Nat :=
  if (c.descCfg d).valid then
    (c.ringRegions.filter fun r => (c.descCfg d).uses.any fun u => unitsMeet u.1 u.2 r.2.1 r.2.2).map (·.1)
  else []

/-- Breaches of a core's configuration space. -/
def Core.cfgBreaches (c : Core) (q : Part) (rel x y : Nat) : List Breach :=
  let cf := cfgTouch rel x y
  let incs := (List.range 64).filter fun d => (c.descCfg d).valid && (c.descCfg d).stepInc
  c.regBreaches.map (fun b => (b.2.2, [cf b.1 b.2.1]))
    ++ c.ringsOverlap.map (fun p => (0xC, [cf (0x80 + 8 * p.1) 8, cf (0x80 + 8 * p.2) 8]))
    ++ ((List.range 64).filter (c.descBad q)).map (fun d =>
        (0xC, [cf (0x900 + 24 * d) 24, ⟨5, 0, 0, 0, 16 * (c.descCfg d).region, 16⟩]
          ++ (if (c.descCfg d).op == 3 then [⟨6, 0, 0, 0, 0, 4096⟩] else [])))
    ++ ((List.range 64).flatMap fun d => (c.descRings d).map fun r => (0xC, [cf (0x900 + 24 * d) 24, cf (0x80 + 8 * r) 8]))
    ++ when (decide (1 < incs.length)) 0xC (incs.map fun d => cf (0x900 + 24 * d) 24)

end Sys2Proof.Machine
end

