-- ==== Sys2Proof/Machine/Channel.lean ====
section
/-!
DEFINITION. Channels (R96-R105): the SEND slots, draining, the landing of ring messages and direct writes, credit.
-/
namespace Sys2Proof.Machine

/-! ## Headers (R99) -/

def hdrLen (h : W64) : Nat := 8 * (fld h 7 0 + 1)
def hdrType (h : W64) : Nat := fld h 9 8
def hdrRing (h : W64) : Nat := fld h 12 10
def hdrEpoch (h : W64) : Nat := fld h 19 16
def hdrSeq (h : W64) : Nat := fld h 27 20
def hdrCnt (h : W64) : Nat := fld h 31 28
def hdrLevel (h : W64) : Nat := fld h 36 32
def hdrIndex (h : W64) : Nat := fld h 60 37
def hdrAddr (h : W64) : Nat := fld h 43 32

/-- Header of a ring message or a partial (TYPE 0, 1). -/
def ringHeader (lenM1 kind ring epoch seq level index : Nat) : W64 :=
  packW [(0, lenM1), (8, kind), (10, ring), (16, epoch), (20, seq), (32, if kind == 1 then level else 0),
    (37, if kind == 1 then index else 0)]

/-- Header of a direct write (TYPE 3). -/
def writeHeader (lenM1 epoch seq cnt addr : Nat) : W64 :=
  packW [(0, lenM1), (8, 3), (16, epoch), (20, seq), (28, cnt), (32, addr)]

/-- The wrap marker that skips `units` before the message with header `h` (R99, R101). -/
def wrapMarker (units : Nat) (h : W64) : W64 :=
  packW [(0, 2 * units - 1), (8, 2), (10, hdrRing h), (16, hdrEpoch h), (20, hdrSeq h)]

/-! ## SEND, RWRITE -/

/-- Operands of the SEND class (R48). -/
def sendPort (w : W64) : Nat := fld w 47 45
def sendAddr (w : W64) : Nat := fld w 44 33
def sendLenM1 (w : W64) : Nat := fld w 32 25
def sendRaddr (w : W64) : Nat := fld w 24 13
def sendCnt (w : W64) : Nat := fld w 12 9

/-- Epoch of the partition that holds an array (R208). -/
def State.epochOf (s : State) (sa : Nat) : Nat :=
  match (s.arr sa).part with
  | some p => (s.part p).epoch
  | none => 0

/-- Units of a payload of `n` bytes that starts at unit `a`. -/
def portUnits (a n : Nat) : List Nat := (List.range (ceilDiv n 16)).map fun i => (a + i) % 4096

/-- The port after it queues a message of `len` bytes with this header (R105), whose payload starts at unit `a`: a ring channel
spends 2F credit units and the skipped units, and its shadow write pointer moves on. -/
def OutPort.queue (q : OutPort) (chan : W64) (len a : Nat) (m : Message) : OutPort :=
  let f := msgUnits len
  let s := ringUnits (chanSize chan)
  let q1 := { q with seq := (q.seq + 1) % 256, out := some m, addr := a }
  if chanKind chan == 2 then q1
  else { q1 with credit := q.credit - (2 * f + 2 * wrapSkip s q.wp f), wp := wpAfter s q.wp f }

def State.send (s : State) (sa x y : Nat) (c : Core) (w : W64) (d : Nat) (direct : Bool) : State :=
  let p := sendPort w
  let chan := c.chanW0 p
  if !c.portReady p (2 * msgUnits (8 * (sendLenM1 w + 1))) then slotFault s sa x y c 2 d
  else
    let q := c.port p
    let w1 := c.chanW1 p
    let h := if direct then writeHeader (sendLenM1 w) (s.epochOf sa) q.seq (sendCnt w) (sendRaddr w)
      else ringHeader (sendLenM1 w) (chanKind chan) (chanRing chan) (s.epochOf sa) q.seq (fld w1 4 0) (fld w1 28 5)
    let m : Message := ⟨h, [], chan, 8 * coreKey sa x y + p⟩
    s.fire sa x y d (c.setPort p (q.queue chan (8 * (sendLenM1 w + 1)) (sendAddr w) m))

/-- SEND (R48, R99, R105): builds the header and queues the message, whose payload leaves the scratchpad as it drains (R93); a port
not ready faults (R56). -/
def execSend (sa x y : Nat) (s : State) : Answer :=
  guardUnit (coreOk sa x y) (s.withSlot sa x y 4 0 fun s c w d => s.send sa x y c w d false)

/-- RWRITE (R104). -/
def execRwrite (sa x y : Nat) (s : State) : Answer :=
  guardUnit (coreOk sa x y) (s.withSlot sa x y 4 1 fun s c w d => s.send sa x y c w d true)

/-- SEND_DRAINED (R54, R93, R105): once OUTPUTS has run, the port has read the payload in the bank accesses that slots leave it, the
message enters the array's router at the channel's entry, and the port is idle. -/
def State.drainPort (s : State) (sa x y port : Nat) (ecc : ReadEcc) : State :=
  let k := coreKey sa x y
  let c := s.core k
  let q := c.port port
  match q.out, (s.arr sa).part with
  | some m, some p =>
    if (s.part p).outputs then
      let n := hdrLen m.header - 8
      let us := portUnits q.addr n
      s.portRead sa x y us ecc fun s =>
        ((s.stir sa).setCore k (c.setPort port { q with out := none })).injectFor p (.router (s.siteOf sa)) (chanRoute m.chan)
          (.msg { m with payload := (unitBytes c.scratch us).take n })
    else s
  | _, _ => s

def execSendDrained (sa x y port : Nat) (ecc : ReadEcc) (s : State) : Answer :=
  guardUnit (coreOk sa x y && decide (port < 8)) (s.drainPort sa x y port ecc)

/-! ## Landing -/

/-- A gap in SEQ (R99): channel fault. -/
def State.channelFault (s : State) (sa x y : Nat) : State :=
  faultArr s sa { kind := 6, sa := sa, x := x, y := y, fireCycle := (s.arr sa).fireCycle }

/-- A ring after a message of `f` units lands at its write pointer (R101); a marker that lands in an empty ring is passed at
once. -/
def Ring.land (r : Ring) (size f : Nat) : Ring :=
  let skip := wrapSkip size r.wp f
  let start := if skip == 0 then r.wp else 0
  let first := r.msgs.isEmpty && skip != 0
  { r with wp := wpAfter size r.wp f, rp := if first then 0 else r.rp, seq := (r.seq + 1) % 256,
           msgs := r.msgs ++ [⟨start, f, if first then 0 else skip⟩] }

/-- The bytes a message puts into its ring (R101): its marker, then header, zeros and payload. -/
def Core.writeMsg (c : Core) (ring : Nat) (m : Message) : SMap Byte :=
  let b := ringBase (c.ringCfg ring)
  let s := c.ringSize ring
  let r := c.ring ring
  let f := msgUnits (hdrLen m.header)
  let skip := wrapSkip s r.wp f
  let body := leBytes 8 m.header.toNat ++ List.replicate 8 0 ++ m.payload
  if skip == 0 then writeUnits c.scratch (b + r.wp) body
  else writeUnits (writeUnits c.scratch (b + r.wp) (leBytes 8 (wrapMarker skip m.header).toNat ++ List.replicate 8 0)) b body

/-- The NaN words of a partial's payload as landing events (R42, R43). -/
def landEvents (m : Message) : List TrapEvent :=
  ((List.range (m.payload.length / 4)).filter fun i =>
      isNan32 (BitVec.ofNat 32 (leNat ((m.payload.drop (4 * i)).take 4)))).map fun i =>
    ⟨0, 5, 0, 0, 0, hdrIndex m.header, i, hdrLevel m.header, i⟩

/-- A ring message lands whole (R99, R101, R104, R105): a SEQ gap is a channel fault; otherwise the ring takes it, LAND_OP acts,
and in mode 2 a NaN of a partial traps. -/
def State.landRing (s0 : State) (sa x y : Nat) (t : Token) (m : Message) : State :=
  let s := s0.stir sa
  let k := coreKey sa x y
  let c := s.core k
  let g := hdrRing m.header
  let r := c.ring g
  if r.seq != hdrSeq m.header then s.channelFault sa x y
  else
    let f := msgUnits (hdrLen m.header)
    let size := c.ringSize g
    let c1 := ({ c with scratch := c.writeMsg g m }.setRing g (r.land size f)).land m.chan
    let s1 := s.setCore k c1
    let s2 := if r.msgs.isEmpty && wrapSkip size r.wp f != 0 then
        s1.credit t.part (s1.feeder t.part sa x y g) (2 * wrapSkip size r.wp f)
      else s1
    if hdrType m.header == 1 && s.trapMode sa == 2 then (s2.trapLanding sa x y (landEvents m)).latch sa else s2

/-- A token of the same channel (R97). -/
def sameChannel (m : Message) (o : Token) : Bool :=
  match o.body with
  | .msg m2 => m2.src == m.src
  | _ => false

/-- RING_MESSAGE_ARRIVAL: the token is a ring message or a partial at a core (R54, R55). -/
def execRingMessageArrival (tok mport : Nat) (s : State) : Answer :=
  guardUnit (decide (mport < 4))
    (withToken s tok fun t =>
      match t.loc, t.body with
      | .core sa x y, .msg m =>
        if hdrType m.header < 2 && (arrivalPorts x y).contains mport && s.inOrder tok (sameChannel m) then
          (s.consume tok).landRing sa x y t m
        else s
      | _, _ => s)

/-- A direct write lands whole (R104): the payload from RADDR on, counter CNT + 1, LAND_OP. -/
def State.landWrite (s0 : State) (sa x y mport : Nat) (m : Message) : State :=
  let s := s0.stir sa
  let k := coreKey sa x y
  let c := s.core k
  if SMap.look 0 c.seqs m.src != hdrSeq m.header then s.channelFault sa x y
  else
    let c1 := { c with scratch := writeUnits c.scratch (hdrAddr m.header) m.payload,
                       seqs := SMap.put 0 c.seqs m.src ((hdrSeq m.header + 1) % 256) }
    let r := c1.increment (hdrCnt m.header) 1
    s.afterCount sa x y (r.1.land m.chan, r.2)
      (counterFault sa x y (hdrCnt m.header) 1 mport 0 0 (s.arr sa).fireCycle)

/-- DIRECT_WRITE_ARRIVAL: the token is a direct write at a core. -/
def execDirectWriteArrival (tok mport : Nat) (s : State) : Answer :=
  guardUnit (decide (mport < 4))
    (withToken s tok fun t =>
      match t.loc, t.body with
      | .core sa x y, .msg m =>
        if hdrType m.header == 3 && (arrivalPorts x y).contains mport && s.inOrder tok (sameChannel m) then
          (s.consume tok).landWrite sa x y mport m
        else s
      | _, _ => s)

/-- CREDIT_RETURN (R105): the oldest credit on its way to the port is added. -/
def State.returnCredit (s : State) (sa x y port : Nat) : State :=
  let here := fun t : Token =>
    t.loc == .core sa x y && (match t.body with
      | .credit q _ => q == port
      | _ => false)
  match s.net.find? here with
  | some t =>
    match t.body with
    | .credit _ n =>
      let k := coreKey sa x y
      let c := s.core k
      let q := c.port port
      ((s.stir sa).consume t.id).setCore k (c.setPort port { q with credit := q.credit + n })
    | _ => s
  | none => s

def execCreditReturn (sa x y port : Nat) (s : State) : Answer :=
  guardUnit (coreOk sa x y && decide (port < 8)) (s.returnCredit sa x y port)

end Sys2Proof.Machine
end

