-- ==== Sys2Proof/Machine/Stream.lean ====
section
/-!
DEFINITION. The stream port of a core: SFETCH, SREL, the landing of tiles and acknowledgements (R145-R151, R153, R154, R159).
-/
namespace Sys2Proof.Machine

def streamLimit : Nat := 3
def streamState : Nat := 0xA

/-- The multicast group of a core's descriptor, if a GROUP record names it (R153, R199). -/
def Part.groupOf (q : Part) (sa x y d : Nat) : Option Nat :=
  (q.routes.find? fun r => r.kind == 2 && q.saAt r.saRel == sa && r.x == x && r.y == y && r.desc == d).map RouteRec.id

/-- ReqKind of an OP code (R145). -/
def opKind (op : Nat) : ReqKind :=
  match op with
  | 0 => .read
  | 1 => .write
  | 2 => .gather
  | _ => .update

/-- Rows of a GATHER tile, and the row indices its issuer's port reads from the scratchpad (R159). -/
def DescCfg.rowCount (g : DescCfg) : Nat := if g.tstride == 0 then 0 else g.tbytes / g.tstride
def Core.gatherRows (c : Core) (g : DescCfg) (t : Nat) : List Nat :=
  let n := g.rowCount
  let a := 16 * (g.iaddr + t % 3 * ceilDiv (8 * n) 16)
  (List.range n).map fun r => leNat ((List.range 8).map fun b => SMap.look 0 c.scratch ((a + 8 * r + b) % 65536))

/-- The bytes of a tile's buffer. -/
def Core.bufferBytes (c : Core) (g : DescCfg) (t : Nat) : List Byte :=
  (unitBytes c.scratch ((List.range g.bufUnits).map fun i => (g.buffer t + i) % 4096)).take g.tbytes

/-- Units of the scratchpad that the requests of tiles `ts` read (R148, R159): the tile's buffer, or its row indices. -/
def Core.requestUnits (c : Core) (n : Nat) (ts : List Nat) : List Nat :=
  let g := c.descCfg n
  match g.op with
  | 0 => []
  | 2 =>
    let k := ceilDiv (8 * g.rowCount) 16
    ts.flatMap fun t => (List.range k).map fun i => (g.iaddr + t % 3 * k + i) % 4096
  | _ => ts.flatMap fun t => (List.range g.bufUnits).map fun i => (g.buffer t + i) % 4096

/-- Send the request of tile `t` of a core's descriptor to its home station: it enters the trellis at the core's own router on
ROUTE (R145, R147, R148). -/
def State.sendRequest (s : State) (sa x y d t : Nat) : State :=
  let c := s.core (coreKey sa x y)
  let g := c.descCfg d
  match (s.arr sa).part with
  | none => s
  | some p =>
    let q := s.part p
    let writes := g.op == 1 || g.op == 3
    let r : Request :=
      { rid := s.nextId, kind := opKind g.op, part := p, cls := q.cls, epoch := q.epoch, sa := sa, x := x, y := y, desc := d,
        tile := t, region := g.region, offset := if g.op == 2 then g.ofs else g.ofs + t * g.tstride, len := g.tbytes,
        data := if writes then c.bufferBytes g t else [], rows := if g.op == 2 then c.gatherRows g t else [],
        step := c.stepNum, raddr := g.buffer t, resp := g.resp, host := none, arrived := 0, late := false }
    s.injectFor p (.router (s.siteOf sa)) g.route (.request r)

/-- Send the requests of tiles `t` to `t + n - 1`. -/
def State.sendRequests (s : State) (sa x y d : Nat) : Nat → Nat → State
  | _, 0 => s
  | t, n + 1 => (s.sendRequest sa x y d t).sendRequests sa x y d (t + 1) n

/-- Opening a descriptor breaks a limit of R149. -/
def Core.cannotOpen (c : Core) (d : Nat) : Bool :=
  decide (4 ≤ c.openDescs.length) || c.openDescs.any fun o => o != d && c.buffersMeet d o

/-- Tiles that an SFETCH starts: those of a READ or GATHER it opens, or the next one of a WRITE or UPDATE. -/
def Core.fetchTiles (c : Core) (n : Nat) : List Nat :=
  let g := c.descCfg n
  let v := c.desc n
  if g.op % 2 == 0 then (if v.opened || g.role != 0 then [] else List.range (min 3 g.tcount)) else [if v.opened then v.next else 0]

/-- A slot that sends requests: what its reads of the scratchpad meet (R94). -/
def State.fetched (s : State) (sa x y d : Nat) (us : List Nat) (ecc : ReadEcc) (f : State → State) : State :=
  match eccFails ecc us with
  | some u => let c := s.core (coreKey sa x y)
    (s.fire sa x y d c).scratchUe sa x y c.slot d u
  | none => (f s).scratchCe sa x y (eccFixes ecc us)

/-- SFETCH (R147-R149). -/
def State.sfetch (s : State) (sa x y : Nat) (c : Core) (w : W64) (d : Nat) : State :=
  let n := fld w 47 42
  let g := c.descCfg n
  let v := c.desc n
  let fault := fun cause => slotFault s sa x y c cause d
  if g.op == 0 || g.op == 2 then
    if v.opened then s.fire sa x y d c
    else
      let k := min 3 g.tcount
      if c.cannotOpen n || decide (6 < c.outstanding + k) then fault streamLimit
      else
        let s1 := s.fire sa x y d (c.setDesc n (v.opens k))
        if g.role == 0 then s1.sendRequests sa x y n 0 k else s1
  else if v.opened && decide (g.tcount ≤ v.next) then fault streamState
  else if (!v.opened && c.cannotOpen n) || decide (6 < c.outstanding + 1) then fault streamLimit
  else
    let v1 := if v.opened then { v with next := v.next + 1 } else v.opens 1
    let t := if v.opened then v.next else 0
    let s1 := (s.fire sa x y d (c.setDesc n v1)).sendRequest sa x y n t
    match (s.arr sa).part with
    | some p =>
      if g.op == 1 then
        let q := s1.part p
        s1.setPart p { q with openWrites := q.openWrites ++ [(coreKey sa x y, n, t, d)] }
      else s1
    | none => s1

def execSfetch (sa x y : Nat) (ecc : ReadEcc) (s : State) : Answer :=
  guardUnit (coreOk sa x y) (s.withSlot sa x y 6 0 fun s c w d =>
    let n := fld w 47 42
    s.fetched sa x y d (c.requestUnits n (c.fetchTiles n)) ecc fun s => s.sfetch sa x y c w d)

/-- The core closes a descriptor: the one whose STEPINC is 1 advances STEP_NUM (R150). -/
def Core.closeDesc (c : Core) (n : Nat) : Core :=
  let c1 := c.setDesc n (c.desc n).closes
  if (c.descCfg n).stepInc then { c1 with stepNum := c1.stepNum + 1 } else c1

/-- SREL (R147, R149, R154): releases the oldest unreleased tile t, starts tile t + 3, closes after the last tile. A member of a
group sends a release token; the request of an issuer in a group waits for the merged token. -/
def State.srel (s : State) (sa x y : Nat) (c : Core) (w : W64) (d : Nat) : State :=
  let n := fld w 47 42
  let g := c.descCfg n
  let v := c.desc n
  if g.op == 1 || g.op == 3 then s.fire sa x y d c
  else if !v.opened then slotFault s sa x y c streamState d
  else
    let t := v.head
    let more := decide (t + 3 < g.tcount)
    if more && decide (6 < c.outstanding + 1) then slotFault s sa x y c streamLimit d
    else
      let v1 := { v with head := t + 1, next := if more then v.next + 1 else v.next }
      let c1 := c.setDesc n v1
      let s1 := s.fire sa x y d (if t + 1 == g.tcount then c1.closeDesc n else c1)
      match (s.arr sa).part with
      | none => s1
      | some p =>
        match (s.part p).groupOf sa x y n with
        | some grp => s1.injectFor p (.router (s.siteOf sa)) 0 (.release grp t (4 + 24 * y + x))
        | none => if more && g.role == 0 then s1.sendRequest sa x y n (t + 3) else s1

/-- The tile whose request an SREL sends: tile t + 3 of an issuer that is in no group. -/
def State.relTiles (s : State) (sa x y n : Nat) : List Nat :=
  let c := s.core (coreKey sa x y)
  let g := c.descCfg n
  let t := (c.desc n).head
  let grouped := match (s.arr sa).part with
    | some p => ((s.part p).groupOf sa x y n).isSome
    | none => true
  if g.op % 2 == 0 && g.role == 0 && decide (t + 3 < g.tcount) && !grouped then [t + 3] else []

def execSrel (sa x y : Nat) (ecc : ReadEcc) (s : State) : Answer :=
  guardUnit (coreOk sa x y) (s.withSlot sa x y 6 1 fun s c w d =>
    let n := fld w 47 42
    s.fetched sa x y d (c.requestUnits n (s.relTiles sa x y n)) ecc fun s => s.srel sa x y c w d)

/-! ## Landing and acknowledgement (R148, R151) -/

/-- Does a landing at unit `raddr` lie in the buffer of tile `t` (R151)? -/
def DescCfg.holds (g : DescCfg) (t raddr : Nat) : Bool :=
  g.op % 2 == 0 && decide (g.buffer t ≤ raddr) && decide (raddr < g.buffer t + g.bufUnits)

/-- The descriptor that a message of tile `t` at RADDR is for (R151): one whose closed pass still waits for the tile, and whether it
is that; else the open one whose buffers hold RADDR, with the tile started. -/
def Core.landingDesc (c : Core) (raddr t : Nat) : Option (Nat × Bool) :=
  match c.descs.find? fun e => e.2.late.contains t && (c.descCfg e.1).holds t raddr with
  | some e => some (e.1, true)
  | none =>
    (c.openDescs.find? fun n =>
      (c.descCfg n).holds t raddr && decide (t < (c.desc n).next) && !(c.desc n).done.contains t).map fun n => (n, false)

/-- LCNT of a descriptor counts one tile (R151). -/
def State.countTile (s : State) (sa x y n : Nat) (c : Core) : State :=
  let g := c.descCfg n
  if g.lcntEn then
    s.afterCount sa x y (c.increment g.lcnt 1) (counterFault sa x y g.lcnt 2 0 n 0 (s.arr sa).fireCycle)
  else s.setCore (coreKey sa x y) c

/-- The message is the last of its tile: it ends where the tile does. -/
def DescCfg.endsTile (g : DescCfg) (t raddr n : Nat) : Bool := 16 * (raddr - g.buffer t) + n == g.tbytes

/-- A message of a tile lands at RADDR; a SEQ gap is a channel fault; with the tile's last byte the tile has landed (R99, R151). A
message of a closed pass lands as well, and its tile is outstanding no longer (log entry 63). -/
def State.landTile (s0 : State) (sa x y n : Nat) (late : Bool) (t raddr seq : Nat) (data : List Byte) : State :=
  let s := s0.stir sa
  let k := coreKey sa x y
  let c := s.core k
  let g := c.descCfg n
  let v := c.desc n
  let c1 := { c with scratch := writeUnits c.scratch raddr data }
  let last := g.endsTile t raddr data.length
  if late then s.setCore k (c1.setDesc n { v with late := if last then v.late.erase t else v.late })
  else if v.seq != seq then
    faultArr s sa { kind := 6, sa := sa, x := x, y := y, fireCycle := (s.arr sa).fireCycle }
  else
    let c2 := fun done => c1.setDesc n { v with done := done, seq := (seq + 1) % 256 }
    if last then s.countTile sa x y n (c2 (v.done ++ [t])) else s.setCore k (c2 v.done)

/-- TILE_LANDING: the token is a message of a tile at a core that expects it, and no older message of its descriptor is still on
its way there. -/
def execTileLanding (tok : Nat) (s : State) : Answer :=
  guardUnit true
    (withToken s tok fun t =>
      match t.loc, t.body with
      | .core sa x y, .tile src raddr n seq data =>
        let older := fun o : Token => match o.body with
          | .tile src2 _ _ _ _ => src2 == src && (o.loc == t.loc || (match o.loc with
            | .router _ => true
            | _ => false))
          | _ => false
        match (s.core (coreKey sa x y)).landingDesc raddr n with
        | some d => if s.inOrder tok older then (s.consume tok).landTile sa x y d.1 d.2 n raddr seq data else s
        | none => s
      | _, _ => s)

/-- The acknowledgement of a WRITE or UPDATE tile reaches its core (R148, R151): the last one closes the descriptor. -/
def State.ackTile (s0 : State) (sa x y n t : Nat) : State :=
  let s := s0.stir sa
  let k := coreKey sa x y
  let c := s.core k
  let g := c.descCfg n
  let v := c.desc n
  let v1 := { v with done := v.done ++ [t] }
  let c1 := c.setDesc n v1
  let s1 := s.countTile sa x y n (if v1.done.length == g.tcount then c1.closeDesc n else c1)
  match (s.arr sa).part with
  | some p =>
    let q := s1.part p
    s1.setPart p { q with openWrites := q.openWrites.filter fun w => !(w.1 == k && w.2.1 == n && w.2.2.1 == t) }
  | none => s1

/-- WRITE_ACK: the token is an acknowledgement at the core of an open descriptor. -/
def execWriteAck (tok : Nat) (s : State) : Answer :=
  guardUnit true
    (withToken s tok fun t =>
      match t.loc, t.body with
      | .core sa x y, .ack n tile =>
        if ((s.core (coreKey sa x y)).desc n).opened then (s.consume tok).ackTile sa x y n tile else s
      | _, _ => s)

end Sys2Proof.Machine
end

