-- ==== Sys2Proof/Machine/Trellis.lean ====
section
/-!
DEFINITION. The trellis: forwarding, link errors and lane sparing, route faults, merged release tokens, and the reduction
slots of routers and memory stations (R116-R134, R154).
-/
namespace Sys2Proof.Machine

/-! ## Route entries (R122) -/

def entValid (w : W64) : Bool := bitOf w 0
def entOut (w : W64) : Nat := fld w 6 1
def entNext (w : W64) : Nat := fld w 14 7
def entLane (w : W64) : Nat := fld w 18 15
def entGate (w : W64) : Nat := fld w 21 19
def entMmode (w : W64) : Bool := bitOf w 22
def entMdestX (w : W64) : Nat := fld w 27 23
def entMdestY (w : W64) : Nat := fld w 32 28
def entGroup (w : W64) : Nat := fld w 28 23
def entPart (w : W64) : Nat := fld w 38 33
def entClass (w : W64) : Nat := fld w 40 39
def entReduce (w : W64) : Bool := bitOf w 41
def entSlot (w : W64) : Nat := fld w 45 42

def Router.entry (r : Router) (e : Nat) : W64 := SMap.look 0 r.entries e

/-- Entry `e` of the router at `site`: from 240 up, the base routes (R123). -/
def State.entryAt (s : State) (site e : Nat) : W64 :=
  if e < 240 then (s.router site).entry e else if s.mgs.baseRoutes then Config.baseRoute site e else 0

/-- The service array of a site (R7). -/
def State.arrayAt (s : State) (site : Nat) : Option Nat :=
  match s.mgs.saSite.find? fun e => e.2 == site with
  | some e => some e.1
  | none => if site < 1200 && s.siteOf site == site then some site else none

/-! ## Mesh multicast (R116, R117) -/

/-- Cores next to (x, y) that an MCAST_RT entry forwards to (R116). A branch off the array's edge, gateway ports included, is dropped: R116
names no rejection and no delivery for it (DESIGN CHOICE, log entry 76). -/
def mcastNext (x y e : Nat) : List (Nat × Nat) :=
  (if e.testBit 0 && y != 0 then [(x, y - 1)] else []) ++ (if e.testBit 1 && x != 23 then [(x + 1, y)] else [])
    ++ (if e.testBit 2 && y != 23 then [(x, y + 1)] else []) ++ (if e.testBit 3 && x != 0 then [(x - 1, y)] else [])

/-- The cores a mesh group's walk lands in: `front` still to visit, `seen` those visited (R116). -/
def mcastWalk (rt : Nat → Nat → Nat) : Nat → List (Nat × Nat) → List (Nat × Nat) → List (Nat × Nat)
  | 0, _, seen => seen
  | _, [], seen => seen
  | n + 1, q :: front, seen =>
    if seen.contains q then mcastWalk rt n front seen
    else mcastWalk rt n (front ++ mcastNext q.1 q.2 (rt q.1 q.2)) (seen ++ [q])

/-- The cores of an array in which a group lands, from a gateway: each half of a flit follows the entries from its own core of the
gateway, and a message is complete where both halves land (R116, R117). -/
def State.mcastCores (s : State) (sa gate group : Nat) : List (Nat × Nat) :=
  let rt := fun x y => (s.core (coreKey sa x y)).mcastRt group
  let half := fun i => mcastWalk rt 4096 [nth (0, 0) (gateCores gate) i] []
  (half 0).filter fun q => (half 1).contains q && (rt q.1 q.2).testBit 4

/-! ## Lanes (R118) -/

/-- A port of 16 lanes: a border link, between two border routers along the edge, or the station port (dir 5 and 6); the others have 8. -/
def wideLink (site dir : Nat) : Bool :=
  let edge := fun n => n == 0 || n == 35
  if dir == 5 || dir == 6 then (stationAt site).isSome
  else if dir == 1 || dir == 3 then edge (siteRow site) && (neighbour site dir).isSome
  else edge (siteCol site) && (neighbour site dir).isSome

/-- The link lane that LANE names: on an 8-lane port, LANE modulo 8 (log entry 31). -/
def linkLane (site dir lane : Nat) : Nat := if wideLink site dir then lane else lane % 8

/-! ## Faults of routers (R124, R128) -/

/-- ROUTE_LOST (R128) for every partition that `hit` selects, with the site the record names. -/
def State.routeLostAt (s : State) (site : Nat) : List Nat → State
  | [] => s
  | p :: ps =>
    let s1 := if (s.part p).state == .none then s
      else faultPart s p { kind := 8, cause := 2, router := true, site := site }
    s1.routeLostAt site ps

/-- Partitions with a live entry of a router that `sel` selects. -/
def Router.owners (r : Router) (sel : W64 → Bool) : List Nat :=
  (List.range 64).filter fun p => r.entries.any fun e => entValid e.2 && entPart e.2 == p && sel e.2

/-- SOURCE of a link direction, and of a station port's lanes, which report under the station's own code (R293). -/
def linkSource (site dir : Nat) : Nat :=
  if dir == 5 || dir == 6 then
    let st := (stationAt site).getD 0
    if st < 40 then 0x0100 + st else if st < 48 then 0x0140 + (st - 40) else 0x0180 + (st - 48)
  else 0x2000 + 4 * site + dir

/-- Home station of a descriptor: the one that holds byte OFS (R145). -/
def Part.homeOf (q : Part) (g : DescCfg) : Nat :=
  if (q.region g.region).kind == 2 then q.home g.region (g.ofs / 65536) else (q.place g.region g.ofs).1

/-- Does partition `p` have an entry on which messages come in from station `st`: its doorbell tree, a station reduction slot's result
path, an issuer's response route (R123)? -/
def State.entersFrom (s : State) (st p : Nat) : Bool :=
  let q := s.part p
  (q.owner + 48 == st && q.dbEntry.isSome) || (q.redAt.any fun e => e.2.1 && e.2.2.1 == st)
    || (s.coresOf q.sas).any fun kc => (List.range 64).any fun d =>
      let g := kc.2.descCfg d
      g.valid && g.role == 0 && q.homeOf g == st

/-- Partitions that hold a live entry on a direction: one that leaves on it, or of the station port's inward direction one that
messages from the station take (R128). -/
def State.dirOwners (s : State) (site dir : Nat) : List Nat :=
  let r := s.router site
  if dir == 6 then (r.owners fun _ => true).filter fun p => match stationAt site with
    | some st => s.entersFrom st p
    | none => false
  else r.owners fun e => (entOut e).testBit dir

/-- A direction is declared dead (R120, R128): the tokens on it are lost, later commits avoid it, and every partition with
a live entry on it is torn down. -/
def State.killDir (s : State) (site dir : Nat) : State :=
  let r := s.router site
  if r.deadDirs.contains dir then s else
  let owners := s.dirOwners site dir
  let s1 := (s.setRouter site { r with deadDirs := r.deadDirs ++ [dir] }).event 0x0203 (linkSource site dir) noPart
    site
  ({ s1 with net := s1.net.filter fun t => t.via != some (site, dir) }).routeLostAt site owners

/-! ## Link errors (R120) -/

/-- The router that counts a link's lanes, and the direction, when the token's flits may use the lane there. -/
def linkOf (t : Token) (lane : Nat) : Option (Nat × Nat) := if t.lanes.contains lane then t.via else none

/-- Mark a lane for sparing. A marked lane of a local port, which has no spare, stays as it is: R120 gives sparing alone, and no
declaration for a port without spares (DESIGN CHOICE, log entry 78). -/
def State.markLane (s : State) (site key : Nat) : State :=
  let r := s.router site
  if r.marked.contains key then s else s.setRouter site { r with marked := r.marked ++ [key] }

/-- A corrected error: counted against its lane, which is marked past LANE_CE_LIMIT errors within LANE_CE_WINDOW. -/
def State.laneError (s : State) (site key : Nat) : State :=
  let r := s.router site
  let now := s.mgs.tick
  let recent := (r.laneCe ++ [(key, now)]).filter fun e => e.1 != key || decide (now < e.2 + s.tune.laneCeWindow * 25000000)
  let s1 := s.setRouter site { r with laneCe := recent }
  if s.tune.laneCeLimit < (recent.filter fun e => e.1 == key).length then s1.markLane site key else s1

/-! ## ROUTER_MESSAGE (R122, R124, R126, R129) -/

/-- Where an entry sends a token from `site`: one copy for each output, none where the link or the next router is dead. -/
def State.copies (s : State) (site : Nat) (t : Token) (e : W64) : List Token :=
  let r := s.router site
  let links := (List.range 4).filterMap fun d =>
    if (entOut e).testBit d && !r.deadDirs.contains d then
      match neighbour site d with
      | some n => if (s.router n).dead then none
        else some { t with loc := .router n, entry := entNext e, via := some (site, d), lanes := [linkLane site d (entLane e)] }
      | none => none
    else none
  let locals :=
    if (entOut e).testBit 4 then
      match s.arrayAt site, t.body with
      | some sa, .doorbell a x y _ _ => if a == sa then [{ t with loc := .core sa x y, via := some (site, 7), lanes := [entGate e] }] else []
      | some sa, _ =>
        (if entMmode e then s.mcastCores sa (entGate e) (entGroup e) else [(entMdestX e, entMdestY e)]).map fun q =>
          { t with loc := .core sa q.1 q.2, via := some (site, 7), lanes := [entGate e] }
      | none, _ => []
    else []
  let stas :=
    if (entOut e).testBit 5 && !r.deadDirs.contains 5 then
      match stationAt site with
      | some st => [{ t with loc := .station st, via := some (site, 5), lanes := [entLane e] }]
      | none => []
    else []
  links ++ locals ++ stas

/-- R124: the entry is not valid, or its PART or CLASS is another's: the message is discarded and counted, and the partition it
names gets ROUTE_OWNER. -/
def State.dropRoute (s : State) (site : Nat) (t : Token) : State :=
  let s1 := { s.consume t.id with tally := { s.tally with routeDrops := sat32 s.tally.routeDrops 1 } }
  if (s.part t.part).state == .none then s1
  else faultPart s1 t.part { kind := 8, cause := 1, router := true, site := site }

/-- One router handles the message at its entry. -/
def State.forward (s : State) (site : Nat) (t : Token) : State :=
  let e := s.entryAt site t.entry
  if !entValid e || entPart e != t.part || entClass e != t.cls then s.dropRoute site t
  else if entReduce e then
    match t.body with
    | .msg m => s.replaceToken t.id [{ t with loc := .redSlot site (entSlot e) (hdrIndex m.header % 2), via := none, lanes := [] }]
    | _ => s.consume t.id
  else s.replaceToken t.id (s.copies site t e)

/-- A WRITE or UPDATE waits in its port until WRITES has run (R148, R214). -/
def State.mayEnter (s : State) (t : Token) : Bool :=
  match t.body with
  | .request r => (s.part t.part).writes || r.kind == .read || r.kind == .gather
  | .release _ _ _ => false
  | _ => true

/-- The outputs at `site` that a message asks for: none that its entry does not name. -/
def State.asks (s : State) (site : Nat) (t : Token) : Nat :=
  match t.body with
  | .release _ _ _ => 0
  | _ => let e := s.entryAt site t.entry
    if entValid e && s.mayEnter t then entOut e else 0

/-- The input of its router by which a token came: link directions 0-3, 4 local port, 5 station port, 6 reduction slot. -/
def Token.input (t : Token) : Nat :=
  match t.via with
  | none => 6
  | some v => if v.2 < 4 then (v.2 + 2) % 4 else if v.2 == 4 then 4 else 5

/-- Place of an input in the round robin among class-0 messages, from the one after the last served (R134). -/
def Router.turnOf (r : Router) (t : Token) : Nat := (t.input + 6 - r.turn) % 7

/-- A message waits while another at the router asks for an output of it and goes first (R134): one of class 0 before one of another
class, and among class 0 in round robin over the inputs. -/
def State.givesWay (s : State) (site : Nat) (t : Token) : Bool :=
  s.net.any fun u => u.cls == 0 && u.loc == .router site && (s.asks site u &&& s.asks site t) != 0
    && (t.cls != 0 || decide ((s.router site).turnOf u < (s.router site).turnOf t))

/-- A class-0 message has its turn. -/
def State.tookTurn (s : State) (site : Nat) (t : Token) : State :=
  if t.cls == 0 then s.setRouter site { s.router site with turn := t.input } else s

/-- What the SECDED code of a token's flits finds where it arrives (R120): then it goes on, or it is discarded. -/
def State.flits (s : State) (t : Token) (ecc : FlitEcc) (f : State → State) : State :=
  match ecc with
  | .clean => f s
  | .corrected lane => match linkOf t lane with
    | some l => f (s.laneError l.1 (32 * l.2 + lane))
    | none => s
  | .uncorrectable lane => match linkOf t lane with
    | some l => (s.markLane l.1 (32 * l.2 + lane)).consume t.id
    | none => s

/-- ROUTER_MESSAGE: the flits' SECDED first (R120), then the entry. A dead router forwards nothing (R126). On a token that has left its
last router, the command is what the receiving end of the local or station port finds in its flits. -/
def execRouterMessage (tok : Nat) (ecc : FlitEcc) (s : State) : Answer :=
  guardUnit true
    (withToken s tok fun t =>
      match t.loc with
      | .router site =>
        if !s.mayEnter t then s
        else if (s.router site).dead then s.consume tok
        else if s.givesWay site t then s
        else s.flits t ecc fun s => (s.tookTurn site t).forward site t
      | _ => s.flits t ecc (fun s => s))

/-! ## LANE_SPARE (R120) -/

/-- Partitions that hold the array of a site or a live entry of its router are torn down (R128, R318). -/
def State.siteUsers (s : State) (site : Nat) : List Nat :=
  (((s.router site).owners fun _ => true) ++ ((s.arrayAt site).bind fun n => (s.arr n).part).toList).eraseDups

/-- A marked lane moves onto the spare, whose count of errors starts afresh (DESIGN CHOICE, log entry 78: R120 counts "against its lane"
and does not say whether the count moves); a direction that would need a second spare is declared dead. With a full soft map the site
leaves service instead, and what uses it ends (R318, R324). -/
def State.spareLane (s : State) (site dir lane : Nat) : State :=
  let r := s.router site
  let key := 32 * dir + lane
  if !r.marked.contains key then s
  else if 65536 ≤ s.mgs.softEntries && r.spared.all (fun k => k / 32 != dir) then
    (s.leaveSite site (s.arrayAt site).toList).routeLostAt site (s.siteUsers site)
  else
    let s1 := s.setRouter site { r with marked := r.marked.filter (· != key), laneCe := r.laneCe.filter fun e => e.1 != key }
    if r.spared.any fun k => k / 32 == dir then s1.killDir site dir
    else
      let r1 := s1.router site
      ({ s1.setRouter site { r1 with spared := r1.spared ++ [key] } with
          tally := { s1.tally with lanesSpared := satAdd 0xFFFF s1.tally.lanesSpared 1 } }).addSoft.event 0x0202 (linkSource site dir) noPart lane

def execLaneSpare (site dir lane : Nat) (s : State) : Answer :=
  guardUnit (siteOk site && decide (dir < 7) && decide (lane < 16))
    (if dir != 4 && (lane < 8 || wideLink site dir) then s.spareLane site dir lane else s)

/-! ## RELEASE_TOKEN (R154) -/

/-- The issuer has the merged token of tile `t`: with its own SREL of `t` it sends the request of tile t + 3. A frozen array's stream
port issues no new request: it waits for the freeze to end (R230). -/
def State.mergedRelease (s : State) (g : Tree) (t : Nat) (ecc : ReadEcc) : State :=
  let k := coreKey g.sa g.x g.y
  let c := s.core k
  let v := c.desc g.desc
  let due := v.opened && decide (t + 3 < (c.descCfg g.desc).tcount) && decide (t < v.head)
  let held := due && (s.arr g.sa).freeze.isSome
  let s1 := s.setCore k (c.setDesc g.desc { v with merged := v.merged + 1, waits := v.waits + bit held })
  if due && !held then s1.portRead g.sa g.x g.y (c.requestUnits g.desc [t + 3]) ecc fun s => s.sendRequest g.sa g.x g.y g.desc (t + 3)
  else s1

/-- Tiles whose requests wait for the end of a freeze. -/
def Desc.waitTiles (v : Desc) : List Nat := (List.range v.waits).map fun i => v.merged - v.waits + i + 3

/-- The freeze has ended: the requests that waited leave, oldest first (R230). -/
def State.sendWaits (s : State) (sa x y d : Nat) : State :=
  let k := coreKey sa x y
  let v := (s.core k).desc d
  if v.waits == 0 then s
  else v.waitTiles.foldl (fun s t => s.sendRequest sa x y d t)
    (s.setCore k ((s.core k).setDesc d { v with waits := 0 }))

/-- The cores of a list send their waiting requests; `errs` is what their reads of row indices meet (R94). -/
def State.sendAllWaits (s : State) (errs : List (Nat × ReadEcc)) : List (Nat × Core) → State
  | [] => s
  | kc :: l =>
    let us := (List.range 64).flatMap fun d => kc.2.requestUnits d (kc.2.desc d).waitTiles
    (s.portRead (keyArr kc.1) (keyX kc.1) (keyY kc.1) us (eccOf errs kc.1) fun s =>
      (List.range 64).foldl (fun s d => s.sendWaits (keyArr kc.1) (keyX kc.1) (keyY kc.1) d) s).sendAllWaits errs l

def Token.isRelease (t : Token) : Bool :=
  match t.body with
  | .release _ _ _ => true
  | _ => false

/-- A branch of a node delivers its token: when every branch has, the merged token goes on towards the issuer. -/
def State.releaseAt (s : State) (site : Nat) (tok : Token) (g : Tree) (tile branch : Nat) (ecc : ReadEcc) :
    State :=
  match g.nodes.find? fun n => n.1 == site with
  | none => s.consume tok.id
  | some (_, parent, branches) =>
    let r := s.router site
    let key := 65536 * tok.part + g.group
    let held := r.releases ++ [(key, tile, branch)]
    if branches.all fun b => held.contains (key, tile, b) then
      let s1 := s.setRouter site { r with releases := branches.foldl (fun l b => l.erase (key, tile, b)) held }
      if site == g.root then (s1.consume tok.id).mergedRelease g tile ecc
      else
        let dir := ((List.range 4).find? fun d => neighbour parent d == some site).getD 0
        s1.replaceToken tok.id [{ tok with loc := .router parent, body := .release g.group tile dir }]
    else (s.setRouter site { r with releases := held }).consume tok.id

def execReleaseToken (tok : Nat) (ecc : ReadEcc) (s : State) : Answer :=
  guardUnit true
    (withToken s tok fun t =>
      match t.loc, t.body with
      | .router site, .release g tile branch =>
        if t.cls != 0 && s.net.any (fun u => u.cls == 0 && u.loc == .router site && u.isRelease) then s
        else match (s.part t.part).trees.find? fun h => h.group == g with
        | some h => s.releaseAt site t h tile branch ecc
        | none => s.consume tok
      | _, _ => s)

/-! ## Reduction slots (R130-R133) -/

def redValid (w : W64) : Bool := bitOf w 0
def redLevel (w : W64) : Nat := fld w 5 1
def redJout (w : W64) : Nat := fld w 29 6
def redOut (w : W64) : Nat := fld w 37 30
def redLenM1 (w : W64) : Nat := fld w 45 38

/-- A partial breaks the slot's plan (R132). -/
def redMismatch (w : W64) (b : RedBuf) (m : Message) : Bool :=
  hdrLevel m.header != redLevel w || hdrIndex m.header / 2 != redJout w || fld m.header 7 0 != redLenM1 w
    || (if hdrIndex m.header % 2 == 0 then b.side0.isSome else b.side1.isSome)

/-- The SEQ a side expects next (R99). -/
def RedBuf.sideSeq (b : RedBuf) (side : Nat) : Nat := if side == 0 then b.seq0 else b.seq1

/-- The buffer with a message on its side; the side's buffer counts as a 4 KiB ring of 256 units (R130). Also the units a wrap
marker skipped, whose credit returns at once. -/
def RedBuf.take (b : RedBuf) (m : Message) : RedBuf × Nat :=
  let f := msgUnits (hdrLen m.header)
  if hdrIndex m.header % 2 == 0 then
    ({ b with side0 := some m, seq0 := (b.seq0 + 1) % 256, wp0 := wpAfter 256 b.wp0 f }, wrapSkip 256 b.wp0 f)
  else ({ b with side1 := some m, seq1 := (b.seq1 + 1) % 256, wp1 := wpAfter 256 b.wp1 f }, wrapSkip 256 b.wp1 f)

/-- Who sent a message: the outbound port its `src` names, or the reduction slot (numbers from 2^40 router slots, 2^41 station
slots). -/
def srcFeeder (src : Nat) : Option Feeder :=
  if src < 2 ^ 40 then
    let k := src / 8
    some (.port (keyArr k) (keyX k) (keyY k) (src % 8))
  else if src < 2 ^ 41 then some (.redSlot ((src - 2 ^ 40) / 16) (src % 16))
  else some (.staSlot ((src - 2 ^ 41) / 64) (src % 64))

/-- The reduction point a message's sender delivers to (R199). -/
def Part.redTarget (q : Part) (src : Nat) : Option Nat :=
  match srcFeeder src with
  | some (.port sa x y port) =>
    (q.routes.find? fun r => r.kind == 1 && r.toRed && q.saAt r.saRel == sa && r.x == x && r.y == y && r.port == port).map
      RouteRec.destRed
  | some (.redSlot site slot) =>
    match q.redAt.find? fun e => !e.2.1 && e.2.2.1 == site && e.2.2.2 == slot with
    | some e => (q.redPoint e.1).map RouteRec.destRed
    | none => none
  | some (.staSlot ms slot) =>
    match q.redAt.find? fun e => e.2.1 && e.2.2.1 == ms && e.2.2.2 == slot with
    | some e => (q.redPoint e.1).map RouteRec.destRed
    | none => none
  | none => none

/-- A partial reaches a slot with plan `w` and buffers `b`; `put` stores the buffers, `f` is the slot's fault record. -/
def State.redInput (s : State) (t : Token) (m : Message) (w : W64) (b : RedBuf) (put : State → RedBuf → State)
    (f : FaultInfo) : State :=
  let s1 := s.consume t.id
  if !redValid w || redPart w != t.part then s1
  else if redMismatch w b m then faultPart s1 t.part { f with kind := 4, cause := 9 }
  else if b.sideSeq (hdrIndex m.header % 2) != hdrSeq m.header then faultPart s1 t.part { f with kind := 6, cause := 0 }
  else
    let r := b.take m
    let s2 := put s1 r.1
    if r.2 == 0 then s2 else s2.credit t.part (srcFeeder m.src) (2 * r.2)

/-- REDUCTION_INPUT (R132). -/
def execReductionInput (tok : Nat) (s : State) : Answer :=
  guardUnit true
    (withToken s tok fun t =>
      match t.loc, t.body with
      | .redSlot site slot _, .msg m =>
        if s.inOrder tok (sameChannel m) then
          let r := s.router site
          s.redInput t m (SMap.look 0 r.red slot) (SMap.look RedBuf.reset r.bufs slot)
            (fun s b => let r := s.router site
              s.setRouter site { r with bufs := SMap.put RedBuf.reset r.bufs slot b })
            { kind := 4, router := true, site := site, rslot := slot }
        else s
      | _, _ => s)

/-- STATION_RED_INPUT (R133): the partial is at the station; the slot is the one of its partition whose plan names its node. -/
def execStationRedInput (tok : Nat) (s : State) : Answer :=
  guardUnit true
    (withToken s tok fun t =>
      match t.loc, t.body with
      | .station st, .msg m =>
        if decide (st < 40) && s.inOrder tok (sameChannel m) then
          let q := s.part t.part
          let slot := match q.redAt.find? fun e => e.2.1 && e.2.2.1 == st && some e.1 == q.redTarget m.src with
            | some e => e.2.2.2
            | none => 0
          let x := s.mem st
          s.redInput t m (SMap.look 0 x.red slot) (SMap.look RedBuf.reset x.bufs slot)
            (fun s b => let x := s.mem st
              s.setMem st { x with bufs := SMap.put RedBuf.reset x.bufs slot b })
            { kind := 4, router := true, site := attachSite st, staRed := true, station := st, sslot := slot }
        else s
      | _, _ => s)

/-- Add two payloads word by word with the node function (R28, R131). -/
def addWords : List Byte → List Byte → Nat → List Byte
  | _, _, 0 => []
  | a, b, n + 1 =>
    let v := (add32 (BitVec.ofNat 32 (leNat (a.take 4))) (BitVec.ofNat 32 (leNat (b.take 4)))).1
    leBytes 4 v.toNat ++ addWords (a.drop 4) (b.drop 4) n

/-- Size in units of the ring or buffer the slot's result goes to (R105, R131), from the REDUCE record. -/
def State.redDestUnits (s : State) (q : Part) (r : RouteRec) : Nat :=
  if r.toRed then 256 else (s.core (coreKey (q.saAt r.destSa) r.destX r.destY)).ringSize r.destRing

/-- The result of a slot (R131): its message, and the buffers after it. `none`: a side is missing, or the credit towards the
destination does not cover it. EPOCH is that of side 0: R131 takes it from "the inputs", and does not say from which where they differ
(DESIGN CHOICE, log entry 72). -/
def redResult (w : W64) (b : RedBuf) (ring destUnits src : Nat) (chan : W64) : Option (Message × RedBuf × Message × Message) :=
  match b.side0, b.side1 with
  | some m0, some m1 =>
    let f := msgUnits (hdrLen m0.header)
    let cost := 2 * f + 2 * wrapSkip destUnits b.wp f
    if b.credit < cost then none
    else
      let h := ringHeader (redLenM1 w) 1 ring (hdrEpoch m0.header) b.seq (redLevel w + 1) (redJout w)
      some (⟨h, addWords m0.payload m1.payload (m0.payload.length / 4), chan, src⟩,
        { b with side0 := none, side1 := none, seq := (b.seq + 1) % 256, credit := b.credit - cost,
                 wp := wpAfter destUnits b.wp f }, m0, m1)
  | _, _ => none

/-- Where the result of a slot's point goes: the ring, the destination's size and the CHAN_CFG word its message carries (no
LAND_FLAG). -/
def State.redDest (s : State) (p : Nat) (here : Nat × Bool × Nat × Nat → Bool) : Option (Nat × Nat × W64) :=
  let q := s.part p
  match q.redAt.find? here with
  | none => none
  | some e =>
    match q.redPoint e.1 with
    | none => none
    | some r => some (if r.toRed then 0 else r.destRing, s.redDestUnits q r, packW [(32, 63)])

/-- Is slot `slot` of a router, or of a station, ready: both sides present, and credit for the result? -/
def State.redReady (s : State) (sta : Bool) (n slot : Nat) : Bool :=
  let w := SMap.look 0 (if sta then (s.mem n).red else (s.router n).red) slot
  let b := SMap.look RedBuf.reset (if sta then (s.mem n).bufs else (s.router n).bufs) slot
  match s.redDest (redPart w) fun e => e.2.1 == sta && e.2.2.1 == n && e.2.2.2 == slot with
  | none => false
  | some d => (redResult w b d.1 d.2.1 0 d.2.2).isSome

/-- Is slot `slot` of a router, or of a station, one of a class-0 partition? -/
def State.redFirst (s : State) (sta : Bool) (n slot : Nat) : Bool :=
  (s.part (redPart (SMap.look 0 (if sta then (s.mem n).red else (s.router n).red) slot))).cls == 0

/-- The slot that the adder serves next: a ready one of class 0 first, in round robin from the one after the last such, then the
others in increasing slot number (R131, R133, R134). -/
def State.redNext (s : State) (sta : Bool) (n : Nat) : Option Nat :=
  let turn := if sta then (s.mem n).redTurn else (s.router n).redTurn
  let ready := (List.range (if sta then 64 else 16)).filter (s.redReady sta n)
  let first := ready.filter (s.redFirst sta n)
  (first.find? fun k => decide (turn ≤ k)) <|> first.head? <|> ready.head?

/-- The adder's turn after it has served a slot. -/
def State.redTurnAfter (s : State) (sta : Bool) (n slot : Nat) : Nat :=
  if s.redFirst sta n slot then slot + 1 else if sta then (s.mem n).redTurn else (s.router n).redTurn

/-- REDUCTION_ADD (R131): with both sides present and credit, the parent node leaves on OUT_ENTRY and the inputs' credit
returns. -/
def State.redAdd (s : State) (site slot : Nat) : State :=
  let r := s.router site
  let w := SMap.look 0 r.red slot
  let p := redPart w
  match s.redDest p fun e => !e.2.1 && e.2.2.1 == site && e.2.2.2 == slot with
  | none => s
  | some d =>
    match redResult w (SMap.look RedBuf.reset r.bufs slot) d.1 d.2.1 (2 ^ 40 + 16 * site + slot) d.2.2 with
    | none => s
    | some (m, b, m0, m1) =>
      let n := 2 * msgUnits (hdrLen m0.header)
      let s1 := (s.setRouter site { r with bufs := SMap.put RedBuf.reset r.bufs slot b, redTurn := s.redTurnAfter false site slot }).inject
        p (s.part p).cls
        (hdrEpoch m0.header) (.router site) (redOut w) (.msg m)
      (s1.credit p (srcFeeder m0.src) n).credit p (srcFeeder m1.src) n

def execReductionAdd (site slot : Nat) (s : State) : Answer :=
  guardUnit (siteOk site && decide (slot < 16)) (if s.redNext false site == some slot then s.redAdd site slot else s)

/-- STATION_RED_ADD (R133): as REDUCTION_ADD; the result leaves on OUT_ENTRY of the station's attach router. -/
def State.staRedAdd (s : State) (ms slot : Nat) : State :=
  let x := s.mem ms
  let w := SMap.look 0 x.red slot
  let p := redPart w
  match s.redDest p fun e => e.2.1 && e.2.2.1 == ms && e.2.2.2 == slot with
  | none => s
  | some d =>
    match redResult w (SMap.look RedBuf.reset x.bufs slot) d.1 d.2.1 (2 ^ 41 + 64 * ms + slot) d.2.2 with
    | none => s
    | some (m, b, m0, m1) =>
      let n := 2 * msgUnits (hdrLen m0.header)
      let s1 := (s.setMem ms { x with bufs := SMap.put RedBuf.reset x.bufs slot b, redTurn := s.redTurnAfter true ms slot }).inject
        p (s.part p).cls
        (hdrEpoch m0.header) (.router (attachSite ms)) (redOut w) (.msg m)
      (s1.credit p (srcFeeder m0.src) n).credit p (srcFeeder m1.src) n

def execStationRedAdd (ms slot : Nat) (s : State) : Answer :=
  guardUnit (msOk ms && decide (slot < 64)) (if s.redNext true ms == some slot then s.staRedAdd ms slot else s)

end Sys2Proof.Machine
end

