-- ==== Sys2Proof/Machine/Verify.lean ====
section
/-!
DEFINITION. The skein loader's checks that take several cores or tables together: regions, route records, channels, ranks,
reduction plans, groups, mesh groups and parameter sets (R30, R97, R98, R116, R130, R138, R153, R170, R178, R187, R199).
-/
namespace Sys2Proof.Machine

/-! ## Region, set and record entries taken alone (R138, R169, R170, R199) -/

/-- A REGION_ENT that the loader rejects. -/
def regionBad (r : RegionEnt) : Bool :=
  let n := r.stations.length
  fld r.w0 63 47 != 0 || fld r.w1 63 42 != 0
    || (r.valid && (r.kind == 3 || fld r.w0 5 3 == 7 || n == 0 || (n != 0 && r.size % (n * r.gran) != 0)
      || (r.kind == 2 && (n != 40 || fld r.w0 5 3 != 6))))

/-- A PSET_ENT that the loader rejects by its own values. -/
def psetBad (w : Nat → W64) : Bool :=
  let p := psetOf w
  fld (w 0) 63 38 != 0 || fld (w 1) 63 42 != 0 || fld (w 2) 63 42 != 0 || fld (w 6) 63 48 != 0 || fld (w 7) 63 32 != 0
    || (p.valid && (p.cfmt == 0 || p.cfmt == 2 || (p.cscale && p.cfmt == 1) || decide (4 < p.sblkCode) || p.n == 0
      || p.n % 4096 != 0 || p.base % 65536 != 0
      || (p.rowForm && (p.rowLen % p.sblk != 0 || 4096 % p.rowLen != 0 || p.digest))))

/-- A PSET_ENT whose CFMT is a reserved format code (R18). -/
def psetFormat (w : Nat → W64) : Bool := fmtReserved (psetOf w).cfmt

/-- Bits of a route record's words that its kind uses (R199). -/
def recordMask (kind : Nat) : Nat × Nat × Nat :=
  match kind with
  | 1 => (0xFFFF000F, 2 ^ 24 - 1, 2 ^ 38 - 1)
  | 2 => (0xFFFF000F, 2 ^ 28 - 1, 0)
  | _ => (0xFFFF000F, 2 ^ 55 - 1, 2 ^ 41 - 1)

/-- Reasons a route record is rejected for by its own values. -/
def recordBreaches (saCount : Nat) (r : RouteRec) (t : List Touch) : List Breach :=
  let k := r.kind
  let m := recordMask k
  let out := fun (w : W64) (mask : Nat) => w.toNat &&& mask != w.toNat
  let dest := (k == 1 || k == 3) && !r.toRed && (decide (saCount ≤ r.destSa) || decide (23 < r.destX) || decide (23 < r.destY))
  when (k == 0 || decide (3 < k) || out r.w0 m.1 || out r.w1 m.2.1 || out r.w2 m.2.2 || r.w3 != 0) 8 t
    ++ when ((decide (k < 3) && (decide (saCount ≤ r.saRel) || decide (23 < r.x) || decide (23 < r.y))) || dest
      || (k == 3 && (decide (saCount ≤ r.saRel) || (r.atStation && decide (39 < r.station))))) 9 t
    ++ when (k == 3 && decide (30 < r.level)) 0xE t

/-- Two records of one ID, source port or member, or two issuers of one group (R153, R199). -/
def twinBreaches (a b : RouteRec) (t : List Touch) : List Breach :=
  let core := a.saRel == b.saRel && a.x == b.x && a.y == b.y
  when (a.kind == 1 && b.kind == 1 && (a.id == b.id || (core && a.port == b.port))) 0xC t
    ++ when (a.kind == 2 && b.kind == 2 && a.id == b.id && ((core && a.desc == b.desc) || (a.issuer && b.issuer))) 0xC t
    ++ when (a.kind == 3 && b.kind == 3 && a.id == b.id) 0xE t

/-- Pairs of a list, the earlier first. -/
def pairs {α : Type} : List α → List (α × α)
  | [] => []
  | a :: l => l.map (a, ·) ++ pairs l

/-- From a reduction point the chain of points comes back to one it has passed (R98); `n` bounds its points. -/
def Part.chainRuns (q : Part) : Nat → RouteRec → Bool
  | 0, _ => true
  | n + 1, r =>
    if r.toRed then
      match q.redPoint r.destRed with
      | some o => q.chainRuns n o
      | none => false
    else false
def Part.chainLoops (q : Part) (r : RouteRec) : Bool := q.chainRuns (q.routes.length + 1) r

/-! ## The configuration after the load -/

/-- A core as the load would make it live: its shadows. -/
def Core.after (c : Core) : Core := { c with prog := c.progShadow, cfg := c.cfgShadow }

/-- Does a live CHANNEL record stay (R97)? No record of the skein binds its port, whose CHAN_CFG is unchanged but for ROUTE and
enabled. A live GROUP or REDUCE record stays unless the skein has one with its member descriptor or its ID (log entry 26). -/
def recordStays (s : State) (q : Part) (r : RouteRec) : Bool :=
  let c := s.core (coreKey (q.saAt r.saRel) r.x r.y)
  let same := fun o : RouteRec => o.saRel == r.saRel && o.x == r.x && o.y == r.y
  match r.kind with
  | 1 =>
    let keep := fun w : W64 => w &&& ~~~0xFF#64
    chanEnable (c.after.chanW0 r.port) && keep (c.after.chanW0 r.port) == keep (c.chanW0 r.port)
      && c.after.chanW1 r.port == c.chanW1 r.port && !(q.routesShadow.any fun o => o.kind == 1 && same o && o.port == r.port)
  | 2 => !(q.routesShadow.any fun o => o.kind == 2 && same o && o.desc == r.desc)
  | _ => !(q.routesShadow.any fun o => o.kind == 3 && o.id == r.id)

/-- The partition as the load would make it live, with the settings of header `h`. -/
def State.afterLoad (s : State) (p : Nat) (h : List Byte) : Part :=
  let q := s.part p
  { q with regions := q.regionsShadow, psets := q.psetsShadow, graph := q.graphShadow, set := headerSettings h
           routes := q.routes.filter (recordStays s q) ++ q.routesShadow.filter fun r => r.kind != 0 }

/-- Core (rel, x, y) of the partition after the load. -/
def State.coreAfter (s : State) (q : Part) (rel x y : Nat) : Core := (s.core (coreKey (q.saAt rel) x y)).after

/-- The cores the state lists of the partition: (rel, x, y, core after the load). -/
def State.coresAfter (s : State) (q : Part) : List (Nat × Nat × Nat × Core) :=
  (s.coresOf q.sas).map fun kc => (q.relOf (keyArr kc.1), keyX kc.1, keyY kc.1, kc.2.after)

/-! ## Channels (R97, R98) -/

/-- A channel of the configuration: where it starts, its CHAN_CFG words and its record. -/
structure Chan where
  rel : Nat
  x : Nat
  y : Nat
  port : Nat
  w0 : W64
  w1 : W64
  r : RouteRec
  deriving DecidableEq, Repr

/-- The channels with a record and an enabled port. -/
def State.chans (s : State) (q : Part) : List Chan :=
  (q.routes.filter fun r => r.kind == 1).filterMap fun r =>
    let c := s.coreAfter q r.saRel r.x r.y
    if chanEnable (c.chanW0 r.port) then some ⟨r.saRel, r.x, r.y, r.port, c.chanW0 r.port, c.chanW1 r.port, r⟩ else none

/-- The record of the load among all, as a touched value: records of the skein stand after the live ones. -/
def Part.recTouch (q : Part) (live : Part) (r : RouteRec) : List Touch :=
  match live.routesShadow.findIdx? (· == r) with
  | some i => if q.routes.contains r then [⟨4, 0, 0, 0, 32 * i, 32⟩] else []
  | none => []

def Chan.touches (q live : Part) (c : Chan) : List Touch := cfgTouch c.rel c.x c.y (16 * c.port) 16 :: q.recTouch live c.r
def Chan.destIs (c : Chan) (rel x y : Nat) : Bool := !c.r.toRed && c.r.destSa == rel && c.r.destX == x && c.r.destY == y
def Chan.same (a b : Chan) : Bool := a.rel == b.rel && a.x == b.x && a.y == b.y && a.port == b.port

/-- The slots of a core's program before and at its first HALT. -/
def Core.slots (c : Core) : List W64 := (cutHalt 1024 c.bank).getD []

/-- LEN_M1 and RADDR of the SENDs and RWRITEs on a port, with the slot. -/
def Core.sends (c : Core) (port : Nat) : List (Nat × Nat × Nat) :=
  c.slots.zipIdx.filterMap fun q =>
    if slotClass q.1 == 4 && fld q.1 47 45 == port then some (q.2, fld q.1 32 25, fld q.1 24 13) else none

/-- Breaches of one channel against its destination (R97, R146). -/
def State.chanDest (s : State) (q live : Part) (c : Chan) : List Breach :=
  let ts := c.touches q live
  if c.r.toRed then when (chanKind c.w0 != 1 || chanSize c.w0 != 4 || chanRing c.w0 != 0) 0xE ts
  else
    let d := s.coreAfter q c.r.destSa c.r.destX c.r.destY
    let cf := cfgTouch c.r.destSa c.r.destX c.r.destY
    if chanKind c.w0 != 2 then
      let w := d.ringCfg (chanRing c.w0)
      when (!ringOn w || ringSizeCode w != chanSize c.w0) 0xC (cf (0x80 + 8 * chanRing c.w0) 8 :: ts)
    else
      ((s.coreAfter q c.rel c.x c.y).sends c.port).flatMap fun f =>
        let n := payloadUnits f.2.1
        let me := progTouch c.rel c.x c.y f.1
        (match d.ringHit f.2.2 n with
          | some k => [(0xC, me :: cf (0x80 + 8 * k) 8 :: ts)]
          | none => [])
        ++ ((List.range 64).filter fun g => (d.descCfg g).valid && (d.descCfg g).op % 2 == 0
              && (d.descCfg g).uses.head?.any fun u => unitsMeet f.2.2 n u.1 u.2).map fun g =>
            (0xC, me :: cf (0x900 + 24 * g) 24 :: ts)

/-- Two channels into one ring; two records of one ID or one port (R97, R199). -/
def chanPairs (q live : Part) (cs : List Chan) : List Breach :=
  (pairs cs).flatMap fun p =>
    when (p.1.r.id == p.2.r.id || p.1.same p.2 || (!p.1.r.toRed && p.2.destIs p.1.r.destSa p.1.r.destX p.1.r.destY
        && chanKind p.1.w0 != 2 && chanKind p.2.w0 != 2 && chanRing p.1.w0 == chanRing p.2.w0))
      0xC (p.1.touches q live ++ p.2.touches q live)

/-- A record whose port is not enabled, and a port that no record binds (R97). -/
def State.portBreaches (s : State) (q live : Part) : List Breach :=
  (q.routes.filter fun r => r.kind == 1).flatMap (fun r =>
    when (!chanEnable ((s.coreAfter q r.saRel r.x r.y).chanW0 r.port)) 0xC
      (cfgTouch r.saRel r.x r.y (16 * r.port) 16 :: q.recTouch live r))
  ++ (s.coresAfter q).flatMap fun c => ((List.range 8).filter fun p => chanEnable (c.2.2.2.chanW0 p)
      && !(q.routes.any fun r => r.kind == 1 && r.saRel == c.1 && r.x == c.2.1 && r.y == c.2.2.1 && r.port == p)).map fun p =>
        (0xC, [cfgTouch c.1 c.2.1 c.2.2.1 (16 * p) 16])

/-- The core a chain of reduction points delivers to; none: the chain loops or names an absent point (R98). -/
def Part.endCore (q : Part) : Nat → RouteRec → Option (Nat × Nat × Nat)
  | 0, _ => none
  | n + 1, r =>
    if r.toRed then
      match q.redPoint r.destRed with
      | some o => q.endCore n o
      | none => none
    else some (r.destSa, r.destX, r.destY)

/-- A chain has at most as many points as there are records. -/
def Part.endOf (q : Part) (r : RouteRec) : Option (Nat × Nat × Nat) := q.endCore (q.routes.length + 1) r

/-- R98: a channel's rank is below that of every channel its end core sends on. -/
def rankBreaches (q live : Part) (cs : List Chan) : List Breach :=
  cs.flatMap fun c => match q.endOf c.r with
    | none => []
    | some e => (cs.filter fun d => d.rel == e.1 && d.x == e.2.1 && d.y == e.2.2 && decide (chanRank d.w0 ≤ chanRank c.w0)).map fun d =>
        (0xD, c.touches q live ++ d.touches q live)

/-! ## Reduction points (R30, R130) -/

/-- What a point receives: (level, index, the values involved). -/
def Part.redInputs (q live : Part) (cs : List Chan) (r : RouteRec) : List (Nat × Nat × List Touch) :=
  (cs.filter fun c => c.r.toRed && c.r.destRed == r.id).map (fun c => (fld c.w1 4 0, fld c.w1 28 5, c.touches q live))
  ++ (q.routes.filter fun o => o.kind == 3 && o.toRed && o.destRed == r.id).map fun o =>
    (o.level + 1, o.jout, q.recTouch live o)

/-- The lengths of what a point receives: (LEN_M1, the values involved). -/
def State.redLens (s : State) (q live : Part) (cs : List Chan) (r : RouteRec) : List (Nat × List Touch) :=
  (cs.filter fun c => c.r.toRed && c.r.destRed == r.id).flatMap (fun c =>
    ((s.coreAfter q c.rel c.x c.y).sends c.port).map fun f => (f.2.1, progTouch c.rel c.x c.y f.1 :: c.touches q live))
  ++ (q.routes.filter fun o => o.kind == 3 && o.toRed && o.destRed == r.id).map fun o => (o.lenM1, q.recTouch live o)

/-- Breaches of a REDUCE record: its two inputs are nodes (m, 2J) and (m, 2J + 1), of its length (R30, R130). -/
def State.redBreaches (s : State) (q live : Part) (cs : List Chan) (r : RouteRec) : List Breach :=
  let ins := q.redInputs live cs r
  let me := q.recTouch live r
  when (decide (30 < r.level) || ins.any (fun i => i.1 != r.level || i.2.1 / 2 != r.jout)
      || (ins.filter fun i => i.2.1 % 2 == 0).length != 1 || (ins.filter fun i => i.2.1 % 2 == 1).length != 1
      || (q.endOf r).isNone) 0xE (me ++ ins.flatMap fun i => i.2.2)
    ++ ((s.redLens q live cs r).filter fun i => i.1 != r.lenM1).map fun i => (0xE, me ++ i.2)

/-- A result that goes to a ring: the ring is enabled, nothing else feeds it, and a result fits half of it (R97, R102). -/
def State.redRing (s : State) (q live : Part) (cs : List Chan) (r : RouteRec) : List Breach :=
  if r.toRed then []
  else
    let w := (s.coreAfter q r.destSa r.destX r.destY).ringCfg r.destRing
    when (!ringOn w || decide (ringUnits (ringSizeCode w) < 2 * msgUnits (8 * (r.lenM1 + 1)))) 0xC
      (cfgTouch r.destSa r.destX r.destY (0x80 + 8 * r.destRing) 8 :: q.recTouch live r)
    ++ when ((cs.any fun c => c.destIs r.destSa r.destX r.destY && chanKind c.w0 != 2 && chanRing c.w0 == r.destRing)
        || (q.routes.filter fun o => o.kind == 3 && !o.toRed && o.destSa == r.destSa && o.destX == r.destX && o.destY == r.destY
          && o.destRing == r.destRing).length != 1) 0xC (q.recTouch live r)

/-- R199's plan breaches: duplicate IDs and references to absent points. -/
def planBreaches (q live : Part) : List Breach :=
  (pairs (q.routes.filter fun r => r.kind == 3)).flatMap (fun p =>
    when (p.1.id == p.2.id) 0xE (q.recTouch live p.1 ++ q.recTouch live p.2))
  ++ (q.routes.filter fun r => (r.kind == 1 || r.kind == 3) && r.toRed && (q.redPoint r.destRed).isNone).map fun r =>
    (0xE, q.recTouch live r)

/-! ## Groups (R153) and mesh groups (R116) -/

def DescCfg.sig (g : DescCfg) : List Nat := [g.op, g.region, g.fmt, g.laddr, g.tbytes, g.tcount, g.ofs, g.tstride]

/-- Breaches of multicast groups and of subscribers without one. -/
def State.groupBreaches (s : State) (q live : Part) : List Breach :=
  let recs := q.routes.filter fun r => r.kind == 2
  let cfg := fun r : RouteRec => (s.coreAfter q r.saRel r.x r.y).descCfg r.desc
  let ts := fun r : RouteRec => cfgTouch r.saRel r.x r.y (0x900 + 24 * r.desc) 24 :: q.recTouch live r
  (pairs recs).flatMap (fun p =>
      when (p.1.id == p.2.id && ((cfg p.1).sig != (cfg p.2).sig
        || (p.1.saRel == p.2.saRel && p.1.x == p.2.x && p.1.y == p.2.y && p.1.desc == p.2.desc))) 0xC (ts p.1 ++ ts p.2))
    ++ recs.flatMap (fun r =>
      when ((recs.filter fun o => o.id == r.id && o.issuer).length != 1 || !(cfg r).valid
        || (cfg r).role != (if r.issuer then 0 else 1)) 0xC (ts r))
    ++ (s.coresAfter q).flatMap fun c => ((List.range 64).filter fun d =>
        let g := c.2.2.2.descCfg d
        g.valid && g.role == 1 && g.op % 2 == 0
          && !(recs.any fun r => r.saRel == c.1 && r.x == c.2.1 && r.y == c.2.2.1 && r.desc == d)).map fun d =>
        (0xC, [cfgTouch c.1 c.2.1 c.2.2.1 (0x900 + 24 * d) 24])

/-- A group's walk reaches no core twice and none without an entry; `seen` are the cores visited (R116). -/
def walkOk (rt : Nat → Nat → Nat) : Nat → List (Nat × Nat) → List (Nat × Nat) → Bool
  | 0, front, _ => front.isEmpty
  | _, [], _ => true
  | n + 1, c :: front, seen =>
    if seen.contains c || rt c.1 c.2 == 0 then false
    else walkOk rt n (front ++ mcastNext c.1 c.2 (rt c.1 c.2)) (c :: seen)

/-- Breaches of the mesh groups of one array. -/
def State.meshBreaches (s : State) (q : Part) (rel : Nat) : List Breach :=
  (List.range 64).flatMap fun g =>
    let rt := fun x y => (s.coreAfter q rel x y).mcastRt g
    let cores := (List.range 576).map fun i => (i % 24, i / 24)
    match cores.find? fun c => (rt c.1 c.2).testBit 4 with
    | none => []
    | some m =>
      let ok := (gateCores (gateOf m.1 m.2)).all fun c => walkOk rt 600 [c] []
      when (!ok) 0xC ((cores.filter fun c => rt c.1 c.2 != 0).map fun c => cfgTouch rel c.1 c.2 (0x200 + g) 1)

/-! ## Regions and sets together (R138, R170, R178, R187) -/

def regionTouch (r : Nat) : Touch := ⟨5, 0, 0, 0, 16 * r, 16⟩
def psetTouch (n : Nat) : Touch := ⟨6, 0, 0, 0, 64 * n, 64⟩

/-- Entries that the loader rejects by their own values. -/
def entryBreaches (q : Part) : List Breach :=
  ((List.range 64).filter fun r => regionBad (q.region r)).map (fun r => (0xC, [regionTouch r]))
    ++ ((List.range 64).filter fun n => psetBad fun k => SMap.look 0 q.psets (8 * n + k)).map (fun n => (0xF, [psetTouch n]))
    ++ ((List.range 64).filter fun n => psetFormat fun k => SMap.look 0 q.psets (8 * n + k)).map fun n => (0xA, [psetTouch n])

/-- The slow tier's quota against the regions (R178; of a partial skein the live quota, which its own must repeat, R207), and
SCAN_REGION (R193). -/
def regionUses (live q : Part) : List Breach :=
  let quota := if live.state == .running then live.set.slowQuota else q.set.slowQuota
  let slow := (List.range 64).filter fun r => (q.region r).valid && (q.region r).kind == 2
  let r := q.region q.set.scanRegion
  when (if slow.isEmpty then quota != 0 else fld quota 16 0 == 0 || fld quota 29 17 == 0) 0xC
      (slow.map regionTouch)
    ++ when (q.set.scanEn && !(decide (q.set.scanRegion < 64) && r.valid && r.kind == 1)) 0xC [regionTouch q.set.scanRegion]

/-- Planes of a set as ranges. -/
def PSet.planes (p : PSet) : List (Nat × Nat) := (List.range 6).map fun k => (p.plane k, p.planeLen k)

/-- Breaches of sets against regions and each other (R170). -/
def psetUses (q : Part) : List Breach :=
  let sets := (List.range 64).filter fun n => (q.pset n).valid
  sets.flatMap (fun n =>
      let p := q.pset n
      let e := q.region p.region
      when (!e.valid || e.kind == 1 || decide (e.size < p.plane 5 + p.planeLen 5)
        || (p.rowForm && e.kind != 2)
        || (q.region p.lrReg).kind != 0 || (p.lrLen != 0 && !(q.region p.lrReg).valid)
        || p.lrTab % 64 != 0) 0xF [psetTouch n, regionTouch p.region])
    ++ (pairs sets).flatMap fun a =>
      let p := q.pset a.1
      let r := q.pset a.2
      when (p.region == r.region && anyMeet p.planes r.planes) 0xF [psetTouch a.1, psetTouch a.2]

/-- The fields that the sets of a replica group share: all but REGION, BASE and LRTAB. -/
def PSet.shared (p : PSet) : PSet := { p with region := 0, base := 0, lrTab := 0 }

/-- Breaches of replica groups (R187). -/
def replicaBreaches (q : Part) : List Breach :=
  (List.range 64).flatMap fun g =>
    let sets := q.replicas g
    let n := fun k => (q.region (q.pset k).region).stations.length
    when (sets.length == 1) 0xF (sets.map psetTouch)
      ++ (pairs sets).flatMap fun a =>
        let p := q.pset a.1
        let r := q.pset a.2
        let e := q.region p.region
        let f := q.region r.region
        when (p.shared != r.shared || fld e.w0 46 7 != fld f.w0 46 7 || fld e.w0 5 3 != fld f.w0 5 3 || fld e.w0 5 3 != 6
            || p.plane 1 % (n a.1 * 65536) != r.plane 1 % (n a.1 * 65536)) 0xF
          [psetTouch a.1, psetTouch a.2, regionTouch p.region, regionTouch r.region]

/-! ## All whole-skein checks after the trailer, DIGEST and SIGNATURE (R202 step 3) -/

/-- Tables a resumed partition must repeat: its kept regions and sets (R231). -/
def keptBreaches (live q : Part) : List Breach :=
  when (live.state == .placed && (q.regions != live.regions || q.psets != live.psets)) 0x12 []

/-- What a partial skein must leave alone: the regions valid in the live configuration (R207). `fs`: its frames. -/
def State.liveBreaches (s : State) (p : Nat) (fs : List (Nat × Frame0)) : List Breach :=
  let q := s.part p
  ((List.range 64).filter fun r => q.state == .running && (q.region r).valid && fs.any fun f => f.2.writes (regionTouch r)).map
      fun r => (0x12, [regionTouch r])

def State.wholeBreaches (s : State) (p : Nat) (h : List Byte) : List Breach :=
  let live := s.part p
  let q := s.afterLoad p h
  let cs := s.chans q
  let reds := q.routes.filter fun r => r.kind == 3
  (s.coresAfter q).flatMap (fun c => c.2.2.2.progBreaches c.1 c.2.1 c.2.2.1 ++ c.2.2.2.cfgBreaches q c.1 c.2.1 c.2.2.1)
    ++ cs.flatMap (s.chanDest q live) ++ chanPairs q live cs ++ s.portBreaches q live ++ rankBreaches q live cs
    ++ planBreaches q live ++ reds.flatMap (s.redBreaches q live cs) ++ reds.flatMap (s.redRing q live cs)
    ++ s.groupBreaches q live ++ (List.range live.sas.length).flatMap (s.meshBreaches q)
    ++ when (!q.graph.isEmpty && Config.graphRange q.graph) 0xB [⟨7, 0, 0, 0, 0, 1048576⟩]
    ++ entryBreaches q ++ regionUses live q ++ psetUses q ++ replicaBreaches q ++ keptBreaches live q

end Sys2Proof.Machine
end

