-- ==== Sys2Proof/Machine/Loader.lean ====
section
/-!
DEFINITION. The skein loader of a port: SKEIN_CTL, SKEIN_WIN, verification and the deadline (R201-R206).
-/
namespace Sys2Proof.Machine

/-- TLPs of an IDE stream that is Insecure are dropped (R253); those on no selective stream belong to the link stream, 0. -/
def Port.drops (q : Port) (ide : Option Nat) : Bool := (SMap.look Ide.reset q.ide (ide.getD 0)).state == 2

/-- A TLP to a port's BARs acts: from READY on, while its host station is in service and does not switch its firmware, on a stream that is
not Insecure (R240, R241, R253, R327). -/
def State.actsOn (s : State) (h : Nat) (ide : Option Nat) : Bool :=
  (s.port h).ready && !(s.port h).lost && !(s.port h).drops ide && !s.switching 4 h

/-- A register write, on no selective stream. -/
def State.acts (s : State) (h : Nat) : Bool := s.actsOn h none

/-- Does port `h` own partition `p` (R217)? -/
def State.owns (s : State) (h p : Nat) : Bool := (s.part p).state != .none && (s.part p).owner == h

/-- At the START of a load every shadow is a copy of its live value (R50, R206). -/
def State.beginLoad (s : State) (h p : Nat) : State :=
  let s1 := s.restoreShadows p []
  let q := s1.part p
  let l := (s1.port h).loader
  (s1.setPart p { q with commitPending := q.state == .running }).setLoader h
    { l with state := 1, ctlPart := p, part := p, bytes := [], framesDone := 0, framePos := 320, routeBytes := 0, graphBytes := 0
             scratched := [], stage := .idle, startedAt := s.mgs.tick }

/-- START is rejected (R204, R205). -/
def State.refuseStart (s : State) (h p reason : Nat) : State :=
  (s.setLoader h { (s.port h).loader with ctlPart := p, part := p, reason := reason, frame := noFrame }).countReject

/-- SKEIN_START: acted on in IDLE; in any other state it sets OVERRUN. -/
def State.skeinStart (s : State) (h p : Nat) : State :=
  let l := (s.port h).loader
  if !s.acts h then s
  else if l.state != 0 then s.setLoader h { l with ctlPart := p, overrun := true }
  else if (s.loaderOf p).isSome then s.refuseStart h p 3
  else if !s.owns h p then s.refuseStart h p 9
  else if !((s.part p).state == .created || (s.part p).state == .placed || (s.part p).state == .running) then
    s.refuseStart h p 3
  else s.beginLoad h p

def execSkeinStart (port part : Nat) (s : State) : Answer := guardUnit (portOk port && partOk part) (s.skeinStart port part)

/-! ## Bytes arriving (R202) -/

/-- The reserved bits of the byte at offset `o` of the configuration space (R57, R68, R82, R83, R96, R100, R116, R145, R198). -/
def cfgReserved (o : Nat) : Nat :=
  if o < 0x80 then nth 0 [0, 0, 0, 0, 0, 0xFF, 0xFF, 0xFF, 0, 0, 0, 0xE0, 0xFF, 0xFF, 0xFF, 0xFF] (o % 16)
  else if o < 0xC0 then nth 0 [0, 0, 0xFF, 0xFF, 0xFF, 0xFF, 0xFF, 0xFF] (o % 8)
  else if o < 0xD0 then nth 0 [0, 0, 0xF0, 0xFF, 0xFF, 0xFF, 0xFF, 0xFF] (o % 8)
  else if o < 0x120 then nth 0 [0, 0xC0, 0xC0, 0, 0xFC, 0xFF, 0xFF, 0xFF] (o % 8)
  else if o < 0x240 then 0xE0
  else if o < 0x500 then 0
  else if o < 0x600 then nth 0 [0x3F, 0, 0, 0] (o % 4)
  else if o < 0x900 then (if 22 ≤ o % 24 then 0xFF else 0)
  else nth 0 [0, 0, 0, 0, 0, 0, 0, 0, 0, 0, 0, 0, 0, 0, 0, 0xFC, 0, 0, 0, 0, 0, 0, 0xC0, 0xFF] (o % 24)

/-- The reason for a reserved bit that is set at offset `o` (R205). -/
def cfgReason (o : Nat) : Nat :=
  if 0x500 ≤ o && o < 0x600 then 0xB else if 0x100 ≤ o && o < 0x120 && o % 8 < 4 then 0xA else 0xC

/-- Reserved bits in the bytes of a CORE_CFG frame, whether or not it holds their register whole (R9). -/
def reservedBreaches (o : Nat) (bs : List Byte) : List Breach :=
  (bs.zipIdx.filter fun b => b.1.toNat &&& cfgReserved (o + b.2) != 0).map fun b => (cfgReason (o + b.2), [])

/-- Reserved bits of a CORE_CFG frame, and registers that lie wholly in it: each alone, rings that overlap, and a second STEPINC. -/
def cfgFrameBreaches (f : Frame0) (bs : List Byte) : List Breach :=
  let c := { Core.reset with cfg := SMap.putAll 0 [] f.ofs bs }
  let inside := fun o n => decide (f.ofs ≤ o) && decide (o + n ≤ f.ofs + f.len)
  let incs := (List.range 64).filter fun d =>
    inside (0x900 + 24 * d) 24 && (c.descCfg d).valid && (c.descCfg d).stepInc
  reservedBreaches f.ofs bs
    ++ ((c.regBreaches.filter fun b => inside b.1 b.2.1).map fun b => (b.2.2, []))
    ++ when (c.ringsOverlap.any fun p => inside (0x80 + 8 * p.1) 8 && inside (0x80 + 8 * p.2) 8) 0xC []
    ++ when (decide (1 < incs.length)) 0xC []

/-- The slots of a PROGRAM frame up to its first HALT. A frame that does not begin at slot 0 has no slot known to be fired, and
the core of one that is all zero may be idle. -/
def progFrameBreaches (f : Frame0) (bs : List Byte) : List Breach :=
  let ws := slotsOf bs
  if f.ofs == 0 && ws.any (· != 0) then
    ((prefixBreaches f.sa f.x f.y ((cutHalt 1024 ws).getD ws)).map fun b => (b.1, []))
      ++ when (ws.length == 1024 && (cutHalt 1024 ws).isNone) 0xB []
  else []

/-- The records of a ROUTE frame: each alone, and those that one frame may not hold together (R98, R199). -/
def routeFrameBreaches (saCount : Nat) (rs : List RouteRec) : List Breach :=
  let q := { Part.reset with routes := rs }
  rs.flatMap (fun r => recordBreaches saCount r [])
    ++ (pairs rs).flatMap (fun p => twinBreaches p.1 p.2 [])
    ++ when (rs.any fun r => r.kind == 3 && q.chainLoops r) 0xE []

/-- The sets of a PSET frame: each alone, planes that overlap, and fields that differ in a replica group (R170, R187). -/
def psetFrameBreaches (o : Nat) (es : List (List W64)) : List Breach :=
  let q := { Part.reset with psets := SMap.putAll 0 [] (o / 8) es.flatten }
  es.flatMap (fun e => when (psetBad (nth 0 e)) 0xF [] ++ when (psetFormat (nth 0 e)) 0xA [])
    ++ (pairs ((List.range 64).filter fun n => (q.pset n).valid)).flatMap fun a =>
      let p := q.pset a.1
      let r := q.pset a.2
      when ((p.region == r.region && anyMeet p.planes r.planes)
        || (p.digest && r.digest && p.rgroup == r.rgroup && p.shared != r.shared)) 0xF []

/-- Entries of a table frame, each as its words. -/
def entriesOf (words : Nat) : Nat → List Byte → List (List W64)
  | 0, _ => []
  | n + 1, bs => slotsOf (bs.take (8 * words)) :: entriesOf words n (bs.drop (8 * words))

/-- Breaches whose values all lie in the frame (R202 step 2). -/
def valueBreaches (q : Part) (f : Frame0) (bs : List Byte) : List Breach :=
  match f.ftype with
  | 1 => progFrameBreaches f bs
  | 3 => cfgFrameBreaches f bs
  | 4 => routeFrameBreaches q.saCount (recordsOf (f.len / 32) bs)
  | 5 => (entriesOf 2 (f.len / 16) bs).flatMap fun e => when (regionBad ⟨nth 0 e 0, nth 0 e 1⟩) 0xC []
  | 6 => psetFrameBreaches f.ofs (entriesOf 8 (f.len / 64) bs)
  | _ => []

/-- A complete frame: checked, then written into the shadows. -/
def State.takeFrame (s : State) (h : Nat) (f : Frame0) (bs : List Byte) : State :=
  let l := (s.port h).loader
  let q := s.part l.part
  match lowest (frameBreaches q f l.routeBytes l.graphBytes false ++ valueBreaches q f bs) with
  | some r => s.endLoad h r l.framesDone
  | none =>
    let s1 := applyFrame s l.part f bs
    let cores := f.cores q
    s1.setLoader h
      { l with framesDone := l.framesDone + 1, framePos := l.framePos + 16 + f.len
               routeBytes := if f.ftype == 4 then l.routeBytes + f.len else l.routeBytes
               graphBytes := if f.ftype == 7 then l.graphBytes + f.len else l.graphBytes
               scratched := if f.ftype == 2 then l.scratched ++ cores else l.scratched }

/-- Check the frames that have become complete. FRAMES must end the frames just where the trailer begins. -/
def State.takeFrames (s : State) (h : Nat) : Nat → State
  | 0 => s
  | n + 1 =>
    let l := (s.port h).loader
    let length := hLength l.bytes
    if l.state != 1 then s
    else if (hFrames l.bytes == l.framesDone) != (l.framePos + 16 == length) then s.endLoad h 8 noFrame
    else if hFrames l.bytes ≤ l.framesDone || l.bytes.length < l.framePos + 16 then s
    else
      let f := frameAt l.bytes l.framePos
      if length < l.framePos + 16 + f.len + 16 then
        s.endLoad h ((lowest (frameBreaches (s.part l.part) f l.routeBytes l.graphBytes true)).getD 8) l.framesDone
      else if l.bytes.length < l.framePos + 16 + f.len then s
      else (s.takeFrame h f ((l.bytes.drop (l.framePos + 16)).take f.len)).takeFrames h n

/-- The last byte is in: VERIFYING, or a FRAMES count mismatch. -/
def State.lastByte (s : State) (h : Nat) : State :=
  let l := (s.port h).loader
  let length := hLength l.bytes
  if l.state != 1 || l.bytes.length < length then s
  else if l.framesDone != hFrames l.bytes || l.framePos + 16 != length then s.endLoad h 8 noFrame
  else s.setLoader h { l with state := 2 }

/-- TICK at which DEADLINE has passed: values below 10,000 µs act as 10,000 (R201, R203). -/
def Loader.lateAt (l : Loader) : Nat := l.startedAt + usTicks (max 10000 l.deadline)

/-- Bytes of a load in time. -/
def State.received (s : State) (h : Nat) (bs : List Byte) : State :=
  let l := (s.port h).loader
  let bytes := l.bytes ++ bs
  let s1 := s.setLoader h { l with bytes := bytes }
  if bytes.length < 320 then s1
  else
    let bad := if l.bytes.length < 320 then lowest (headerBreaches (s.part l.part) s.mgs.stepping bytes) else none
    match bad with
    | some r => s1.endLoad h r noFrame
    | none =>
      let kept := bytes.take (hLength bytes)
      ((s1.setLoader h { l with bytes := kept }).takeFrames h kept.length).lastByte h

/-- Append bytes to the load of a port that is RECEIVING; in any other state they are dropped. Bytes that come after DEADLINE find
the load rejected (R203). -/
def State.receive (s : State) (h : Nat) (bs : List Byte) : State :=
  let l := (s.port h).loader
  if l.state != 1 then s
  else if l.lateAt < s.mgs.tick then s.endLoad h 2 noFrame
  else s.received h bs

/-- SKEIN_WIN_WRITE (R243): whole 8-byte words, else dropped and counted in MISALIGNED. -/
def State.winWrite (s : State) (h : Nat) (data : List Byte) : State :=
  if !s.acts h then s
  else if data.length % 8 != 0 then
    let q := s.port h
    s.setPort h { q with misaligned := satAdd 0xFFFF q.misaligned 1 }
  else s.receive h data

def execSkeinWinWrite (port : Nat) (data : List Byte) (s : State) : Answer := guardUnit (portOk port) (s.winWrite port data)

/-- SKEIN_END before LENGTH bytes rejects the load with SHORT (R203). -/
def State.skeinEnd (s : State) (h : Nat) : State :=
  if s.acts h && (s.port h).loader.state == 1 then s.endLoad h 1 noFrame else s

def execSkeinEnd (port : Nat) (s : State) : Answer := guardUnit (portOk port) (s.skeinEnd port)

/-- SKEIN_ABORT in states 1 to 4; the swap of state 4 is one step, so an ABORT always finds it not begun. -/
def State.skeinAbort (s : State) (h : Nat) : State :=
  if s.acts h && (s.port h).loader.state != 0 then s.endLoad h 0x1A noFrame else s

def execSkeinAbort (port : Nat) (s : State) : Answer := guardUnit (portOk port) (s.skeinAbort port)

/-- SKEIN_DEADLINE_EXPIRY: DEADLINE has passed before LENGTH bytes have arrived. -/
def State.skeinLate (s : State) (h : Nat) : State :=
  let l := (s.port h).loader
  if l.state == 1 then (s.passTo l.lateAt).endLoad h 2 noFrame else s

def execSkeinDeadlineExpiry (port : Nat) (s : State) : Answer := guardUnit (portOk port) (s.skeinLate port)

/-! ## VERIFYING (R195, R200, R202) -/

/-- The skein with DIGEST and SIGNATURE read as zero. -/
def blankDigest (bs : List Byte) : List Byte := bs.take 0x80 ++ List.replicate 144 0 ++ bs.drop 0x110

def trailerBad (bs : List Byte) : Bool :=
  let t := bs.length - 16
  numAt bs t 4 != 0x4B535845 || numAt bs (t + 4) 4 != hFrames bs || numAt bs (t + 8) 8 != hLength bs

/-- SIGNATURE fails (R195): with CONF 1 it verifies over DIGEST under the host key bound to the partition; without, it is 0. -/
def State.signatureBad (s : State) (p : Nat) (bs : List Byte) : Bool :=
  let sig := (bs.drop 0xB0).take 96
  if hConf bs then !ecdsaVerify (s.part p).hostPub ((bs.drop 0x80).take 48) sig else !allZero sig

/-- The first breach of the whole-skein checks: reason and FRAME. -/
def State.verify (s : State) (h : Nat) : Option (Nat × Nat) :=
  let l := (s.port h).loader
  let bs := l.bytes
  if trailerBad bs then some (1, noFrame)
  else if sha384 (blankDigest bs) != (bs.drop 0x80).take 48 then some (6, noFrame)
  else if s.signatureBad l.part bs then some (7, noFrame)
  else
    let fs := framesFrom bs l.framesDone 0 320
    report fs (s.liveBreaches l.part fs ++ s.wholeBreaches l.part bs)

/-- SKEIN_VERIFY_DONE. -/
def State.verifyDone (s : State) (h : Nat) : State :=
  let l := (s.port h).loader
  if l.state != 2 then s
  else match s.verify h with
    | some (r, f) => s.endLoad h r f
    | none => s.setLoader h { l with state := 3, reason := 0, frame := noFrame }

def execSkeinVerifyDone (port : Nat) (s : State) : Answer := guardUnit (portOk port) (s.verifyDone port)

/-! ## Check skeins, which station firmware loads (R90, R321) -/

/-- Breaches that count for a load by station firmware: the check mark and MCHECK are accepted. -/
def markedBreaches (bs : List Breach) : List Breach := bs.filter fun b => b.1 != 0x10

/-- The number, past those of partitions, under which station firmware's loads are worked out; nothing of it stays. MODEL. -/
def firmwarePart : Nat := 64

/-- Array `n` of no partition, zeroised, as the target of a full skein of one array in class 3 (R321). -/
def State.firmwareTarget (s : State) (n : Nat) : State :=
  (mapCores s [n] fun _ => Core.reset).setPart firmwarePart { Part.reset with state := .created, cls := 3, sas := [n], saCount := 1 }

/-- The frames of a check skein from `pos` on, each checked and applied; none: one is rejected. `routes`, `graph`: bytes of such frames
before. -/
def markedFrames (bs : List Byte) : Nat → Nat → Nat → Nat → State → Option State
  | 0, pos, _, _, t => if pos + 16 == hLength bs then some t else none
  | n + 1, pos, routes, graph, t =>
    let f := frameAt bs pos
    let data := (bs.drop (pos + 16)).take f.len
    let q := t.part firmwarePart
    if hLength bs < pos + 16 + f.len + 16
        || !(markedBreaches (frameBreaches q f routes graph false ++ valueBreaches q f data)).isEmpty then none
    else markedFrames bs n (pos + 16 + f.len) (if f.ftype == 4 then routes + f.len else routes)
      (if f.ftype == 7 then graph + f.len else graph) (applyFrame t firmwarePart f data)

/-- A check-marked skein is accepted for array `n`: it passes every check of R202 that a host's skein passes. -/
def State.acceptsMarked (s : State) (n : Nat) (bs : List Byte) : Bool :=
  let t := s.firmwareTarget n
  hCheck bs && bs.length == hLength bs && (markedBreaches (headerBreaches (t.part firmwarePart) s.mgs.stepping bs)).isEmpty
    && !trailerBad bs && sha384 (blankDigest bs) == (bs.drop 0x80).take 48 && !t.signatureBad firmwarePart bs
    && match markedFrames bs (hFrames bs) 320 0 0 t with
      | some r => (markedBreaches (r.wholeBreaches firmwarePart bs)).isEmpty
      | none => false

end Sys2Proof.Machine
end

