-- ==== Sys2Proof/Machine/Routes.lean ====
section
/-!
DEFINITION. Path building and allocation at commit: the path graph (R125-R127), route entries and lanes (R122, R123, R134),
reduction slots (R130, R133), multicast trees (R129, R154), the doorbell tree (R247).
-/
namespace Sys2Proof.Machine

/-! ## The path graph (R125-R127) -/

/-- A step from a live router over a live link direction to a live router. -/
def State.edge (s : State) (n dir : Nat) : Option Nat :=
  match neighbour n dir with
  | some m => if (s.router n).dead || (s.router n).deadDirs.contains dir || (s.router m).dead then none else some m
  | none => none

/-- Routers from which one step reaches a router of `front`, and that are not in `seen`. -/
def State.before (s : State) (front seen : List Nat) : List Nat :=
  (front.flatMap fun m => (List.range 4).filterMap fun d =>
    match neighbour m d with
    | some n => if (List.range 4).any (fun e => s.edge n e == some m) && !seen.contains n then some n else none
    | none => none).eraseDups

/-- Distance of every router to a destination, as layers from 0 up. -/
def State.layers (s : State) : Nat → List Nat → List Nat → List (List Nat)
  | 0, _, _ => []
  | n + 1, front, seen =>
    if front.isEmpty then [] else
      let next := s.before front seen
      front :: s.layers n next (seen ++ next)

def State.distances (s : State) (dest : Nat) : List (List Nat) := s.layers 1296 [dest] [dest]
def distOf (ls : List (List Nat)) (n : Nat) : Nat := ls.findIdx fun l => l.contains n

/-- The order of moves at `n` towards `dest` (R127): along the row towards its column, along the column towards its row, then
north, east, south, west. -/
def moveOrder (n dest : Nat) : List Nat :=
  let row := if siteCol n < siteCol dest then [1] else if siteCol dest < siteCol n then [3] else []
  let col := if siteRow n < siteRow dest then [2] else if siteRow dest < siteRow n then [0] else []
  row ++ col ++ [0, 1, 2, 3]

/-- The steps (router, direction) of the path from `n`, `k` steps from the destination. -/
def State.steps (s : State) (ls : List (List Nat)) (dest : Nat) : Nat → Nat → List (Nat × Nat)
  | 0, _ => []
  | k + 1, n =>
    match (moveOrder n dest).findSome? fun d => match s.edge n d with
        | some m => if distOf ls m == k then some (d, m) else none
        | none => none with
    | some (d, m) => (n, d) :: s.steps ls dest k m
    | none => []

/-- The path from `a` to `dest`: none where no path reaches. A dead router is no destination. -/
def State.path (s : State) (a dest : Nat) : Option (List (Nat × Nat)) :=
  if (s.router a).dead || (s.router dest).dead then none
  else
    let ls := s.distances dest
    let k := distOf ls a
    if ls.length ≤ k then none else some (s.steps ls dest k a)

/-! ## Nodes of a path or tree -/

/-- A router of a path or tree: its outputs (bits as OUT of R122), and what its local output or reduction slot needs. -/
structure Node where
  site : Nat
  out : Nat
  gate : Nat
  mmode : Bool
  mdest : Nat
  red : Option Nat
  deriving DecidableEq, Repr

def Node.at (site : Nat) : Node := ⟨site, 0, 0, false, 0, none⟩

/-- What stands at the end of a path. -/
inductive Target where
  | core (x y : Nat)
  | group (gate g : Nat)
  | station
  | slot (k : Nat)
  | anyCore
  deriving DecidableEq, Repr

/-- The end node. -/
def Node.ends (n : Node) (t : Target) : Node :=
  match t with
  | .core x y => { n with out := n.out ||| 16, gate := gateOf x y, mmode := false, mdest := x + 32 * y }
  | .group gate g => { n with out := n.out ||| 16, gate := gate, mmode := true, mdest := g }
  | .station => { n with out := n.out ||| 32 }
  | .slot k => { n with red := some k }
  | .anyCore => { n with out := n.out ||| 16 }

/-- Add an output to a tree's node, or the node. -/
def addOut (site out : Nat) : List Node → List Node
  | [] => [{ Node.at site with out := out }]
  | n :: ns => if n.site == site then { n with out := n.out ||| out } :: ns else n :: addOut site out ns

def endAt (site : Nat) (t : Target) : List Node → List Node
  | [] => [(Node.at site).ends t]
  | n :: ns => if n.site == site then n.ends t :: ns else n :: endAt site t ns

/-- Add a path to `dest` to a tree from the last router on it that the tree already holds (R127). -/
def addSteps (tree : List Node) (steps : List (Nat × Nat)) (dest : Nat) : List Node :=
  let cut := (steps.map Prod.fst ++ [dest]).zipIdx.foldl (fun c q => if tree.any fun n => n.site == q.1 then q.2 else c) 0
  (steps.drop cut).foldl (fun t q => addOut q.1 (2 ^ q.2) t) tree

/-- The path of one destination, as nodes in order. -/
def pathNodes (steps : List (Nat × Nat)) (dest : Nat) (t : Target) : List Node := endAt dest t (addSteps [] steps dest)

/-! ## Entries in use -/

/-- Entries of a router that other partitions hold, or that commits under way have taken. -/
def State.othersAt (s : State) (p site : Nat) : List (Nat × W64) :=
  ((s.router site).entries.filter fun e => entValid e.2 && entPart e.2 != p)
    ++ s.parts.flatMap fun q => if q.1 == p then [] else match q.2.plan with
      | some pl => (pl.entries.filter fun e => e.1 == site).map fun e => (e.2.1, e.2.2)
      | none => []

/-- With what this commit has taken already. The base routes' entries 240 to 255 count neither here nor in a lane's load or R134's test:
R123 speaks of entries that the loader allocates (DESIGN CHOICE, log entry 79). -/
def State.takenAt (s : State) (p : Nat) (pl : Plan) (site : Nat) : List (Nat × W64) :=
  s.othersAt p site ++ (pl.entries.filter fun e => e.1 == site).map fun e => (e.2.1, e.2.2)

/-- The lowest of entries 0 to 239 that is free in every router of a list. -/
def freeIndex (used : List Nat) : Option Nat := (List.range 240).find? fun i => !used.contains i

/-! ## Lanes (R118, R134) -/

/-- Entries of a router on a lane of a link, by class test. -/
def laneUse (taken : List (Nat × W64)) (site dir lane : Nat) (cls : Nat → Bool) : Nat :=
  (taken.filter fun e => (entOut e.2).testBit dir && linkLane site dir (entLane e.2) == linkLane site dir lane && cls (entClass e.2)).length

/-- LANE of a new entry: the link directions and station port `dirs` it leaves on; none: R134 cannot be met. An entry that branches has one
LANE field, and takes the lane whose loads on its links add up to the least (DESIGN CHOICE, log entry 79: R123 speaks of "that link"). -/
def chooseLane (taken : List (Nat × W64)) (site cls : Nat) (dirs : List Nat) : Option Nat :=
  if dirs.isEmpty then some 0
  else
    let wide := dirs.any (wideLink site)
    let cands := if cls == 0 then (if wide then [14, 15] else [7, 6, 5, 4, 3, 2, 1, 0])
      else if wide then List.range 14 else List.range 8
    let clash := fun l => dirs.any fun d => !wideLink site d
      && laneUse taken site d l (fun c => if cls == 0 then c != 0 else c == 0) != 0
    let load := fun l => (dirs.map fun d => laneUse taken site d l fun _ => true).foldl (· + ·) 0
    let good := cands.filter fun l => !clash l
    match good with
    | [] => none
    | a :: l => some (if cls == 0 && !wide then a else l.foldl (fun b c => if load c < load b then c else b) a)

/-! ## Allocation of one path or tree (R123) -/

def Node.entry (n : Node) (next lane p cls : Nat) : W64 :=
  packW [(0, 1), (1, n.out), (7, next), (15, lane), (19, n.gate), (22, bit n.mmode), (23, n.mdest), (33, p), (39, cls),
    (41, bit n.red.isSome), (42, n.red.getD 0)]

/-- Give each node its entry, in order; the first at `i0`, the later ones at `next`. -/
def State.placeNodes (s : State) (p cls i0 next : Nat) : Bool → Plan → List Node → Except Nat Plan
  | _, pl, [] => .ok pl
  | first, pl, n :: ns =>
    let taken := s.takenAt p pl n.site
    match chooseLane taken n.site cls ([0, 1, 2, 3, 5].filter n.out.testBit) with
    | none => .error 0x15
    | some lane =>
      let i := if first then i0 else next
      s.placeNodes p cls i0 next false { pl with entries := pl.entries ++ [(n.site, i, n.entry next lane p cls)] } ns

/-- Allocate a path or tree whose first node is its root: the plan, and the index of its first entry. -/
def State.allocTree (s : State) (p cls : Nat) (pl : Plan) (nodes : List Node) : Except Nat (Plan × Nat) :=
  match nodes with
  | [] => .error 0x14
  | n :: ns =>
    let later := (ns.flatMap fun m => (s.takenAt p pl m.site).map (·.1)).eraseDups
    match freeIndex ((s.takenAt p pl n.site).map (·.1)), freeIndex later with
    | some i, some j =>
      match s.placeNodes p cls i (if ns.isEmpty then 0 else j) true pl nodes with
      | .ok pl1 => .ok (pl1, i)
      | .error r => .error r
    | _, _ => .error 0x13

/-- Is a direction of an attach router's station port alive, 5 towards the station, 6 from it (R120, R128)? -/
def State.portAlive (s : State) (site dir : Nat) : Bool := !(s.router site).deadDirs.contains dir

/-- Allocate a unicast path; `sta`: it starts at a station. -/
def State.allocPath (s : State) (p cls : Nat) (pl : Plan) (sta : Bool) (a dest : Nat) (t : Target) : Except Nat (Plan × Nat) :=
  match s.path a dest with
  | none => .error 0x14
  | some steps =>
    if (sta && !s.portAlive a 6) || (t == .station && !s.portAlive dest 5) then .error 0x14
    else s.allocTree p cls pl (pathNodes steps dest t)

/-- A tree from `root` to destinations in order (R127); none where one is not reached. -/
def State.treeNodes (s : State) (root : Nat) : List Node → List (Nat × Target) → Option (List Node)
  | tree, [] => some tree
  | tree, (d, t) :: ds =>
    match s.path root d with
    | none => none
    | some steps => s.treeNodes root (endAt d t (addSteps tree steps d)) ds

def State.allocTreeTo (s : State) (p cls : Nat) (pl : Plan) (root : Nat) (ds : List (Nat × Target)) : Except Nat (Plan × Nat × List Node) :=
  match if s.portAlive root 6 then s.treeNodes root [Node.at root] ds else none with
  | none => .error 0x14
  | some nodes => match s.allocTree p cls pl nodes with
    | .ok r => .ok (r.1, r.2, nodes)
    | .error e => .error e

/-! ## Everything a skein asks for (R123) -/

/-- Records in increasing order of a key. -/
def insertBy {α : Type} (key : α → Nat) (a : α) : List α → List α
  | [] => [a]
  | b :: l => if key a < key b then a :: b :: l else b :: insertBy key a l
def sortBy {α : Type} (key : α → Nat) (l : List α) : List α := l.foldl (fun m a => insertBy key a m) []

def State.siteOfRel (s : State) (q : Part) (rel : Nat) : Nat := s.siteOf (q.saAt rel)

/-- Fold an allocation over a list. -/
def allocEach {α : Type} (f : Plan → α → Except Nat Plan) : Plan → List α → Except Nat Plan
  | pl, [] => .ok pl
  | pl, a :: l => match f pl a with
    | .ok pl1 => allocEach f pl1 l
    | .error r => .error r

/-- Step 1: the doorbell tree, from the owning host station's attach router to every array of the partition (R247). -/
def State.allocDoorbell (s : State) (p : Nat) (q : Part) (pl : Plan) : Except Nat Plan :=
  match s.allocTreeTo p q.cls pl (attachSite (48 + q.owner)) (q.sas.map fun sa => (s.siteOf sa, Target.anyCore)) with
  | .ok r => .ok { r.1 with dbEntry := some r.2.1 }
  | .error e => .error e

/-- Slots of a router or a station that others hold or this commit has taken. -/
def State.slotsTaken (s : State) (p : Nat) (pl : Plan) (sta : Bool) (n : Nat) : List Nat :=
  let live := if sta then (s.mem n).red else (s.router n).red
  ((live.filter fun e => redValid e.2 && redPart e.2 != p).map (·.1))
    ++ (s.parts.flatMap fun q => if q.1 == p then [] else match q.2.plan with
      | some o => (o.reds.filter fun e => e.1 == sta && e.2.1 == n).map fun e => e.2.2.1
      | none => [])
    ++ (pl.redAt.filter fun e => e.2.1 == sta && e.2.2.1 == n).map fun e => e.2.2.2

/-- A reduction point takes the lowest free slot of its router or station. -/
def State.allocSlot (s : State) (p : Nat) (q : Part) (pl : Plan) (r : RouteRec) : Except Nat Plan :=
  let n := if r.atStation then r.station else s.siteOfRel q r.saRel
  match (List.range (if r.atStation then 64 else 16)).find? fun k => !(s.slotsTaken p pl r.atStation n).contains k with
  | some k => .ok { pl with redAt := pl.redAt ++ [(r.id, r.atStation, n, k)] }
  | none => .error 0x13

/-- Router and target of a destination: a core, or a reduction point. -/
def State.destOf (s : State) (q : Part) (pl : Plan) (r : RouteRec) : Option (Nat × Target) :=
  if r.toRed then
    match pl.redAt.find? fun e => e.1 == r.destRed with
    | some (_, true, ms, _) => some (attachSite ms, .station)
    | some (_, false, site, k) => some (site, .slot k)
    | none => none
  else some (s.siteOfRel q r.destSa, .core r.destX r.destY)

/-- A reduction point's result path and RED_ENT. -/
def State.allocResult (s : State) (p : Nat) (q : Part) (pl : Plan) (r : RouteRec) : Except Nat Plan :=
  match pl.redAt.find? fun e => e.1 == r.id, s.destOf q pl r with
  | some (_, sta, n, k), some (dest, t) =>
    match s.allocPath p q.cls pl sta (if sta then attachSite n else n) dest t with
    | .error e => .error e
    | .ok (pl1, i) =>
      .ok { pl1 with reds := pl1.reds ++ [(sta, n, k, packW [(0, 1), (1, r.level), (6, r.jout), (30, i), (38, r.lenM1), (46, p)])] }
  | _, _ => .error 0x14

/-- A channel: its path, and ROUTE of its CHAN_CFG. -/
def State.allocChannel (s : State) (p : Nat) (q : Part) (pl : Plan) (r : RouteRec) : Except Nat Plan :=
  match s.destOf q pl r with
  | none => .error 0x14
  | some (dest, t) =>
    match s.allocPath p q.cls pl false (s.siteOfRel q r.saRel) dest t with
    | .error e => .error e
    | .ok (pl1, i) => .ok { pl1 with fields := pl1.fields ++ [(coreKey (q.saAt r.saRel) r.x r.y, 16 * r.port, 0, i)] }

/-- ROUTE and RESP of a descriptor (R145). -/
def descField (k d lo v : Nat) : Nat × Nat × Nat × Nat := (k, 0x900 + 24 * d + 8, lo, v)

/-- A descriptor's request route. -/
def State.allocRequest (s : State) (p : Nat) (q : Part) (pl : Plan) (k d : Nat) : Except Nat Plan :=
  let g := (s.core k).after.descCfg d
  match s.allocPath p q.cls pl false (s.siteOf (keyArr k)) (attachSite (q.homeOf g)) .station with
  | .ok (pl1, i) => .ok { pl1 with fields := pl1.fields ++ [descField k d 42 i] }
  | .error e => .error e

/-- The local delivery of a group in one array: one member is a core; several are the lowest mesh group whose landing cores are
exactly the members (log entry 30). -/
def State.groupTarget (s : State) (q : Part) (rel : Nat) (cores : List (Nat × Nat)) : Option Target :=
  match cores with
  | [c] => some (.core c.1 c.2)
  | _ =>
    let all := (List.range 576).map fun i => (i % 24, i / 24)
    let lands := fun g => all.filter fun c => ((s.coreAfter q rel c.1 c.2).mcastRt g).testBit 4
    match (List.range 64).find? fun g => let l := lands g
        l.length == cores.length && l.all cores.contains with
    | some g => match all.find? fun c => cores.contains c with
      | some c => some (.group (gateOf c.1 c.2) g)
      | none => none
    | none => none

/-- Targets of a group, by service array in increasing number; none: an array has no mesh group for its members. -/
def State.groupTargets (s : State) (q : Part) (ms : List RouteRec) : Option (List (Nat × Target)) :=
  ((List.range q.sas.length).filter fun rel => ms.any fun r => r.saRel == rel).foldr
    (fun rel acc => match acc, s.groupTarget q rel ((ms.filter fun r => r.saRel == rel).map fun r => (r.x, r.y)) with
      | some l, some t => some ((s.siteOfRel q rel, t) :: l)
      | _, _ => none) (some [])

/-- The merging tree of a group (R154): each node with its parent and its branches: link directions 0-3, member cores from 4. -/
def State.mergeNodes (s : State) (q : Part) (root : Nat) (nodes : List Node) (ms : List RouteRec) : List (Nat × Nat × List Nat) :=
  nodes.map fun n =>
    let parent := (nodes.find? fun m => (List.range 4).any fun d => m.out.testBit d && neighbour m.site d == some n.site).map (·.site)
    let links := (List.range 4).filter n.out.testBit
    let cores := (ms.filter fun r => s.siteOfRel q r.saRel == n.site).map fun r => 4 + 24 * r.y + r.x
    (n.site, if n.site == root then root else parent.getD root, links ++ cores)

/-- A multicast group: its tree from the home station, RESP of the issuer, the issuer's request route. -/
def State.allocGroup (s : State) (p : Nat) (q : Part) (pl : Plan) (iss : RouteRec) : Except Nat Plan :=
  let ms := q.routes.filter fun r => r.kind == 2 && r.id == iss.id
  let k := coreKey (q.saAt iss.saRel) iss.x iss.y
  let g := (s.core k).after.descCfg iss.desc
  let root := attachSite (q.homeOf g)
  match s.groupTargets q ms with
  | none => .error 0x14
  | some ts =>
    match s.allocTreeTo p q.cls pl root ts with
    | .error e => .error e
    | .ok (pl1, i, nodes) =>
      s.allocRequest p q
        { pl1 with fields := pl1.fields ++ [descField k iss.desc 50 i]
                   trees := pl1.trees ++ [⟨iss.id, q.saAt iss.saRel, iss.x, iss.y, iss.desc, root, s.mergeNodes q root nodes ms⟩] }
        k iss.desc

/-- Another descriptor: its request and response routes. -/
def State.allocDesc (s : State) (p : Nat) (q : Part) (pl : Plan) (kd : Nat × Nat) : Except Nat Plan :=
  match s.allocRequest p q pl kd.1 kd.2 with
  | .error e => .error e
  | .ok pl1 =>
    let g := (s.core kd.1).after.descCfg kd.2
    match s.allocPath p q.cls pl1 true (attachSite (q.homeOf g)) (s.siteOf (keyArr kd.1)) (.core (keyX kd.1) (keyY kd.1)) with
    | .ok (pl2, i) => .ok { pl2 with fields := pl2.fields ++ [descField kd.1 kd.2 50 i] }
    | .error e => .error e

/-- Valid descriptors of the partition that no GROUP record names, in increasing SA_REL, y, x, descriptor. -/
def State.loneDescs (s : State) (q : Part) : List (Nat × Nat) :=
  (s.coresOf q.sas).flatMap fun kc => ((List.range 64).filter fun d => (kc.2.after.descCfg d).valid
      && !(q.routes.any fun r => r.kind == 2 && coreKey (q.saAt r.saRel) r.x r.y == kc.1 && r.desc == d)).map fun d => (kc.1, d)

/-- All routes of a partition as it would be after the load. -/
def State.allocRoutes (s : State) (p : Nat) (q : Part) (pl : Plan) : Except Nat Plan :=
  let of := fun k => sortBy RouteRec.id (q.routes.filter fun r => r.kind == k)
  match s.allocDoorbell p q pl with
  | .error e => .error e
  | .ok p1 => match allocEach (s.allocSlot p q) p1 (of 3) with
    | .error e => .error e
    | .ok p2 => match allocEach (s.allocResult p q) p2 (of 3) with
      | .error e => .error e
      | .ok p3 => match allocEach (s.allocChannel p q) p3 (of 1) with
        | .error e => .error e
        | .ok p4 => match allocEach (s.allocGroup p q) p4 ((of 2).filter RouteRec.issuer) with
          | .error e => .error e
          | .ok p5 => allocEach (s.allocDesc p q) p5 (s.loneDescs q)

end Sys2Proof.Machine
end

