-- ==== Sys2Proof/Machine/Tier.lean ====
section
/-!
DEFINITION. What the memory stations share: loss of a station, sectors through the outer code (R140-R143), interlocks
(R175, R183, R189), and the slow tier's slots: staging, the eviction sweep, and the waits that end (R177-R184).
-/
namespace Sys2Proof.Machine

def State.updMem (s : State) (st : Nat) (f : Ms → Ms) : State := s.setMem st (f (s.mem st))

/-! ## Arrays in service, and idle ones (R7, R319, R321) -/

/-- The array is in service: its site is (R7, R319). -/
def State.saInService (s : State) (n : Nat) : Bool := !s.mgs.deadSites.contains (s.siteOf n)

/-- Beds of a list of arrays. -/
def State.bedsOf (s : State) (sas : List Nat) : List Nat := (List.range 36).filter fun b => sas.any fun n => s.bedOfArr n == b

/-- Beds that class-0 partitions hold. -/
def State.class0Beds (s : State) : List Nat :=
  (s.parts.flatMap fun q => if q.2.state != .none && q.2.cls == 0 then s.bedsOf q.2.sas else []).eraseDups

/-- An array that station firmware may check. -/
def State.idleArr (s : State) (n : Nat) : Bool :=
  s.saInService n && (s.arr n).part.isNone && (s.bed (s.bedOfArr n)).state == .awake && !s.class0Beds.contains (s.bedOfArr n)

def State.idleArrays (s : State) : List Nat := (List.range 1200).filter s.idleArr

/-- A zeroised core (R215 step 4); row repairs belong to the array (R95). -/
def Core.zeroised (_ : Core) : Core := Core.reset

/-! ## Loss of a station (R143, R165, R185, R317) -/

/-- Does the partition hold a share of a region on station `st`, or home blocks there? -/
def Part.usesStation (q : Part) (st : Nat) : Bool :=
  (q.regions.any fun r => r.2.valid && decide (r.2.kind < 2) && r.2.stations.contains st)
    || q.homes.any fun h => (q.region h.1).valid && (q.region h.1).kind == 2 && h.2.contains st

/-- A region of the partition that a lost memory station holds a share of, or homes blocks of: the lowest, with the offset of the
first byte there; of a flash station, the lowest region of KIND 2 (log entry 64). -/
def Part.lostRegion (q : Part) (station : Nat) : Nat × Nat :=
  let home := fun r => (SMap.look [] q.homes r).findIdx? (· == station)
  let at0 := fun r =>
    let e := q.region r
    if !e.valid then none
    else if e.kind == 2 then (if 40 ≤ station then some 0 else (home r).map (65536 * ·))
    else (e.stations.findIdx? (· == station)).map (e.gran * ·)
  ((List.range 64).findSome? fun r => (at0 r).map fun o => (r, o)).getD (0, 0)

/-- STATION_LOST for every partition of a list: no access and so no issuer is concerned. -/
def State.stationLostFor (s : State) (cause station : Nat) : List Nat → State
  | [] => s
  | p :: ps =>
    let w := (s.part p).lostRegion station
    (stationFault s p cause station w.1 w.2).stationLostFor cause station ps

/-- The volume bound to a region, by number. -/
def State.volumeOf (s : State) (p r : Nat) : Option (Nat × Volume) :=
  match s.volumes.find? fun v => match v.2 with
      | some w => w.bound == some (p, r)
      | none => false with
  | some (n, some v) => some (n, v)
  | _ => none

def State.updVolume (s : State) (p r : Nat) (f : Volume → Volume) : State :=
  match s.volumeOf p r with
  | some (n, v) => s.setVolume n (some (f v))
  | none => s

/-- Dirty blocks of a lost station make their volumes inconsistent (R185). -/
def State.dirtyLost (s : State) : List (Nat × DirEnt) → State
  | [] => s
  | d :: ds => (if d.2.valid && d.2.dirty then s.updVolume d.2.part d.2.region fun v => { v with inconsistent := true } else s).dirtyLost
      ds

/-- The commit of a port is refused with a commit-time reason: the skein stays STAGED. -/
def State.refuseCommit (s : State) (h reason : Nat) : State :=
  let l := (s.port h).loader
  let q := s.part l.part
  let s1 := s.setPart l.part { q with plan := none }
  let s2 := { s1 with mgs := { s1.mgs with commitQueue := s1.mgs.commitQueue.filter (· != h) } }
  (s2.setLoader h { l with state := 3, reason := reason, frame := noFrame, commitReason := reason, stage := .idle }).countReject

/-- Commits between allocation and swap with a region share on a station that leaves service are refused (R325). -/
def State.refusePlaced (s : State) (st : Nat) : List Nat → State
  | [] => s
  | h :: hs =>
    let l := (s.port h).loader
    let placed := match (s.part l.part).plan with
      | some pl => pl.ranges.any fun g => g.1 == st
      | none => false
    (if l.stage == .draining && placed then s.refuseCommit h 0x17 else s).refusePlaced st hs

/-- A memory station leaves service; what its slots held is gone. MS_STATE and FS_STATE go from 0 to 2: the spec names 1, degraded,
and no event that enters it, so the model never sets 1 (DESIGN CHOICE, log entry 65). -/
def State.loseMs (s : State) (st : Nat) : State :=
  if (s.mem st).state == 2 then s
  else
    let users := (List.range 64).filter fun p => (s.part p).usesStation st
    let s1 := (s.dirtyLost (s.mem st).dir).updMem st fun m => { m with state := 2, dir := [], buckets := [] }
    let s2 := (s1.event 0x0301 (0x0100 + st) noPart st).dropHost (fun n _ => n == st) 0x0F
    (s2.refusePlaced st (List.range 32)).stationLostFor 5 st users

/-- A flash station leaves service: every partition with a region of KIND 2 gets STATION_LOST (R324). -/
def State.loseFs (s : State) (n : Nat) : State :=
  if (s.flash n).state == 2 then s
  else
    let users := (List.range 64).filter fun p => (s.part p).regions.any fun r => r.2.valid && r.2.kind == 2
    ((s.setFlash n { s.flash n with state := 2 }).event 0x0305 (0x0140 + n) noPart n).stationLostFor 5 (40 + n) users

/-! ## Keys (R262) -/

/-- The KDF's context: PART, then the creation serial. -/
def Part.context (q : Part) (p : Nat) : List Byte := leBytes 1 p ++ leBytes 8 q.serial

/-- The keys derived from PRK: MEMK, SPLK and a VOLK for each confidential volume. -/
def Part.keyRegs (q : Part) (p : Nat) (vols : List Nat) : List KeyReg :=
  let key := fun label n => kdf q.prk label (q.context p) n
  [⟨p, 0, 0, key (ascii "MEMK") 64⟩, ⟨p, 1, 0, key (ascii "SPLK") 32⟩]
    ++ vols.map fun v => ⟨p, 2, v, key (ascii "VOLK" ++ leBytes 2 v) 64⟩

/-- The confidential volumes of a partition. -/
def State.volumesFor (s : State) (p : Nat) : List Nat :=
  s.volumes.filterMap fun v => match v.2 with
    | some w => if w.conf == some p then some v.1 else none
    | none => none

def putKeys (old new : List KeyReg) (p : Nat) : List KeyReg := old.filter (fun k => k.part != p) ++ new

/-- A confidential partition's keys go to the stations that serve it: those with a share or a home of its regions, and the flash stations once
it has a volume. -/
def State.loadKeys (s : State) (p : Nat) : State :=
  let q := s.part p
  if !q.conf then s
  else
    let vols := s.volumesFor p
    let ks := q.keyRegs p vols
    let s1 := (List.range 40).foldl (fun t st => if q.usesStation st then t.updMem st fun m => { m with keys := putKeys m.keys ks p } else t) s
    (List.range 8).foldl (fun t n => t.setFlash n { t.flash n with keys := putKeys (t.flash n).keys (ks.filter fun k => k.kind == 2) p }) s1

/-- After a confidential volume of a partition came or went. -/
def State.loadVolKeys (s : State) : Option Nat → State
  | some p => s.loadKeys p
  | none => s

/-- The key that a station holds; without one, the empty key. -/
def keyIn (ks : List KeyReg) (p kind vol : Nat) : List Byte := match ks.find? fun k => k.part == p && k.kind == kind && k.vol == vol with
  | some k => k.key
  | none => []

/-! ## Encryption of data off the wafer (R163, R164, R263, R264). State.stack and Volume.data hold the data; what the cells hold is the
ciphertext, which the outer code covers (R140; log entry 11). -/

/-- The tweak of a sector: kind 0 region, 1 volume, 2 journal or pending entry. -/
def xtsTweak (kind index region station : Nat) : Nat :=
  index % 2 ^ 37 + 2 ^ 37 * (region % 64) + 2 ^ 43 * (kind % 4) + 2 ^ 45 * (station % 64)

/-- The initialisation vector of a spill granule. -/
def gcmIv (count granule region : Nat) : List Byte :=
  leBytes 12 (count % 2 ^ 48 + 2 ^ 48 * (granule % 2 ^ 32) + 2 ^ 80 * (region % 64))

/-- The region is a spill region of a confidential partition. -/
def Part.spills (q : Part) (r : Nat) : Bool := q.conf && (q.region r).kind == 1

/-- Station and stack-local address of granule `g`'s 32-byte record, beyond the region's share (R164). -/
def Part.sealAt (q : Part) (r g : Nat) : Nat × Nat :=
  let e := q.region r
  let n := e.stations.length
  let a := q.place r (g * e.gran)
  (a.1, SMap.look 0 q.bases (64 * r + a.1) + e.size / n + 32 * (g / n))

def State.sealOf (s : State) (p r g : Nat) : Seal :=
  let a := (s.part p).sealAt r g
  SMap.look Seal.fresh (s.mem a.1).seals a.2

/-- The tag of a granule as it lies in the stack, under its write count. -/
def State.tagOf (s : State) (p r g count : Nat) : List Byte :=
  let q := s.part p
  let gran := (q.region r).gran
  let key := keyIn (s.mem (q.sealAt r g).1).keys p 1 0
  let iv := gcmIv count g r
  gcmTag key iv [] (gcmCrypt key iv (s.readRegion p r (g * gran) gran))

/-- Granules that a range touches. -/
def granules (gran o n : Nat) : List Nat :=
  if n == 0 then [] else (List.range ((o + n - 1) / gran + 1 - o / gran)).map (o / gran + ·)

/-- A granule was written: its write count advances, and its record takes the new tag. -/
def State.sealGranule (s : State) (p r g : Nat) : State :=
  let a := (s.part p).sealAt r g
  let count := ((s.sealOf p r g).count + 1) % 2 ^ 48
  s.updMem a.1 fun m => { m with seals := SMap.put Seal.fresh m.seals a.2 ⟨count, s.tagOf p r g count⟩ }

def State.sealRange (s : State) (p r o n : Nat) : State :=
  if (s.part p).spills r then (granules ((s.part p).region r).gran o n).foldl (fun t g => t.sealGranule p r g) s else s

/-- The first granule that a range touches whose tag fails. -/
def State.badGranule (s : State) (p r o n : Nat) : Option Nat :=
  (granules ((s.part p).region r).gran o n).find? fun g => (s.sealOf p r g).tag != s.tagOf p r g (s.sealOf p r g).count

/-- The tags of the granules that a range touches verify; only spill regions of confidential partitions have tags. -/
def State.authentic (s : State) (p r o n : Nat) : Bool :=
  !(s.part p).spills r || (granules ((s.part p).region r).gran o n).all fun g =>
    (s.sealOf p r g).tag == s.tagOf p r g (s.sealOf p r g).count

/-- The region offset of a byte at place `d` of a station's share: R139's rule backwards. -/
def Part.offsetAt (q : Part) (r st d : Nat) : Option Nat :=
  let e := q.region r
  let n := e.stations.length
  if d < e.size / n then some ((d / e.gran * n + e.stations.findIdx (· == st)) * e.gran + d % e.gran) else none

/-- How a sector of a stack is protected. -/
inductive Cover where
  | clear
  | xts (key : List Byte) (tweak : Nat)
  /-- From a block of a granule's keystream on. -/
  | gcm (key iv : List Byte) (block : Nat)
  deriving DecidableEq, Repr

/-- Where the stack's areas end (R137, R177): pool, staging slots, pending entries. -/
def poolBytes : Nat := 0xE40000000
def slotAreaEnd : Nat := 0xFD99A0000
def pendArea : Nat := 0xFD9C20000
def pendAreaEnd : Nat := 0xFDBC20000

/-- The journals (R188): 2,016 entries of 133,120 bytes in the first 256 MiB of the firmware area (where they lie in it is a DESIGN
CHOICE, log entry 85). -/
def journalArea : Nat := 0xFE0000000
def journalSize : Nat := 133120
def journalCount : Nat := 2016

/-- The protection of the sector at address `a` (R263). -/
def State.coverAt (s : State) (st a : Nat) : Cover :=
  let m := s.mem st
  if a < poolBytes then
    match m.ranges.find? fun g => decide (g.base ≤ a) && decide (a < g.base + g.size) with
    | none => .clear
    | some g =>
      let q := s.part g.part
      if !q.conf then .clear
      else match q.offsetAt g.region st (a - g.base) with
        | none => .clear
        | some o =>
          let gran := (q.region g.region).gran
          if q.spills g.region then
            .gcm (keyIn m.keys g.part 1 0) (gcmIv (s.sealOf g.part g.region (o / gran)).count (o / gran) g.region) (o % gran / 16)
          else .xts (keyIn m.keys g.part 0 0) (xtsTweak 0 (o / 32) g.region 0)
  else if a < slotAreaEnd then
    let d := SMap.look DirEnt.reset m.dir ((a - poolBytes) / 65536)
    if d.valid && (s.part d.part).conf then
      let v := ((s.volumeOf d.part d.region).map (·.1)).getD 0
      .xts (keyIn m.keys d.part 2 v) (xtsTweak 1 ((65536 * d.block + (a - poolBytes) % 65536) / 32) 0 0)
    else .clear
  else if pendArea ≤ a && a < pendAreaEnd then
    match m.pends.find? fun e => e.1 == (a - pendArea) / 4672 with
    | none => .clear
    | some e => if (s.part e.2.part).conf then .xts (keyIn m.keys e.2.part 0 0) (xtsTweak 2 (a / 32) 0 st) else .clear
  else if journalArea ≤ a then
    match m.journals.find? fun j => j.entry == (a - journalArea) / journalSize with
    | none => .clear
    | some j => if (s.part j.part).conf then .xts (keyIn m.keys j.part 0 0) (xtsTweak 2 (a / 32) 0 st) else .clear
  else .clear

/-- From data to what the cells hold, and back. -/
def Cover.close (c : Cover) (d : List Byte) : List Byte := match c with
  | .clear => d
  | .xts key tweak => xtsEncrypt key tweak d
  | .gcm key iv block => xorB d (gcmStream key iv block 2)
def Cover.openUp (c : Cover) (d : List Byte) : List Byte := match c with
  | .clear => d
  | .xts key tweak => xtsDecrypt key tweak d
  | .gcm key iv block => xorB d (gcmStream key iv block 2)

/-! ## Interlocks (R175, R183, R189) -/

/-- The region and ranges a gradient part's update writes. -/
def Part.partWrites (q : Part) (g : GradPart) : Nat × List (Nat × Nat) :=
  let p := q.pset g.pset
  (p.region, p.ranges g.first g.count)

/-- The parts of partition `p` queued anywhere, and those in pending entries. -/
def State.queued (s : State) (p : Nat) : List GradPart :=
  s.ms.flatMap fun m => (m.2.updq.zip m.2.updParts).filterMap fun u => if u.2 == p then some u.1 else none
def State.pendingParts (s : State) (p : Nat) : List GradPart :=
  s.ms.flatMap fun m => m.2.pends.filterMap fun e => if e.2.part == p then some e.2.grad else none

/-- Master blocks held by a divergence, as region and range (R189). -/
def Part.heldBy (q : Part) (d : Divergence) (n : Nat) : Bool :=
  (q.pset n).valid && (q.pset n).digest && (q.pset n).rgroup == d.rgroup

/-- Parameters of master block `b` of a set. -/
def PSet.blockParams (p : PSet) (b : Nat) : Nat := min 16384 (p.n - 16384 * b)

/-- Does the range of region `r` touch a block a divergence holds? -/
def Part.divHolds (q : Part) (r : Nat) (l : List (Nat × Nat)) : Bool :=
  q.divs.any fun d => (List.range 64).any fun n =>
    let p := q.pset n
    q.heldBy d n && p.region == r && anyMeet (p.ranges (16384 * d.block) (p.blockParams d.block)) l

/-- Is a range of partition `p` interlocked for a request accepted at `stamp`: an update queued before it, or a divergence, holds
it? -/
def State.interlocked (s : State) (p r stamp : Nat) (l : List (Nat × Nat)) : Bool :=
  let q := s.part p
  (s.queued p ++ s.pendingParts p).any (fun g =>
    let w := q.partWrites g
    decide (g.arrival < stamp) && w.1 == r && anyMeet w.2 l)
  || q.divHolds r l

/-! ## The slow tier (R177-R184) -/

/-- SLOTS and PENDS of a partition (R178). -/
def Part.slotQuota (q : Part) : Nat := fld q.set.slowQuota 16 0
def Part.pendQuota (q : Part) : Nat := fld q.set.slowQuota 29 17

/-- Blocks of a region that a list of ranges touches. -/
def blocksOf (l : List (Nat × Nat)) : List Nat :=
  (l.flatMap fun a => (List.range ((a.1 + a.2 + 65535) / 65536 - a.1 / 65536)).map (a.1 / 65536 + ·)).eraseDups

/-- Pending entries that touch a block and that `sel` selects. -/
def State.pendCount (s : State) (p r b : Nat) (sel : PendEnt → Nat) : Nat :=
  s.ms.foldl (fun n m => n + (m.2.pends.filter fun e =>
    e.2.part == p && ((s.part p).partWrites e.2.grad).1 == r && (e.2.blocks.take (sel e.2)).any fun x => x.2 == b).length) 0

/-- PEND of a block (R179, R182): pending entries that hold a reservation for it (log entry 66). -/
def State.pendOf (s : State) (p r b : Nat) : Nat := s.pendCount p r b PendEnt.held

/-- Pending entries that need it. -/
def State.pendNeed (s : State) (p r b : Nat) : Nat := s.pendCount p r b fun e => e.blocks.length

/-- The row a GATHER thread is at: region, offset and bytes. -/
def Active.row (a : Active) (q : Part) : Nat × Nat × Nat :=
  let rows := a.req.rows
  let stride := if rows.length == 0 then 0 else a.req.len / rows.length
  (a.req.region, a.req.offset + nth 0 rows (rows.length - a.left) * stride, min stride (q.region a.req.region).size)

/-- The request a thread serves. -/
def Ms.serves (m : Ms) (t : Thread) : Option Active :=
  match t.job with
  | some (.serve rid) => m.active.find? fun a => a.req.rid == rid
  | _ => none

/-- The partition a thread works for. -/
def Ms.worksFor (m : Ms) (t : Thread) : Option Nat :=
  match t.job with
  | some (.serve _) => (m.serves t).map fun a => a.req.part
  | some (.stage k) => some (SMap.look DirEnt.reset m.dir k).part
  | some (.evict k) => some (SMap.look DirEnt.reset m.dir k).part
  | none => none

/-- READERS of a block (R179): threads with an access to it in flight, and queued updates that touch it. -/
def State.readersOf (s : State) (p r b : Nat) : Nat :=
  let q := s.part p
  let threads := s.ms.foldl (fun n m => n + (m.2.threads.filter fun t => !t.2.ready && match m.2.serves t.2 with
    | some a => a.req.part == p && a.req.kind == .gather && (a.row q).1 == r && (blocksOf [((a.row q).2.1, (a.row q).2.2)]).contains b
    | none => false).length) 0
  threads + ((s.queued p).filter fun g => (q.partWrites g).1 == r && (blocksOf (q.partWrites g).2).contains b).length

/-- Is block `b` staged and readable bytes? -/
def State.staged (s : State) (p r b : Nat) : Bool :=
  match (s.mem ((s.part p).home r b)).findBlock p r b with
  | some d => !d.2.staging
  | none => false

/-- Directory entry of slot `k` (R179), as its two words. -/
def State.dirWords (s : State) (st k : Nat) : List W64 :=
  let d := SMap.look DirEnt.reset (s.mem st).dir k
  if !d.valid then [0, 0]
  else
    [packW [(0, 1), (1, bit d.dirty), (2, bit d.staging), (3, bit d.evicting), (4, bit d.ref), (5, d.part), (11, d.region), (17, d.block),
       (43, s.pendOf d.part d.region d.block % 65536)],
     packW [(0, s.readersOf d.part d.region d.block % 65536), (16, d.next)]]

/-- BLKS of a pending entry, as one number (R181): slot, station and valid bit of each block that it holds a slot for. -/
def State.blksOf (s : State) (e : PendEnt) : Nat :=
  let r := ((s.part e.part).partWrites e.grad).1
  ((e.blocks.take e.held).zipIdx.map fun x => match (s.mem x.1.1).findBlock e.part r x.1.2 with
    | some (k, _) => (k + 2 ^ 17 * x.1.1 + 2 ^ 23) * 2 ^ (24 * x.2)
    | none => 0).foldl (· + ·) 0

/-- UNSTAGED of a pending entry (R181). -/
def State.unstaged (s : State) (e : PendEnt) : Nat :=
  let r := ((s.part e.part).partWrites e.grad).1
  (e.blocks.filter fun b => !s.staged e.part r b.2).length

/-- A pending entry's 4,672 bytes (R181): header and payload. -/
def State.pendBytes (s : State) (st k : Nat) : List Byte :=
  match (s.mem st).pends.find? fun e => e.1 == k with
  | none => List.replicate 4672 0
  | some (_, e) =>
    let g := e.grad
    let words : List W64 :=
      [packW [(0, 1), (1, e.part), (7, g.pset), (13, bit g.row), (14, s.unstaged e), (18, g.step.toNat)],
       packW [(0, g.first), (42, g.count - 1)], packW [(0, g.arrival % 2 ^ 48)]]
    let bs := (words.flatMap fun w => leBytes 8 w.toNat) ++ leBytes 40 (s.blksOf e) ++ g.data ++ g.scales
    bs ++ List.replicate (4672 - bs.length) 0

/-- The 133,120 bytes of a journal entry (R188): planes 1, 2, 3 and 5, and from byte 116,224 the gradient parts in the order received,
data then scales (the order is a DESIGN CHOICE, log entry 85). -/
def Journal.bytes (j : Journal) : List Byte :=
  let fit := fun n (l : List Byte) => l.take n ++ List.replicate (n - l.length) 0
  fit 116224 (j.planes.flatMap Prod.snd) ++ fit 16896 ((j.grads.flatMap GradPart.data) ++ j.grads.flatMap GradPart.scales)

/-- The bytes of a sector above the staging slots (R177, R188): directory, bucket heads, pending entries, journals; elsewhere what the
stack holds. -/
def State.areaBytes (s : State) (st a : Nat) : List Byte :=
  let m := s.mem st
  let held := SMap.span 0 m.stack a 32
  if a < 0xFD9BA0000 then
    (List.range 2).flatMap fun i => (s.dirWords st ((a - slotAreaEnd) / 16 + i)).flatMap fun w => leBytes 8 w.toNat
  else if a < 0xFD9C20000 then
    (List.range 8).flatMap fun i => match SMap.look 0 m.buckets ((a - 0xFD9BA0000) / 4 + i) with
      | 0 => leBytes 4 0
      | k + 1 => leBytes 4 (k + 2 ^ 17)
  else if a < 0xFDBC20000 then
    (List.range 32).map fun i => let o := a - 0xFD9C20000 + i
      nth 0 (s.pendBytes st (o / 4672)) (o % 4672)
  else if journalArea ≤ a then
    match m.journals.find? fun j => j.entry == (a - journalArea) / journalSize with
    | some j => (j.bytes.drop ((a - journalArea) % journalSize)).take 32
    | none => held
  else held

/-- The data of the sector at address `a`. -/
def State.sectorData (s : State) (st a : Nat) : List Byte :=
  if slotAreaEnd ≤ a then s.areaBytes st a else SMap.span 0 (s.mem st).stack a 32


/-! ## Sectors through the outer code (R140-R143) -/

/-- What the cells of a sector hold. -/
def State.stored (s : State) (st a : Nat) : List Byte := (s.coverAt st a).close (s.sectorData st a)

/-- The sectors of a station that hold a partition's regions and staged blocks. -/
def Ms.sectorsFor (m : Ms) (p : Nat) : List Nat :=
  (m.ranges.filter fun g => g.part == p).flatMap (fun g => (List.range (g.size / 32)).map (g.base + 32 * ·))
    ++ (m.dir.filter fun d => d.2.valid && d.2.part == p).flatMap fun d => (List.range 2048).map (slotAddr d.1 + 32 * ·)

/-- The keys of a confidential partition are about to be destroyed (R267): what its cells hold stays as it is, ciphertext that nothing
deciphers any more. -/
def State.cryptoErase (s : State) (p : Nat) : State :=
  if (s.part p).conf then
    { s with ms := SMap.mapV Ms.reset (fun st m =>
        { m with stack := (m.sectorsFor p).foldl (fun k a => SMap.putAll 0 k a (s.stored st a)) m.stack }) s.ms }
  else s

/-- What flash holds of a confidential volume's sector at offset `o`: under VOLK(v), as the flash stations hold it. -/
def State.storedFlash (s : State) (v : Nat) (w : Volume) (o : Nat) : List Byte := match w.conf with
  | none => SMap.span 0 w.data o 32
  | some p => xtsEncrypt (keyIn (s.flash 0).keys p 2 v) (xtsTweak 1 (o / 32) 0 0) (SMap.span 0 w.data o 32)

/-- A read of the sector at `a`, with the erroneous symbols it meets: the bytes delivered and whether they were corrected;
none: uncorrectable. -/
def State.readSector (s : State) (st a : Nat) (es : List SymErr) : Option (List Byte × Bool) :=
  if (s.mem st).poison.contains a then none
  else if es.isEmpty then some (s.sectorData st a, false)
  else
    let c := s.stored st a
    match rsDecode (es.foldl (fun w e => rsFix w e.pos e.diff.toNat) (c ++ rsCheck c)) with
    | .good d fixed => some ((s.coverAt st a).openUp d, fixed)
    | .uncorrectable => none

/-- Stack row of an address (log entry 28). -/
def stackRow (a : Nat) : Nat := a / 2048

/-- A corrected sector is rewritten and counted against its row (R142). -/
def Ms.corrected (m : Ms) (a limit : Nat) (d : List Byte) : Ms :=
  let row := stackRow a
  let n := SMap.look 0 m.rowCe row + 1
  { m with stack := SMap.putAll 0 m.stack a d, ce := sat32 m.ce 1, rowCe := SMap.put 0 m.rowCe row n
           rowsDue := if decide (limit ≤ n) && !m.rowsDue.contains row then m.rowsDue ++ [row] else m.rowsDue }

/-- An uncorrectable sector enters the poison table, or finds it full (R143): the station leaves service. -/
def State.poisonSector (s : State) (st a : Nat) : State :=
  let m := s.mem st
  if m.poison.contains a then s
  else
    let s1 := s.setMem st { m with ue := sat32 m.ue 1 }
    if m.poison.length < 4096 then s1.updMem st fun m => { m with poison := m.poison ++ [a] } else s1.loseMs st

/-- Read the `n` sectors from `a` in order, `k` the number of the first: the state after, and the bytes; none: one was
uncorrectable. -/
def State.readSectors (s : State) (st : Nat) (errs : List SymErr) : Nat → Nat → Nat → State × Option (List Byte)
  | _, _, 0 => (s, some [])
  | a, k, n + 1 =>
    match s.readSector st a (errs.filter fun e => e.sector == k) with
    | none =>
      let r := (s.poisonSector st a).readSectors st errs (a + 32) (k + 1) n
      (r.1, none)
    | some (d, c) =>
      let s1 := if c then s.updMem st fun m => m.corrected a s.tune.memRowCeLimit d else s
      let r := s1.readSectors st errs (a + 32) (k + 1) n
      (r.1, r.2.map (d ++ ·))

/-- Read `n` bytes at stack address `a`. -/
def State.readStack (s : State) (st a n : Nat) (errs : List SymErr) : State × Option (List Byte) :=
  let r := s.readSectors st errs (a / 32 * 32) 0 ((a + n + 31) / 32 - a / 32)
  (r.1, r.2.map fun bs => (bs.drop (a % 32)).take n)

/-- Stations and sectors of a region range, in order, where they lie now. -/
def State.sectorSpots (s : State) (p r o n : Nat) : List (Nat × Nat) :=
  (List.range ((o + n + 31) / 32 - o / 32)).filterMap fun i => s.locate p r (32 * (o / 32 + i))

/-- Read a list of sectors through the outer code, the first as number `k`: the state after, and the bytes; none: one was
uncorrectable. -/
def State.readSpots (s : State) (errs : List SymErr) : Nat → List (Nat × Nat) → State × Option (List Byte)
  | _, [] => (s, some [])
  | k, a :: l =>
    match s.readSector a.1 a.2 (errs.filter fun e => e.sector == k) with
    | none =>
      let r := (s.poisonSector a.1 a.2).readSpots errs (k + 1) l
      (r.1, none)
    | some (d, c) =>
      let s1 := if c then s.updMem a.1 fun m => m.corrected a.2 s.tune.memRowCeLimit d else s
      let r := s1.readSpots errs (k + 1) l
      (r.1, r.2.map (d ++ ·))

/-- A read in progress: the state, the number of its next sector, and the bytes so far; none once a sector was uncorrectable. -/
abbrev Reading := State × Nat × Option (List Byte)

/-- Go on with a range of region `r` of partition `p`, across granules, stations and slots. -/
def Reading.range (rd : Reading) (p r : Nat) (errs : List SymErr) (w : Nat × Nat) : Reading :=
  let l := rd.1.sectorSpots p r w.1 w.2
  let x := rd.1.readSpots errs rd.2.1 l
  (x.1, rd.2.1 + l.length, match rd.2.2, x.2 with
    | some old, some bs => some (old ++ (bs.drop (w.1 % 32)).take w.2)
    | _, _ => none)

/-- A host's read of a spill range delivers nothing where a tag fails (R164; log entry 11). -/
def Reading.checked (rd : Reading) (p r : Nat) (w : Nat × Nat) : Reading :=
  if rd.1.authentic p r w.1 w.2 then rd else (rd.1, rd.2.1, none)

def Reading.ranges (rd : Reading) (p r : Nat) (errs : List SymErr) (l : List (Nat × Nat)) : Reading :=
  l.foldl (fun rd w => rd.range p r errs w) rd

/-- Go on after what has been read: its bytes are done with. -/
def Reading.next (rd : Reading) : Reading := (rd.1, rd.2.1, rd.2.2.map fun _ => [])

/-- Begin a read. -/
def State.reading (s : State) (k : Nat := 0) : Reading := (s, k, some [])

/-- Where the bytes of a region range lie now: stations and stack addresses (R139, R177). -/
def State.spots (s : State) (p r o n : Nat) : List (Nat × Nat) := (List.range n).filterMap fun i => s.locate p r (o + i)

/-- The sectors that a write covers in part, as ranges (R140). -/
def edgeRanges (w : Nat × Nat) : List (Nat × Nat) :=
  ((if w.1 % 32 != 0 then [(w.1 / 32 * 32, 32)] else [])
    ++ if (w.1 + w.2) % 32 != 0 then [((w.1 + w.2) / 32 * 32, 32)] else []).eraseDups

/-- The whole sectors of a range of a region have been written: they leave the poison table (R143). -/
def State.cleanRange (s : State) (p r : Nat) (w : Nat × Nat) : State :=
  let a := (w.1 + 31) / 32
  (s.sectorSpots p r (32 * a) (32 * ((w.1 + w.2) / 32 - a))).foldl
    (fun s x => s.updMem x.1 fun m => { m with poison := m.poison.filter (· != x.2) }) s

def State.cleanRanges (s : State) (p r : Nat) : List (Nat × Nat) → State
  | [] => s
  | w :: l => (s.cleanRange p r w).cleanRanges p r l

/-- Write bytes of a region; whole sectors leave the poison table (R143), and spill granules are sealed anew (R164). -/
def State.storeRegion (s : State) (p r o : Nat) (bs : List Byte) : State :=
  ((s.writeRegion p r o bs).cleanRange p r (o, bs.length)).sealRange p r o bs.length

/-- The first sector of a list of region ranges that is poisoned: its station, region and offset (R165). -/
def State.badSector (s : State) (p : Nat) : List (Nat × Nat × Nat) → Option (Nat × Nat × Nat)
  | [] => none
  | (r, o, n) :: l =>
    match (List.range ((o + n + 31) / 32 - o / 32)).findSome? fun i =>
        match s.locate p r (32 * (o / 32 + i)) with
        | some a => if (s.mem a.1).poison.contains a.2 then some (a.1, r, 32 * (o / 32 + i)) else none
        | none => none with
    | some x => some x
    | none => s.badSector p l

/-! ## Requests that end -/

def Ms.find (m : Ms) (rid : Nat) : Option Active := m.active.find? fun a => a.req.rid == rid

/-- Replace a request's record. -/
def Ms.setActive (m : Ms) (a : Active) : Ms := { m with active := m.active.map fun b => if b.req.rid == a.req.rid then a else b }

/-- Acknowledge a WRITE or UPDATE, or a host's write (R148, R248), and give its slots back. -/
def State.ackRequest (s : State) (st : Nat) (a : Active) : State :=
  let s1 := s.updMem st fun m => { m with active := m.active.filter fun b => b.req.rid != a.req.rid }
  match a.req.host with
  | some h => s1.hostOver h a.req.rid 0
  | none => s1.inject a.req.part a.req.cls a.req.epoch (.core a.req.sa a.req.x a.req.y) 0 (.ack a.req.desc a.req.tile)

/-- One part of an UPDATE tile is queued: with the last one the tile is acknowledged (R148, R172). -/
def State.partQueued (s : State) (rid : Nat) : State :=
  match s.ms.find? fun m => (m.2.find rid).isSome with
  | none => s
  | some (st, m) =>
    match m.find rid with
    | none => s
    | some a =>
      let b := { a with left := a.left - 1 }
      if b.left == 0 then s.ackRequest st b else s.updMem st fun m => m.setActive b

/-! ## Slots and threads -/

/-- Is it staged, and not on its way out? -/
def State.stays (s : State) (p r b : Nat) : Bool :=
  match (s.mem ((s.part p).home r b)).findBlock p r b with
  | some d => !d.2.staging && !d.2.evicting
  | none => false

/-- Slots a partition holds at a station. -/
def Ms.slotsHeld (m : Ms) (p : Nat) : Nat := (m.dir.filter fun d => d.2.valid && d.2.part == p).length

/-- The lowest free slot. -/
def Ms.freeSlot (m : Ms) : Option Nat := (List.range 104857).find? fun k => !(SMap.look DirEnt.reset m.dir k).valid

/-- The block that a slot holds is one a divergence holds (R189). -/
def State.blockHeld (s : State) (d : DirEnt) : Bool := (s.part d.part).divHolds d.region [(65536 * d.block, 65536)]

/-- One pass of the eviction sweep over a partition's slots in slot order (R180): the slots with REF cleared on the way, and the
first slot whose REF, PEND and READERS are 0, and whose block no divergence holds. -/
def State.sweep (s : State) (p : Nat) : List (Nat × DirEnt) → List Nat × Option (Nat × DirEnt)
  | [] => ([], none)
  | d :: ds =>
    if !(d.2.valid && d.2.part == p) || d.2.staging || d.2.evicting then s.sweep p ds
    else if d.2.ref then
      let r := s.sweep p ds
      (d.1 :: r.1, r.2)
    else if s.pendOf p d.2.region d.2.block == 0 && s.readersOf p d.2.region d.2.block == 0 && !s.blockHeld d.2 then
      ([], some d)
    else s.sweep p ds

/-- Clear REF of slots. -/
def Ms.clearRef (m : Ms) (ks : List Nat) : Ms :=
  { m with dir := SMap.mapV DirEnt.reset (fun k d => if ks.contains k then { d with ref := false } else d) m.dir }

/-- One sweep: the state with REF cleared, and the slot it found. -/
def State.sweepOnce (s : State) (st p : Nat) : State × Option (Nat × DirEnt) :=
  let r := s.sweep p (s.mem st).dir
  (s.updMem st fun m => m.clearRef r.1, r.2)

/-- The eviction the sweep chooses: a second pass finds what the first cleared. -/
def State.victim (s : State) (st p : Nat) : State × Option (Nat × DirEnt) :=
  let r := s.sweepOnce st p
  match r.2 with
  | some d => (r.1, some d)
  | none => r.1.sweepOnce st p

/-- Count an eviction. -/
def State.countEviction (s : State) : State :=
  { s with tally := { s.tally with slotEvictions := sat32 s.tally.slotEvictions 1 } }

/-- Write a slot's block to its volume, read through the outer code: the state after, and whether every sector was good. -/
def State.saveBlock (s : State) (st k : Nat) (d : DirEnt) (errs : List SymErr) : State × Bool :=
  let rd := s.readStack st (slotAddr k) 65536 errs
  match rd.2 with
  | some bs => (rd.1.updVolume d.part d.region fun v =>
      { v with data := SMap.putAll 0 v.data (65536 * d.block) bs, lost := v.lost.filter (· != d.block) }, true)
  | none => (rd.1, false)

/-- Free the thread that has a job. -/
def Ms.endJob (m : Ms) (j : Job) : Ms :=
  { m with threads := SMap.mapV Thread.reset (fun _ t => if t.job == some j then Thread.reset else t) m.threads }

/-- The slot of a block is used: REF is set (R179), and a write-back under way is cancelled: the block stays staged and clean
(R180). -/
def State.useSlot (s : State) (st k : Nat) (d : DirEnt) : State :=
  if d.evicting then
    let w := s.saveBlock st k d []
    w.1.updMem st fun m =>
      { m.endJob (.evict k) with dir := SMap.put DirEnt.reset m.dir k { d with evicting := false, dirty := !w.2, ref := true } }
  else s.updMem st fun m => { m with dir := SMap.put DirEnt.reset m.dir k { d with ref := true } }

def State.useBlocks (s : State) (p r : Nat) : List Nat → State
  | [] => s
  | b :: bs =>
    let st := (s.part p).home r b
    (match (s.mem st).findBlock p r b with
      | some (k, d) => s.useSlot st k d
      | none => s).useBlocks p r bs

/-- Class-0 slots a partition reserves at a station (R156), and threads (R158): those of a suspended partition are released (R231). -/
def State.reserved (s : State) (p st : Nat) : Nat :=
  let q := s.part p
  if q.cls == 0 && q.state != .none && q.state != .suspended && q.state != .placed then nth 0 q.set.class0Res st else 0

/-- A free thread of a station that partition `p` may take: class-0 reservations of the others stay free (R158). -/
def State.threadFor (s : State) (st p : Nat) : Option Nat :=
  let m := s.mem st
  let used := fun o => (m.threads.filter fun t => m.worksFor t.2 == some o).length
  let kept := ((List.range 64).map fun o => if o == p then 0 else ceilDiv (s.reserved o st) 8 - used o).foldl (· + ·) 0
  let free := (List.range 32).filter fun k => SMap.look Thread.reset m.threads k == Thread.reset
  if kept < free.length then free.head? else none

/-- A thread of the station is held by a GATHER that is switched out and waits (R158, R175). -/
def Ms.waiter (m : Ms) : Bool := m.threads.any fun t => t.2.ready && (m.serves t.2).any fun a => a.req.kind == .gather

/-- The engine can run a service for partition `p`: a thread is free for it, or one that waits gives way to it, so the tier cannot wait
on itself (R184; log entry 67). -/
def State.engineFree (s : State) (st p : Nat) : Bool := (s.threadFor st p).isSome || (s.mem st).waiter

/-- Give a job a thread: a free one, or the place of one that waits (log entry 67). -/
def State.startJob (s : State) (st p : Nat) (j : Job) : Option State :=
  match s.threadFor st p with
  | some t => some (s.updMem st fun m => { m with threads := SMap.put Thread.reset m.threads t ⟨some j, false⟩ })
  | none => if (s.mem st).waiter then some s else none

/-- Start the flash read of a block into slot `k`. -/
def State.stageInto (s : State) (st k p r b : Nat) : State × Bool :=
  match s.startJob st p (.stage k) with
  | some s1 => (s1.updMem st fun m => m.takeSlot k p r b, true)
  | none => (s, false)

/-- A slot for block `b`, which none holds, and its staging (R180): from the partition's quota, or by eviction when the quota is full.
Answers whether it has one; otherwise the wait goes on. -/
def State.takeSlot (s : State) (st p r b : Nat) : State × Bool :=
  if (s.mem st).slotsHeld p < (s.part p).slotQuota then
    match (s.mem st).freeSlot with
    | some k => s.stageInto st k p r b
    | none => (s, false)
  else if (s.mem st).dir.any fun d => d.2.valid && d.2.part == p && d.2.evicting then (s, false)
  else
    match s.victim st p with
    | (s1, none) => (s1, false)
    | (s1, some (k, d)) =>
      if d.dirty then
        match s1.startJob st p (.evict k) with
        | some s2 => (s2.updMem st fun m => { m with dir := SMap.put DirEnt.reset m.dir k { d with evicting := true } }, false)
        | none => (s1, false)
      else
        let w := s1.stageInto st k p r b
        (if w.2 then w.1.countEviction else w.1, w.2)

/-- A request for block `b` (R180): cancels its eviction and sets REF, or asks for a slot. -/
def State.want (s : State) (p r b : Nat) : State × Bool :=
  let st := (s.part p).home r b
  match (s.mem st).findBlock p r b with
  | some (k, d) => (s.useSlot st k d, true)
  | none => s.takeSlot st p r b

def State.wantAll (s : State) (p r : Nat) : List Nat → State
  | [] => s
  | b :: bs => (s.want p r b).1.wantAll p r bs

/-! ## Waits that end -/

/-- The pending entries of all stations in queue order. -/
def insertPend (e : PendEnt) : List PendEnt → List PendEnt
  | [] => [e]
  | f :: l => if e.grad.arrival ≤ f.grad.arrival then e :: f :: l else f :: insertPend e l

def State.pendList (s : State) : List PendEnt := (s.ms.flatMap fun m => m.2.pends.map (·.2)).foldl (fun l e => insertPend e l) []

/-- The entry's reservations, block by block in increasing station number (R182), at stations where no older entry of its partition
waits for one; `blocked` holds those (partition, station). -/
def State.reserve (s : State) (e : PendEnt) (blocked : List (Nat × Nat)) : List (Nat × Nat) → State × Nat × List (Nat × Nat)
  | [] => (s, 0, blocked)
  | x :: xs =>
    if blocked.contains (e.part, x.1) then (s, 0, blocked)
    else
      let w := s.want e.part ((s.part e.part).partWrites e.grad).1 x.2
      if w.2 then
        let r := w.1.reserve e blocked xs
        (r.1, r.2.1 + 1, r.2.2)
      else (w.1, 0, (e.part, x.1) :: blocked)

/-- The pending entry of a part as `f` makes it. -/
def State.updPend (s : State) (e : PendEnt) (f : PendEnt → PendEnt) : State :=
  mapMs s fun m => { m with pends := m.pends.map fun x => if x.2.grad.arrival == e.grad.arrival then (x.1, f x.2) else x }

/-- The entry holds `n` more reservations; with the last one its part is queued, and the tile is acknowledged when all its parts are
(R182). -/
def State.noteHeld (s : State) (e : PendEnt) (n : Nat) : State :=
  if e.held + n == e.blocks.length && !e.acked then
    (s.updPend e fun x => { x with held := x.held + n, acked := true }).partQueued e.grad.rid
  else if n == 0 then s
  else s.updPend e fun x => { x with held := x.held + n }

/-- Reservations are granted in arrival order, so the oldest entry is served first (R182, R184). -/
def State.stagePends (s : State) (blocked : List (Nat × Nat)) : List PendEnt → State
  | [] => s
  | e :: es =>
    let r := s.reserve e blocked (e.blocks.drop e.held)
    (r.1.noteHeld e r.2.1).stagePends r.2.2 es

/-- Region ranges a request still has to read or write. -/
def Active.ranges (a : Active) : List (Nat × Nat) :=
  match a.req.kind with
  | .gather =>
    let stride := if a.req.rows.length == 0 then 0 else a.req.len / a.req.rows.length
    (a.req.rows.drop (a.req.rows.length - a.left)).map fun i => (a.req.offset + i * stride, stride)
  | .update => []
  | _ => [(a.req.offset, a.req.len)]

/-- Ranges widened to whole sectors. -/
def sectorsOf (l : List (Nat × Nat)) : List (Nat × Nat) :=
  l.map fun a => (a.1 / 32 * 32, (a.1 + a.2 + 31) / 32 * 32 - a.1 / 32 * 32)

def Request.sectors (r : Request) : List (Nat × Nat) :=
  sectorsOf (Active.ranges ⟨r, 0, 0, 0, .issued, [], r.rows.length⟩)

/-- A request that arrived before `r` at a station port and has still to be served touches a sector of a list of ranges of the same
region (R152). -/
def State.heldBack (s : State) (r : Request) (l : List (Nat × Nat)) : Bool :=
  let older := fun (b : Request) (w : List (Nat × Nat)) =>
    decide (b.arrived < r.arrived) && b.part == r.part && b.region == r.region && anyMeet w (sectorsOf l)
  s.ms.any fun m => (m.2.waiting.any fun b => older b b.sectors)
    || m.2.active.any fun b => b.stage == .issued && older b.req (sectorsOf b.ranges)

/-- Can the row a GATHER is at be read now (R152, R175, R183)? -/
def State.rowReady (s : State) (a : Active) : Bool :=
  let q := s.part a.req.part
  let w := a.row q
  let l := [(w.2.1, w.2.2)]
  !s.interlocked a.req.part w.1 a.stamp l && !s.heldBack a.req l
    && ((q.region w.1).kind != 2
      || (blocksOf l).all fun b => s.staged a.req.part w.1 b && s.pendOf a.req.part w.1 b == 0)

/-- A thread that waits goes on, or asks for its block again. -/
def State.pumpThread (s : State) (st k : Nat) (t : Thread) : State :=
  match (s.mem st).serves t with
  | some a =>
    let q := s.part a.req.part
    let w := a.row q
    if !t.ready || a.req.kind != .gather then s
    else if s.rowReady a then
      (if (q.region w.1).kind == 2 then s.useBlocks a.req.part w.1 (blocksOf [(w.2.1, w.2.2)]) else s).updMem st fun m =>
        { m with threads := SMap.put Thread.reset m.threads k { t with ready := false }, lastThread := k }
    else
      if (q.region w.1).kind == 2 then
        s.wantAll a.req.part w.1 ((blocksOf [(w.2.1, w.2.2)]).filter fun b => !s.stays a.req.part w.1 b)
      else s
  | none => s

def State.pumpThreads (s : State) : List (Nat × Nat × Thread) → State
  | [] => s
  | t :: ts => (s.pumpThread t.1 t.2.1 t.2.2).pumpThreads ts

/-- Proportions 4 : 2 : 1 of classes 1, 2, 3 (R155), and the slots served to a class in the round under way. -/
def classShare (c : Nat) : Nat := nth 0 [0, 4, 2, 1] c
def served (rr : List Nat) (c : Nat) : Nat := nth 0 rr (c - 1)

/-- The next round: what a class was served beyond its share counts against it. -/
def newRound (rr : List Nat) : List Nat := [served rr 1 - 4, served rr 2 - 2, served rr 3 - 1]

/-- The class that the round robin serves next among those that wait, and the round it counts in. -/
def nextClass : Nat → List Nat → (Nat → Bool) → Option (Nat × List Nat)
  | 0, _, _ => none
  | n + 1, rr, waits =>
    match [1, 2, 3].find? fun c => waits c && decide (served rr c < classShare c) with
    | some c => some (c, rr)
    | none => if [1, 2, 3].any waits then nextClass n (newRound rr) waits else none

/-- The round after a request of `n` slots of class `c` has been served. -/
def charge (rr : List Nat) (c n : Nat) : List Nat := if c == 0 then rr else rr.set (c - 1) (served rr c + n)

/-- The one with the least key. -/
def least {α : Type} (key : α → Nat) : List α → Option α
  | [] => none
  | a :: l => some (l.foldl (fun m b => if key b < key m then b else m) a)

/-- The one that R155 serves next of a list, with the round it counts in: class 0 first, then 4 : 2 : 1, in arrival order within a
class. -/
def serveNext {α : Type} (req : α → Request) (rr : List Nat) (l : List α) : Option (α × List Nat) :=
  match least (fun a => (req a).arrived) (l.filter fun a => (req a).cls == 0) with
  | some a => some (a, rr)
  | none =>
    match nextClass 512 rr fun c => l.any fun a => (req a).cls == c with
    | none => none
    | some (c, rr1) => (least (fun a => (req a).arrived) (l.filter fun a => (req a).cls == c)).map fun a => (a, rr1)

/-- Slots a request takes: each stands for 1 KiB of tile. -/
def Request.need (r : Request) : Nat := tileMessages r.len

/-- Is a request served by an engine thread, and has none yet? -/
def Ms.needsThread (m : Ms) (a : Active) : Bool :=
  a.req.kind == .gather && a.stage == .issued && !(m.threads.any fun t => t.2.job == some (.serve a.req.rid))

/-- Give threads to requests that wait for one, in the order of R155. -/
def State.dispatch (s : State) (st : Nat) : Nat → State
  | 0 => s
  | n + 1 =>
    let m := s.mem st
    match serveNext Active.req m.rrThread (m.active.filter fun a => m.needsThread a && (s.threadFor st a.req.part).isSome) with
    | none => s
    | some (a, rr) =>
      match s.threadFor st a.req.part with
      | none => s
      | some k => (s.updMem st fun m =>
          { m with threads := SMap.put Thread.reset m.threads k ⟨some (.serve a.req.rid), true⟩
                   rrThread := charge rr a.req.cls a.req.need }).dispatch st n

def State.dispatchAll (s : State) : List Nat → State
  | [] => s
  | st :: sts => (s.dispatch st 32).dispatchAll sts

/-- A station's threads in the order in which they issue: class 0 first, then in turn after the last one (R158). -/
def Ms.threadOrder (m : Ms) : List (Nat × Thread) :=
  let turn := (m.threads.filter fun t => decide (m.lastThread < t.1)) ++ m.threads.filter fun t => !decide (m.lastThread < t.1)
  let zero := fun t : Nat × Thread => (m.serves t.2).any fun a => a.req.cls == 0
  turn.filter zero ++ turn.filter fun t => !zero t

/-- Everything that a change of the stations lets go on: staging in arrival order, thread dispatch, waiting threads. -/
def State.pump (s : State) : State :=
  let s1 := (s.stagePends [] s.pendList).dispatchAll (s.ms.map (·.1))
  s1.pumpThreads (s1.ms.flatMap fun m => m.2.threadOrder.map fun t => (m.1, t.1, t.2))

end Sys2Proof.Machine
end

