-- ==== Sys2Proof/Machine/Commit.lean ====
section
/-!
DEFINITION. Commit: COMMIT_CTL, the halt of a partial skein, allocation, the epoch check, drain or flush, the swap and the restart
(R138, R156, R178, R201, R205-R211, R252).
-/
namespace Sys2Proof.Machine

/-! ## Memory (R138, R164, R178, R252) -/

/-- Bytes of the region pool of a station (R137). -/
def poolSize : Nat := 0xE40000000

/-- The lowest address at which `n` bytes fit beside the ranges in use. -/
def firstFit (used : List (Nat × Nat)) (n : Nat) : Option Nat :=
  let good := (0 :: used.map fun u => u.1 + u.2).filter fun c =>
    decide (c + n ≤ poolSize) && used.all fun u => decide (c + n ≤ u.1) || decide (u.1 + u.2 ≤ c)
  match good with
  | [] => none
  | c :: l => some (minOf c l)

/-- Ranges of a station's pool in use: given, waiting for their zero-write, or taken by commits under way. -/
def State.poolUsed (s : State) (pl : Plan) (st : Nat) : List (Nat × Nat) :=
  let m := s.mem st
  ((m.ranges ++ m.zeroing).map fun g => (g.base, g.size))
    ++ (s.parts.flatMap fun q => match q.2.plan with
      | some o => (o.ranges.filter fun g => g.1 == st).map fun g => (g.2.base, g.2.size)
      | none => [])
    ++ (pl.ranges.filter fun g => g.1 == st).map fun g => (g.2.base, g.2.size)

/-- Bytes of a region's range on each of its stations: its share, and in a confidential partition the 32 bytes of each granule of
a spill region. -/
def RegionEnt.rangeSize (r : RegionEnt) (conf : Bool) : Nat :=
  let share := r.size / r.stations.length
  if conf && r.kind == 1 then share + 32 * (share / r.gran) else share

/-- A region's ranges on a list of stations. -/
def State.placeOn (s : State) (p r n : Nat) : Plan → List Nat → Except Nat Plan
  | pl, [] => .ok pl
  | pl, st :: sts =>
    if (s.mem st).state != 0 then .error 0x17
    else match firstFit (s.poolUsed pl st) n with
      | none => .error 0x17
      | some a => s.placeOn p r n
          { pl with ranges := pl.ranges ++ [(st, ⟨a, n, p, r⟩)], bases := pl.bases ++ [(64 * r + st, a)] } sts

/-- Regions that the load makes valid. -/
def newRegions (live q : Part) : List Nat :=
  (List.range 64).filter fun r => (q.region r).valid && !(live.region r).valid

/-- Stations in service, in increasing number. -/
def State.msInService (s : State) : List Nat := (List.range 40).filter fun st => (s.mem st).state != 2

/-- The volumes behind the regions of KIND 2. -/
def State.volumesOk (s : State) (p : Nat) (q : Part) : Bool :=
  (List.range 64).all fun r =>
    let e := q.region r
    !(e.valid && e.kind == 2) || (match s.volumeOf p r with
      | some v => decide (e.size ≤ v.2.sizeGib * 2 ^ 30)
      | none => false)

/-- The quotas of the other partitions and this one stay within the stations' totals. -/
def State.quotasOk (s : State) (p : Nat) (q : Part) : Bool :=
  let others := s.parts.filter fun o => o.1 != p && o.2.state != .none
  let sum := fun (f : Part → Nat) => (others.map fun o => f o.2).foldl (· + ·) (f q)
  decide (sum Part.slotQuota ≤ 104857) && decide (sum Part.pendQuota ≤ 6553)

/-- Pool ranges for the new regions, in increasing region number. -/
def State.allocMemory (s : State) (p : Nat) (live q : Part) (pl : Plan) : Except Nat Plan :=
  if !s.volumesOk p q || !s.quotasOk p q then .error 0x17
  else allocEach (fun pl r => s.placeOn p r ((q.region r).rangeSize q.conf) pl (q.region r).stations) pl
    ((newRegions live q).filter fun r => (q.region r).kind != 2)

/-! ## Class 0 (R156) -/

/-- The class reason: CLASS is not the partition's, CLASS0_RES outside class 0, or more than 64 reserved slots at a station. -/
def State.classBad (s : State) (p : Nat) (q : Part) (cls : Nat) : Bool :=
  cls != q.cls || (q.cls != 0 && q.set.class0Res.any (· != 0))
    || (q.cls == 0 && (List.range 40).any fun st =>
      decide (64 < ((List.range 64).map fun o => if o == p then 0 else s.reserved o st).foldl (· + ·) (nth 0 q.set.class0Res st)))

/-! ## COMMIT, halt (R201, R208) -/

/-- COMMIT: acted on in STAGED, where it takes its place among the commits of all ports; in any other state it sets NO_STAGED. -/
def State.commit (s : State) (h : Nat) (flush : Bool) (drainUs : Nat) : State :=
  if !s.acts h then s
  else
    let l := { (s.port h).loader with flush := flush, drainUs := drainUs }
    if l.state != 3 then s.setLoader h { l with noStaged := true }
    else
      let stage := if (s.part l.part).state == .running then .halting else .queued
      { s.setLoader h { l with state := 4, stage := stage } with
        mgs := { s.mgs with commitQueue := s.mgs.commitQueue.filter (· != h) ++ [h] } }

def execCommit (port : Nat) (flush : Bool) (drainUs : Nat) (s : State) : Answer :=
  guardUnit (portOk port) (s.commit port flush drainUs)

/-- COMMIT_HALT_DONE: every array of the partition is at rest. -/
def State.commitHalt (s : State) (h : Nat) : State :=
  let l := (s.port h).loader
  if l.state == 4 && l.stage == .halting && (s.part l.part).sas.all s.atRest then s.setLoader h { l with stage := .queued } else s

def execCommitHaltDone (port : Nat) (s : State) : Answer :=
  guardUnit (portOk port) ((s.runOuts (s.part (s.port port).loader.part).sas).commitHalt port)

/-! ## The swap (R208-R210) -/

/-- Write an 8-bit field of a configuration word (ROUTE or RESP). -/
def putField (m : SMap Byte) (ofs lo v : Nat) : SMap Byte :=
  let w := leNat (SMap.span 0 m ofs 8)
  SMap.putAll 0 m ofs (leBytes 8 (w - bits w (lo + 7) lo * 2 ^ lo + v % 256 * 2 ^ lo))

/-- A core's shadows with the fields that commit fills in. -/
def Core.filled (c : Core) (fs : List (Nat × Nat × Nat × Nat)) : Core :=
  { c with cfgShadow := fs.foldl (fun m f => putField m f.2.1 f.2.2.1 f.2.2.2) c.cfgShadow }

def fillCores (s : State) (fs : List (Nat × Nat × Nat × Nat)) : List Nat → State
  | [] => s
  | k :: ks => fillCores (s.setCore k ((s.core k).filled (fs.filter fun f => f.1 == k))) fs ks

/-- RING_CFG of a ring changes, or every ring is emptied. -/
def State.ringChanges (s : State) (flush : Bool) (k r : Nat) : Bool :=
  flush || (s.core k).ringCfg r != (s.core k).after.ringCfg r

/-- STREAM_DESC of a descriptor changes, ROUTE and RESP aside. -/
def Core.descChanges (c : Core) (d : Nat) : Bool :=
  let keep := fun w : W64 => w &&& ~~~(0xFFFF#64 <<< 42)
  c.descW d 0 != c.after.descW d 0 || keep (c.descW d 1) != keep (c.after.descW d 1) || c.descW d 2 != c.after.descW d 2

/-- The destination ring or buffer of a CHANNEL or REDUCE record changes, with the record or by itself. -/
def State.destChanges (s : State) (live q : Part) (flush : Bool) (r : RouteRec) : Bool :=
  flush || !live.routes.contains r
    || (if r.toRed then match q.redPoint r.destRed with
        | some o => !live.routes.contains o
        | none => true
      else
        let k := coreKey (q.saAt r.destSa) r.destX r.destY
        let ring := if r.kind == 3 then r.destRing else chanRing ((s.core (coreKey (q.saAt r.saRel) r.x r.y)).after.chanW0 r.port)
        (if r.kind == 1 && chanKind ((s.core (coreKey (q.saAt r.saRel) r.x r.y)).after.chanW0 r.port) == 2 then false
          else s.ringChanges flush k ring))

/-- A channel is set anew: its CHAN_CFG, ROUTE aside, or its destination changes. -/
def State.chanChanges (s : State) (live q : Part) (flush : Bool) (r : RouteRec) : Bool :=
  let c := s.core (coreKey (q.saAt r.saRel) r.x r.y)
  let keep := fun w : W64 => w &&& ~~~0xFF#64
  keep (c.chanW0 r.port) != keep (c.after.chanW0 r.port) || c.chanW1 r.port != c.after.chanW1 r.port || s.destChanges live q flush r

/-- Messages of the rings of a core that are emptied. -/
def State.lostMsgs (s : State) (flush : Bool) (k : Nat) : Nat :=
  ((s.core k).rings.filter fun r => s.ringChanges flush k r.1).foldl (fun n r => n + r.2.msgs.length) 0

/-- A core's rings and descriptors across the swap, and its shadows made live: the program banks are exchanged. -/
def State.swapCore (s : State) (flush : Bool) (k : Nat) : Core :=
  let c := s.core k
  { c with
    rings := c.rings.filter fun r => !s.ringChanges flush k r.1
    descs := c.descs.filter fun d => !(flush || c.descChanges d.1)
    prog := c.progShadow, progShadow := c.prog, cfg := c.cfgShadow }

def swapCores (old : State) (flush : Bool) (s : State) : List Nat → State
  | [] => s
  | k :: ks => swapCores old flush (s.setCore k (old.swapCore flush k)) ks

/-- A channel's port and the SEQ its receiver expects begin anew: the credit is the ring's size / 8, and the shadow pointer that of
the ring (R105, R210). -/
def State.freshChannel (s : State) (q : Part) (r : RouteRec) : State :=
  let sa := q.saAt r.saRel
  let k := coreKey sa r.x r.y
  let c := s.core k
  let w := c.chanW0 r.port
  let dk := coreKey (q.saAt r.destSa) r.destX r.destY
  let units := ringUnits (chanSize w)
  let put := fun (s : State) wp => let c := s.core k
    s.setCore k (c.setPort r.port { c.port r.port with credit := if chanKind w == 2 then 0 else 2 * units, wp := wp, seq := 0 })
  if r.toRed then
    let side := fld (c.chanW1 r.port) 28 5 % 2
    let clear := fun b : RedBuf => if side == 0 then { b with seq0 := 0 } else { b with seq1 := 0 }
    let wpOf := fun b : RedBuf => if side == 0 then b.wp0 else b.wp1
    match q.redPlace r.destRed with
    | some (.redSlot site slot) =>
      let t := s.router site
      let b := SMap.look RedBuf.reset t.bufs slot
      put (s.setRouter site { t with bufs := SMap.put RedBuf.reset t.bufs slot (clear b) }) (wpOf b)
    | some (.staSlot ms slot) =>
      let m := s.mem ms
      let b := SMap.look RedBuf.reset m.bufs slot
      put (s.setMem ms { m with bufs := SMap.put RedBuf.reset m.bufs slot (clear b) }) (wpOf b)
    | _ => s
  else if chanKind w == 2 then
    let d := s.core dk
    put (s.setCore dk { d with seqs := SMap.put 0 d.seqs (8 * k + r.port) 0 }) 0
  else
    let d := s.core dk
    let g := d.ring (chanRing w)
    put (s.setCore dk (d.setRing (chanRing w) { g with seq := 0 })) g.wp

/-- The buffers of a reduction point. -/
def State.redBuf (s : State) (f : Option Feeder) : RedBuf :=
  match f with
  | some (.redSlot site slot) => SMap.look RedBuf.reset (s.router site).bufs slot
  | some (.staSlot ms slot) => SMap.look RedBuf.reset (s.mem ms).bufs slot
  | _ => RedBuf.reset

def State.setRedBuf (s : State) (f : Option Feeder) (b : RedBuf) : State :=
  match f with
  | some (.redSlot site slot) => let t := s.router site
    s.setRouter site { t with bufs := SMap.put RedBuf.reset t.bufs slot b }
  | some (.staSlot ms slot) => let m := s.mem ms
    s.setMem ms { m with bufs := SMap.put RedBuf.reset m.bufs slot b }
  | _ => s

/-- A reduction point's result begins anew (R131): SEQ 0, credit of the destination's size / 8. -/
def State.freshResult (s : State) (q : Part) (r : RouteRec) : State :=
  let f := q.redPlace r.id
  let units := s.redDestUnits q r
  let dk := coreKey (q.saAt r.destSa) r.destX r.destY
  let put := fun (s : State) wp => s.setRedBuf f { s.redBuf f with credit := 2 * units, wp := wp, seq := 0 }
  if r.toRed then
    let g := q.redPlace r.destRed
    let b := s.redBuf g
    if r.jout % 2 == 0 then put (s.setRedBuf g { b with seq0 := 0 }) b.wp0 else put (s.setRedBuf g { b with seq1 := 0 }) b.wp1
  else
    let d := s.core dk
    let ring := d.ring r.destRing
    put (s.setCore dk (d.setRing r.destRing { ring with seq := 0 })) ring.wp

/-- Buffers that a kept reduction point takes along to its place; all others start empty. -/
def State.carryBufs (old : State) (live q : Part) (flush : Bool) (s : State) : List RouteRec → State
  | [] => s
  | r :: rs =>
    old.carryBufs live q flush
      (s.setRedBuf (q.redPlace r.id) (if flush || !live.routes.contains r then RedBuf.reset else old.redBuf (live.redPlace r.id))) rs

/-- The partition's own entries, slots and buffers leave the routers and stations. -/
def State.dropRoutes (s : State) (p : Nat) : State :=
  let keepBufs := fun (red : SMap W64) (bufs : SMap RedBuf) => bufs.filter fun b =>
    !(redValid (SMap.look 0 red b.1) && redPart (SMap.look 0 red b.1) == p)
  let s1 := mapRouters s fun r =>
    { r with entries := r.entries.filter fun e => !(entValid e.2 && entPart e.2 == p)
             bufs := keepBufs r.red r.bufs
             red := r.red.filter fun e => !(redValid e.2 && redPart e.2 == p) }
  mapMs s1 fun m =>
    { m with bufs := keepBufs m.red m.bufs, red := m.red.filter fun e => !(redValid e.2 && redPart e.2 == p) }

def putEntries (s : State) : List (Nat × Nat × W64) → State
  | [] => s
  | e :: es =>
    let r := s.router e.1
    putEntries (s.setRouter e.1 { r with entries := SMap.put 0 r.entries e.2.1 e.2.2 }) es

def putReds (s : State) : List (Bool × Nat × Nat × W64) → State
  | [] => s
  | e :: es =>
    let s1 := if e.1 then
        let m := s.mem e.2.1
        s.setMem e.2.1 { m with red := SMap.put 0 m.red e.2.2.1 e.2.2.2 }
      else
        let r := s.router e.2.1
        s.setRouter e.2.1 { r with red := SMap.put 0 r.red e.2.2.1 e.2.2.2 }
    putReds s1 es

/-- Pool ranges become the partition's. -/
def putRanges (s : State) : List (Nat × Range) → State
  | [] => s
  | g :: gs => putRanges (s.updMem g.1 fun m => { m with ranges := m.ranges ++ [g.2] }) gs

/-- Release tokens that a branching router holds for groups whose issuer's descriptor is closed go. -/
def State.dropReleases (old : State) (p : Nat) (flush : Bool) (live : Part) (s : State) : State :=
  let gone := live.trees.filter fun g => flush || (old.core (coreKey g.sa g.x g.y)).descChanges g.desc
  mapRouters s fun r => { r with releases := r.releases.filter fun e => !(gone.any fun g => e.1 == 65536 * p + g.group) }

/-- Every core of an array restarts at slot 0 from the fire cycle at which the array rests (R211). -/
def Core.restart (c : Core) (fireCycle : Nat) : Core :=
  let unit := fun u => (⟨[], BitVec.ofNat 6 (steerTagInit (c.steerCfg u)), BitVec.ofNat 6 (steerTagInit (c.steerCfg u))⟩ : Steer)
  { c with slot := 0, loops := [], extra := 0, lastFire := fireCycle, halted := c.prog.isEmpty
           steers := SMap.put Steer.reset (SMap.put Steer.reset [] 0 (unit 0)) 1 (unit 1) }

def restartArrays (s : State) : List Nat → State
  | [] => s
  | n :: ns => restartArrays (mapCores s [n] fun c => c.restart (s.arr n).fireCycle) ns

/-- SKEIN_CHAIN after a commit (R266). -/
def chainAfter (chain digest : List Byte) : List Byte := sha384 (chain ++ digest)

/-- The partition's tables across the swap. -/
def State.swapPart (s : State) (live q : Part) (pl : Plan) (flushed : Nat) (digest : List Byte) : Part :=
  { q with
    state := match live.state with
      | .created => .ready
      | .placed => .resumable
      | st => st
    set := if live.state == .running then { live.set with digest := digest } else q.set
    routesShadow := [], trees := pl.trees, redAt := pl.redAt, dbEntry := pl.dbEntry, plan := none
    epoch := (live.epoch + 1) % 16, commits := live.commits + 1, commitPending := false
    flushed := sat32 live.flushed flushed, chain := chainAfter live.chain digest
    strictMode := q.set.strict || decide (s.tune.counterStrictSa ≤ live.saCount)
    bases := pl.bases.foldl (fun m b => SMap.put 0 m b.1 b.2) live.bases
    homes := pl.homes.foldl (fun m b => SMap.put [] m b.1 b.2) live.homes }

/-- The loader of a port after its commit. -/
def Loader.done (l : Loader) : Loader :=
  { l with state := 0, reason := 0, frame := noFrame, bytes := [], scratched := [], committed := true, commitReason := 0, stage := .idle }

/-- The swap of port `h`'s commit, `flushed` tokens having been discarded before it. -/
def State.swap (s : State) (h flushed : Nat) : State :=
  let l := (s.port h).loader
  let p := l.part
  let live := s.part p
  match live.plan with
  | none => s
  | some pl =>
    let flush := l.flush
    let q1 := s.afterLoad p l.bytes
    let keys := ((s.coresOf live.sas).map (·.1) ++ pl.fields.map (·.1)).eraseDups
    let lost := (keys.map (s.lostMsgs flush)).foldl (· + ·) 0
    let q := s.swapPart live q1 pl (flushed + lost) ((l.bytes.drop 0x80).take 48)
    let reds := q.routes.filter fun r => r.kind == 3
    let s1 := fillCores s pl.fields keys
    let s2 := swapCores s1 flush s1 keys
    let s3 := putReds (putEntries (s2.dropRoutes p) pl.entries) pl.reds
    let s4 := ((putRanges s3 pl.ranges).setPart p q).loadKeys p
    let s5 := s1.carryBufs live q flush s4 reds
    let s6 := (q.routes.filter fun r => r.kind == 1 && s1.chanChanges live q flush r).foldl (fun s r => s.freshChannel q r) s5
    let s7 := (reds.filter (s1.destChanges live q flush)).foldl (fun s r => s.freshResult q r) s6
    let s8 := s1.dropReleases p flush live s7
    let q8 := s8.part p
    let s9 := s8.setPart p { q8 with openWrites := q8.openWrites.filter fun w => ((s8.core w.1).desc w.2.1).opened }
    let s10 := if live.state == .running then (restartArrays s9 live.sas).stirPart p else s9
    { s10.setLoader h l.done with tally := { s10.tally with commits := sat32 s10.tally.commits 1 } }

/-! ## Allocation, epoch check, drain (R208-R210) -/

/-- All that a commit takes, or the reason it is refused for. -/
def State.allocate (s : State) (h : Nat) : Except Nat Plan :=
  let l := (s.port h).loader
  let p := l.part
  let live := s.part p
  let q0 := s.afterLoad p l.bytes
  let homes := ((newRegions live q0).filter fun r => (q0.region r).kind == 2).map fun r => (r, s.msInService)
  let q := { q0 with homes := homes.foldl (fun m b => SMap.put [] m b.1 b.2) q0.homes }
  match s.allocRoutes p q ⟨[], [], [], [], [], none, [], [], homes⟩ with
  | .error r => .error r
  | .ok pl =>
    if s.classBad p q (hClass l.bytes) then .error 0x16
    else match s.allocMemory p live q pl with
      | .error r => .error r
      | .ok pl1 => if s.tokensOf p (· == (live.epoch + 1) % 16) != 0 then .error 0x18 else .ok pl1

/-- Step 4: FLUSH discards every older token and swaps; DRAIN swaps when none is left, else waits. -/
def State.drainOrSwap (s : State) (h : Nat) : State :=
  let l := (s.port h).loader
  if l.flush then
    let r := flushTokens s l.part fun _ => true
    ({ r.1 with tally := { r.1.tally with tokensFlushed := sat32 r.1.tally.tokensFlushed r.2 } }).swap h r.2
  else if s.tokensOf l.part (fun _ => true) == 0 then s.swap h 0
  else s.setLoader h { l with stage := .draining, drainAt := s.mgs.tick }

/-- COMMIT_ALLOCATE: MGS takes the first of the commits that have halted. -/
def State.commitAllocate (s : State) (h : Nat) : State :=
  let l := (s.port h).loader
  let first := s.mgs.commitQueue.find? fun k => (s.port k).loader.stage == .queued
  if !(l.state == 4 && l.stage == .queued && first == some h) then s
  else match s.allocate h with
    | .error r => s.refuseCommit h r
    | .ok pl =>
      let q := s.part l.part
      let s1 := s.setPart l.part { q with plan := some pl }
      ({ s1 with mgs := { s1.mgs with commitQueue := s1.mgs.commitQueue.filter (· != h) } }).drainOrSwap h

def execCommitAllocate (port : Nat) (s : State) : Answer := guardUnit (portOk port) (s.commitAllocate port)

/-- DRAIN_US, 0 of which takes DRAIN_TIMEOUT_DEF (R201, R216). -/
def State.drainLimit (s : State) (l : Loader) : Nat := if l.drainUs == 0 then s.tune.drainTimeoutDef else l.drainUs

/-- TICK at which DRAIN_US has passed since the drain began (R210). -/
def State.drainEnd (s : State) (l : Loader) : Nat := l.drainAt + usTicks (s.drainLimit l)

/-- The drain is over in time: no token of an older epoch is left, and DRAIN_US has not passed. -/
def State.drainOver (s : State) (l : Loader) : Bool := s.tokensOf l.part (fun _ => true) == 0 && decide (s.mgs.tick ≤ s.drainEnd l)

/-- DRAIN_COMPLETE. After DRAIN_US it is too late: the commit is refused. -/
def State.drainDone (s : State) (h : Nat) : State :=
  let l := (s.port h).loader
  if l.stage != .draining then s
  else if s.drainOver l then s.swap h 0
  else if s.drainEnd l < s.mgs.tick then s.refuseCommit h 0x19
  else s

def execDrainComplete (port : Nat) (s : State) : Answer := guardUnit (portOk port) (s.drainDone port)

/-- DRAIN_TIMEOUT: DRAIN_US passes with a token left; without one the drain was over first. -/
def State.drainLate (s : State) (h : Nat) : State :=
  let l := (s.port h).loader
  if l.stage != .draining then s
  else if s.drainOver l then s.swap h 0
  else (s.passTo (s.drainEnd l)).refuseCommit h 0x19

def execDrainTimeout (port : Nat) (s : State) : Answer := guardUnit (portOk port) (s.drainLate port)

end Sys2Proof.Machine
end

