-- ==== Sys2Proof/Machine/Memory.lean ====
section
/-!
DEFINITION. The memory stations' commands: stream requests and their slots, stack accesses, tile responses, engine threads and
zero-writes (R137-R159, R215).
-/
namespace Sys2Proof.Machine

/-! ## Request slots (R155-R157) -/

/-- Slots of station `st` free for partition `p`: of its own reservation, and unreserved. Waiting class-0 requests hold what they
have taken so far. -/
def State.freeSlots (s : State) (st p : Nat) : Nat × Nat :=
  let m := s.mem st
  let total := ((List.range 64).map fun o => s.reserved o st).foldl (· + ·) 0
  let own := (m.active.filter fun a => a.req.part == p).foldl (fun n a => n + a.reserved) 0
  let mine := (m.taken.filter fun x => m.waiting.any fun r => r.rid == x.1 && r.part == p).foldl (fun n x => n + x.2.1) 0
  let others := m.active.foldl (fun n a => n + (a.slots - a.reserved)) 0
  let part := m.taken.foldl (fun n x => n + x.2.2) 0
  (s.reserved p st - own - mine, 256 - total - others - part)

/-- What a waiting request has taken: reserved and unreserved slots. -/
def Ms.takenBy (m : Ms) (rid : Nat) : Nat × Nat :=
  match m.taken.find? fun x => x.1 == rid with
  | some x => x.2
  | none => (0, 0)

/-- Slots that class-0 requests of the partition which wait already still want: they take its free reserved slots first. -/
def Ms.wanted (m : Ms) (p : Nat) : Nat :=
  (m.waiting.filter fun r => r.cls == 0 && r.part == p).foldl
    (fun n r => let k := m.takenBy r.rid
      n + (r.need - k.1 - k.2)) 0

/-- A class-0 request has no bound: it does not find every slot it needs among its partition's free reserved slots at its arrival, or the
station switches its firmware (R157, R325). -/
def State.isLate (s : State) (st : Nat) (r : Request) : Bool :=
  r.cls == 0 && (decide ((s.freeSlots st r.part).1 < r.need + (s.mem st).wanted r.part) || s.switching 3 st)

/-- Such a request is counted (R157, R225). -/
def State.noteLate (s : State) (st : Nat) (r : Request) : State :=
  if s.isLate st r then
    (s.updMem st fun m => { m with class0Late := sat32 m.class0Late 1 }).setPart r.part { s.part r.part with class0Late := true }
  else s

/-- A request is at its station's port, and waits for its slots. -/
def State.queueRequest (s : State) (st : Nat) (r : Request) : State :=
  { s.noteLate st r with nextId := s.nextId + 1 }.updMem st fun m =>
    { m with waiting := m.waiting ++ [{ r with arrived := s.nextId, late := s.isLate st r }] }

/-- STREAM_REQUEST_ARRIVAL. -/
def State.arrive (s : State) (t : Token) (st : Nat) (r : Request) : State :=
  let s1 := s.consume t.id
  if (s1.mem st).state == 2 then streamFault s1 r.part 5 st r.region r.offset r.sa r.x r.y else s1.queueRequest st r

def execStreamRequestArrival (tok : Nat) (s : State) : Answer :=
  guardUnit true
    (withToken s tok fun t =>
      match t.loc, t.body with
      | .station st, .request r => if st < 40 then s.arrive t st r else s
      | _, _ => s)

/-- Waiting class-0 requests take slots as they come free, in arrival order: of their partition's reservation first, then unreserved
ones (R157). -/
def State.takeSlots (s : State) (st : Nat) : List Request → State
  | [] => s
  | r :: rs =>
    let m := s.mem st
    let k := m.takenBy r.rid
    let f := s.freeSlots st r.part
    let a := min f.1 (r.need - k.1 - k.2)
    let b := min f.2 (r.need - k.1 - k.2 - a)
    (s.updMem st fun m =>
      { m with taken := m.taken.filter (fun x => x.1 != r.rid) ++ [(r.rid, k.1 + a, k.2 + b)] }).takeSlots st rs

/-- The request that obtains all its slots next, those of them that are reserved, and the round robin after it. -/
def State.admitPick (s : State) (st : Nat) : Option (Request × Nat × List Nat) :=
  let m := s.mem st
  let zero := m.waiting.filter fun r => r.cls == 0
  if !zero.isEmpty then
    (zero.find? fun r => let k := m.takenBy r.rid
      decide (r.need ≤ k.1 + k.2)).map fun r => (r, (m.takenBy r.rid).1, m.rr)
  else match serveNext id m.rr m.waiting with
    | some (r, rr) => if r.need ≤ (s.freeSlots st r.part).2 then some (r, 0, charge rr r.cls r.need) else none
    | none => none

/-- Bytes of the region that a request reads or writes at issue: a row tile or an UPDATE has none here. -/
def Request.range (r : Request) : Nat × Nat := (r.offset, r.len)

/-- The first range of a request that reaches or passes SIZE (R139). -/
def Part.outOfBounds (q : Part) (r : Request) : Option Nat :=
  let size := (q.region r.region).size
  match r.kind with
  | .gather =>
    let stride := if r.rows.length == 0 then 0 else r.len / r.rows.length
    (r.rows.find? fun i => decide (size < r.offset + i * stride + stride)).map fun i => r.offset + i * stride
  | .update => none
  | _ => if size < r.offset + r.len then some r.offset else none

/-- Send the parts of a gradient tile to their updating stations over the base routes (R123, R172). -/
def State.sendParts (s : State) (p : Nat) : List (Nat × GradPart) → State
  | [] => s
  | g :: gs => (s.injectFor p (.station g.1) 0 (.grad g.2)).sendParts p gs

/-- The station that updates the parameters from `first` of a set: the one that holds their master bytes (R172). -/
def Part.updater (q : Part) (ps : PSet) (first : Nat) : Nat :=
  let o := ps.dataAt 1 first
  if (q.region ps.region).kind == 2 then q.home ps.region (o / 65536) else (q.place ps.region o).1

/-- The parts of a dense tile: one for each group of 4,096 (R172). -/
def Part.denseParts (q : Part) (r : Request) (n first : Nat) : List (Nat × GradPart) :=
  let ps := q.pset n
  let k := r.len / (4096 + 4096 / ps.sblk)
  let sc := 4096 / ps.sblk
  (List.range k).map fun i =>
    let f := first + 4096 * i
    (q.updater ps f, ⟨r.rid, n, false, f, 4096, (r.data.drop (4096 * i)).take 4096,
      (r.data.drop (4096 * k + sc * i)).take sc, r.step, 0, coreKey r.sa r.x r.y⟩)

/-- Row count and row indices of a row-form tile (R172). -/
def PSet.rowCount (ps : PSet) (r : Request) : Nat := r.len / (8 + ps.record)
def PSet.rowIndices (ps : PSet) (r : Request) : List Nat :=
  (List.range (ps.rowCount r)).map fun i => leNat ((r.data.drop (8 * i)).take 8)
def padRow : Nat := 0xFFFFFFFFFFFFFFFF

/-- The parts of a row-form tile: one for each index that is not padding. -/
def Part.rowParts (q : Part) (r : Request) (n : Nat) : List (Nat × GradPart) :=
  let ps := q.pset n
  let k := ps.rowCount r
  ((ps.rowIndices r).zipIdx.filter fun e => e.1 != padRow).map fun e =>
    let rec0 := (r.data.drop (8 * k + ps.record * e.2)).take ps.record
    let f := e.1 * ps.rowLen
    (q.updater ps f, ⟨r.rid, n, true, f, ps.rowLen, rec0.take ps.rowLen, (rec0.drop ps.rowLen).take (ps.rowLen / ps.sblk),
      r.step, 0, coreKey r.sa r.x r.y⟩)

/-- Does a list hold a value twice? -/
def hasTwice : List Nat → Bool
  | [] => false
  | a :: l => l.contains a || hasTwice l

/-- Issue of an UPDATE tile: its parts leave for their stations, or a stream fault (R165, R172). -/
def State.issueUpdate (s : State) (st : Nat) (a : Active) : State :=
  let q := s.part a.req.part
  let r := a.req
  let fault := fun cause => streamFault s r.part cause st r.region r.offset r.sa r.x r.y
  let go := fun parts : List (Nat × GradPart) =>
    if parts.isEmpty then s.ackRequest st a
    else (s.updMem st fun m =>
        { m with active := m.active.map fun b => if b.req.rid == r.rid then { b with left := parts.length } else b }).sendParts
      r.part parts
  match q.dense r.region r.offset with
  | some (n, first) => go (q.denseParts r n first)
  | none =>
    match q.rowSet r.region r.offset with
    | none => fault 1
    | some n =>
      let ps := q.pset n
      let idx := (ps.rowIndices r).filter (· != padRow)
      if idx.any fun i => decide (ps.n / ps.rowLen ≤ i) then fault 1
      else if hasTwice idx then fault 6
      else go (q.rowParts r n)

/-- A request that has its slots is issued (R155). -/
def State.issue (s : State) (st : Nat) (a : Active) : State :=
  match (s.part a.req.part).outOfBounds a.req with
  | some o => streamFault s a.req.part 1 st a.req.region o a.req.sa a.req.x a.req.y
  | none =>
    match a.req.kind with
    | .update => s.issueUpdate st a
    | .gather => s.pump
    | _ => s

/-- STREAM_REQUEST_ADMIT: class 0 first, then 4 : 2 : 1, in arrival order within a class. -/
def State.admitOne (s0 : State) (st : Nat) : State :=
  let s := s0.takeSlots st ((s0.mem st).waiting.filter fun r => r.cls == 0)
  match s.admitPick st with
  | none => s
  | some (r, res, rr) =>
    let a : Active := ⟨r, s.nextId, r.need, res, .issued, [], if r.kind == .gather then r.rows.length else 0⟩
    let s1 := { s with nextId := s.nextId + 1 }
    (s1.updMem st fun m =>
      { m with waiting := m.waiting.filter (fun o => o.rid != r.rid), taken := m.taken.filter (fun x => x.1 != r.rid)
               active := m.active ++ [a], rr := rr }).issue st a

/-- New requests wait in the attach router while the station switches its firmware (R327). -/
def execStreamRequestAdmit (ms : Nat) (s : State) : Answer :=
  guardUnit (msOk ms) (s.unlessHeld (s.switching 3 ms) (s.admitOne ms))

/-! ## Stack accesses (R143, R148, R152, R175) -/

/-- The sectors that a write covers in part, by number from its first (R140). -/
def partSectors (o n : Nat) : List Nat :=
  let last := (o + n + 31) / 32 - o / 32 - 1
  ((if o % 32 != 0 then [0] else []) ++ if (o + n) % 32 != 0 then [last] else []).eraseDups

/-- Read them for a read-modify-write at stack address `a`: the state after, and whether all were good. -/
def State.readEdges (s : State) (st a : Nat) (errs : List SymErr) : List Nat → State × Bool
  | [] => (s, true)
  | k :: ks =>
    let r := s.readSectors st errs (a / 32 * 32 + 32 * k) k 1
    let t := r.1.readEdges st a errs ks
    (t.1, r.2.isSome && t.2)

/-- The access of a READ or WRITE completes. A READ of a spill granule whose tag fails delivers no data (R164). A write that meets an uncorrectable sector it covers in part is not made (R140). -/
def State.access (s : State) (st : Nat) (a : Active) (errs : List SymErr) : State :=
  let r := a.req
  let q := s.part r.part
  let at0 := q.place r.region r.offset
  if r.kind == .write then
    let w := s.readEdges at0.1 at0.2 errs (partSectors at0.2 r.len)
    if w.2 then (w.1.storeRegion r.part r.region r.offset r.data).ackRequest st a
    else match r.host with
      | some h => (w.1.updMem st fun m => { m with active := m.active.filter fun b => b.req.rid != r.rid }).hostOver h r.rid 0x0B
      | none => streamFault w.1 r.part 2 st r.region r.offset r.sa r.x r.y
  else
    let rd := s.readStack at0.1 at0.2 r.len errs
    match rd.2 with
    | none => streamFault rd.1 r.part 2 st r.region r.offset r.sa r.x r.y
    | some bs => if !rd.1.authentic r.part r.region r.offset r.len then streamFault rd.1 r.part 4 st r.region r.offset r.sa r.x r.y else rd.1.updMem st fun m => m.setActive { a with stage := .ready, data := bs }

/-- A host's read of region bytes that waited at the station completes, and its slots are free (R175, R245). -/
def State.hostRead (s : State) (st h : Nat) (a : Active) (errs : List SymErr) : State :=
  let r := a.req
  let rd := (s.reading.range r.part r.region errs (r.offset, r.len)).checked r.part r.region (r.offset, r.len)
  (rd.1.updMem st fun m => { m with active := m.active.filter fun b => b.req.rid != r.rid }).readOver h r.rid rd.2.2
    (if rd.2.2.isNone then 0x0B else 0)

/-- A READ or WRITE that the stack scheduler can serve: nothing earlier holds it back and no update interlocks it. -/
def State.servable (s : State) (a : Active) : Bool :=
  a.stage == .issued && a.req.kind != .gather && a.req.kind != .update && !s.heldBack a.req a.ranges
    && !s.interlocked a.req.part a.req.region a.stamp a.ranges

/-- The station whose stack holds the first byte of the row that a GATHER thread of station `home` is at. -/
def State.rowStation (s : State) (home : Nat) (a : Active) : Nat :=
  let w := a.row (s.part a.req.part)
  ((s.sectorSpots a.req.part w.1 w.2.1 w.2.2).head?.map Prod.fst).getD home

/-- GATHER requests of any station whose row access under way is at the stack of station `st` (R158). -/
def State.rowsAt (s : State) (st : Nat) : List Active :=
  s.ms.flatMap fun m => m.2.threads.filterMap fun t => match m.2.serves t.2 with
    | some a => if !t.2.ready && a.req.kind == .gather && a.stage == .issued && s.rowStation m.1 a == st then some a else none
    | none => none

/-- What the stack scheduler of station `st` serves next (R155): of the READs and WRITEs there and the rows of GATHERs. -/
def State.stackNext (s : State) (st : Nat) : Option (Active × List Nat) :=
  serveNext Active.req (s.mem st).rrStack ((s.mem st).active.filter s.servable ++ s.rowsAt st)

/-- STACK_ACCESS_COMPLETE: of the request that the stack scheduler serves next. -/
def State.stackAccess (s : State) (st rid : Nat) (errs : List SymErr) : State :=
  match s.stackNext st with
  | none => s
  | some (a, rr) =>
    if a.req.rid != rid || a.req.kind == .gather then s
    else
      let s1 := s.updMem st fun m => { m with rrStack := charge rr a.req.cls a.slots }
      match a.req.host, a.req.kind with
      | some h, .read => s1.hostRead st h a errs
      | _, _ => s1.access st a errs

def execStackAccessComplete (ms rid : Nat) (errs : List SymErr) (s : State) : Answer :=
  guardUnit (msOk ms) (s.stackAccess ms rid errs)

/-! ## TILE_RESPONSE (R153, R155) -/

/-- A tile's messages, of up to 1,024 bytes each, on consecutive units from `raddr` and with consecutive SEQ (R151). -/
def State.sendTile (s : State) (st : Nat) (r : Request) : Nat → Nat → Nat → List Byte → State
  | 0, _, _, _ => s
  | n + 1, raddr, seq, bs =>
    (s.inject r.part r.cls r.epoch (.router (attachSite st)) r.resp
      (.tile (64 * coreKey r.sa r.x r.y + r.desc) (raddr % 4096) r.tile (seq % 256) (bs.take 1024))).sendTile st r n (raddr + 64)
      (seq + 1) (bs.drop 1024)

/-- The tile leaves once on RESP, and its slots are free. -/
def State.respond (s : State) (st : Nat) (a : Active) : State :=
  let r := a.req
  let n := tileMessages r.len
  (s.updMem st fun m => { m with active := m.active.filter fun b => b.req.rid != r.rid }).sendTile st r n r.raddr (n * r.tile) a.data

/-- TILE_RESPONSE: of the ready tile that goes out of the station next (R155). -/
def State.tileResponse (s : State) (st rid : Nat) : State :=
  let m := s.mem st
  match serveNext Active.req m.rrOut (m.active.filter fun a => a.stage == .ready) with
  | none => s
  | some (a, rr) =>
    if a.req.rid == rid then (s.updMem st fun m => { m with rrOut := charge rr a.req.cls a.slots }).respond st a else s

def execTileResponse (ms rid : Nat) (s : State) : Answer := guardUnit (msOk ms) (s.tileResponse ms rid)

/-! ## PSE_THREAD_RETURN (R158, R159) -/

/-- Free a thread. -/
def Ms.freeThread (m : Ms) (k : Nat) : Ms := { m with threads := SMap.put Thread.reset m.threads k Thread.reset }

/-- The row's bytes have come: they join the tile; after the last row the tile is complete and the thread is free. -/
def State.takeRow (s : State) (st k : Nat) (a : Active) (bs : List Byte) : State :=
  let b := { a with data := a.data ++ bs, left := a.left - 1 }
  if b.left == 0 then (s.updMem st fun m => (m.setActive { b with stage := .ready }).freeThread k).pump
  else (s.updMem st fun m =>
    { m.setActive b with threads := SMap.put Thread.reset m.threads k ⟨some (.serve a.req.rid), true⟩ }).pump

/-- The access of a thread returns, in the order of R155 at the stack it is at: the row is read where it lies, at this or other stations,
in stacks or slots, across granules and blocks (R139). -/
def State.threadReturn (s : State) (st k : Nat) (errs : List SymErr) : State :=
  let t := SMap.look Thread.reset (s.mem st).threads k
  match (s.mem st).serves t with
  | none => s
  | some a =>
    if t.ready || a.req.kind != .gather || a.stage != .issued then s
    else
      let w := a.row (s.part a.req.part)
      let at0 := s.rowStation st a
      match s.stackNext at0 with
      | none => s
      | some (b, rr) =>
        if b.req.rid != a.req.rid then s
        else
          let s1 := s.updMem at0 fun m => { m with rrStack := charge rr a.req.cls (max 1 (tileMessages w.2.2)) }
          let rd := s1.reading.range a.req.part w.1 errs (w.2.1, w.2.2)
          match rd.2.2 with
          | some bs => rd.1.takeRow st k a bs
          | none =>
            let x := (rd.1.badSector a.req.part [w]).getD (at0, w.1, w.2.1)
            streamFault rd.1 a.req.part 2 x.1 w.1 w.2.1 a.req.sa a.req.x a.req.y

def execPseThreadReturn (ms thread : Nat) (errs : List SymErr) (s : State) : Answer :=
  guardUnit (msOk ms && decide (thread < 32)) (s.threadReturn ms thread errs)

/-! ## ZERO_WRITE_DONE (R143, R215) -/

/-- The oldest freed range is zero, its poison entries go, and it is in the pool again. -/
def State.zeroWrite (s : State) (st : Nat) : State :=
  let m := s.mem st
  match m.zeroing with
  | [] => s
  | r :: rs => s.setMem st { m with zeroing := rs, stack := m.stack.clear r.base r.size, seals := m.seals.clear r.base r.size
                                    poison := m.poison.filter fun a => decide (a < r.base) || decide (r.base + r.size ≤ a) }

def execZeroWriteDone (ms : Nat) (s : State) : Answer := guardUnit (msOk ms) (s.zeroWrite ms)

end Sys2Proof.Machine
end

