-- ==== Sys2Proof/Machine/Params.lean ====
section
/-!
DEFINITION. The Parameter Service Engines: gradient parts, the update, digests and divergences, the slow tier's commands, scrub and row
repair (R142-R144, R172-R190).
-/
namespace Sys2Proof.Machine

/-! ## UPDATE_PART_ARRIVAL (R172, R182) -/

/-- Insert by station, then block. -/
def insertBlock (x : Nat × Nat) : List (Nat × Nat) → List (Nat × Nat)
  | [] => [x]
  | y :: l => if x.1 < y.1 || (x.1 == y.1 && x.2 < y.2) then x :: y :: l else y :: insertBlock x l

/-- The blocks an update of a part touches in a region of KIND 2, each with its home station, in increasing station number (R181,
R182). -/
def State.partBlocks (s : State) (p : Nat) (g : GradPart) : List (Nat × Nat) :=
  let w := (s.part p).partWrites g
  ((blocksOf w.2).map fun b => ((s.part p).home w.1 b, b)).foldl (fun l x => insertBlock x l) []

/-- The lowest free pending entry (R177): 6,553 serve partitions. -/
def Ms.freePend (m : Ms) : Option Nat := (List.range 6553).find? fun k => !(m.pends.any fun e => e.1 == k)

def noPend : PendEnt := ⟨0, ⟨0, 0, false, 0, 0, [], [], 0, 0, 0⟩, [], 0, false⟩

/-- Queue a part for the engine (R174). -/
def State.queuePart (s : State) (st p : Nat) (g : GradPart) : State :=
  ({ s with nextId := s.nextId + 1 }.updMem st fun m =>
    { m with updq := m.updq ++ [{ g with arrival := s.nextId }], updParts := m.updParts ++ [p] }).partQueued g.rid

/-- Put a part into a pending entry: its blocks are reserved and their staging asked for, and then it counts as queued (R182). -/
def State.pendPart (s : State) (st k p : Nat) (g : GradPart) (blocks : List (Nat × Nat)) : State :=
  ({ s with nextId := s.nextId + 1 }.updMem st fun m =>
    { m with pends := SMap.put noPend m.pends k ⟨p, { g with arrival := s.nextId }, blocks, 0, false⟩ }).pump

/-- A tile is held by a full pending quota: it counts once, and its request, which reads no data, notes it (R184, R191). -/
def State.tileHeld (s : State) (rid : Nat) : State :=
  match s.ms.find? fun m => (m.2.find rid).isSome with
  | none => s
  | some (st, m) =>
    match m.find rid with
    | none => s
    | some a =>
      if a.data.isEmpty then
        { s.updMem st fun m => m.setActive { a with data := [1] } with
          tally := { s.tally with pendFullWaits := sat32 s.tally.pendFullWaits 1 } }
      else s

/-- A part reaches its updating station. -/
def State.partArrives (s : State) (tok st p : Nat) (g : GradPart) : State :=
  let r := ((s.part p).pset g.pset).region
  if ((s.part p).region r).kind != 2 then (s.consume tok).queuePart st p g
  else
    let blocks := s.partBlocks p g
    if blocks.all fun b => s.staged p r b.2 && s.pendNeed p r b.2 == 0 then
      ((s.consume tok).useBlocks p r (blocks.map Prod.snd)).queuePart st p g
    else
      let m := s.mem st
      match m.freePend with
      | some k =>
        if (m.pends.filter fun e => e.2.part == p).length < (s.part p).pendQuota then (s.consume tok).pendPart st k p g blocks
        else s.tileHeld g.rid
      | none => s.tileHeld g.rid

def execUpdatePartArrival (tok : Nat) (s : State) : Answer :=
  guardUnit true
    (withToken s tok fun t =>
      match t.loc, t.body with
      | .station st, .grad g => if st < 40 then s.partArrives tok st t.part g else s
      | _, _ => s)

/-! ## The update of a part (R173) -/

/-- Scale byte of parameter i in a scaled plane; data codes of parameters i to i + n - 1. -/
def State.planeScale (s : State) (p : Nat) (ps : PSet) (k i : Nat) : Byte :=
  nth 0 (s.readRegion p ps.region (ps.scaleAt k i) 1) 0
def State.planeCodes (s : State) (p : Nat) (ps : PSet) (k i n : Nat) : List Nat :=
  let bs := s.readRegion p ps.region (ps.dataAt k i) (ps.dataLen k n)
  (List.range n).map (packedElem (ps.fmt k) (nth 0 bs))

/-- The state of one scale block. -/
def State.blockElems (s : State) (p : Nat) (ps : PSet) (i : Nat) : List Elem :=
  let dec := fun k => (s.planeCodes p ps k i ps.sblk).map fun c => decS (ps.fmt k) c (s.planeScale p ps k i)
  ((s.planeCodes p ps 1 i ps.sblk).zip ((dec 2).zip ((dec 3).zip (dec 5)))).map fun q =>
    ⟨BitVec.ofNat 32 q.1, q.2.1, q.2.2.1, q.2.2.2⟩

/-- Where step t's learning rate lies, and whether that passes SIZE (R139). -/
def PSet.lrAt (ps : PSet) (t : Nat) : Nat := ps.lrTab + 4 * min t (ps.lrLen - 1)
def Part.lrOut (q : Part) (ps : PSet) (t : Nat) : Bool := ps.lrLen != 0 && decide ((q.region ps.lrReg).size < ps.lrAt t + 4)

/-- The learning rate of step t (R173), read through the outer code where the set has a table (R143). -/
def Reading.learningRate (rd : Reading) (p : Nat) (ps : PSet) (t : Nat) (errs : List SymErr) : Reading × W32 :=
  if ps.lrLen == 0 then (rd, ps.lr)
  else
    let r := rd.range p ps.lrReg errs (ps.lrAt t, 4)
    (r.next, BitVec.ofNat 32 (leNat (r.2.2.getD [])))

/-- Write one block's new codes and scales to the six planes. -/
def State.writeBlock (s : State) (p : Nat) (ps : PSet) (i : Nat) : List (Nat × List Nat × Byte) → State
  | [] => s
  | (k, cs, sc) :: l =>
    let s1 := s.storeRegion p ps.region (ps.dataAt k i) (packCodes (ps.fmt k) cs)
    let s2 := if ps.scaled k then s1.storeRegion p ps.region (ps.scaleAt k i) [sc] else s1
    s2.writeBlock p ps i l

/-- The update of scale block `b` of a part, from the bytes in the planes. -/
def State.applyBlock (s : State) (p : Nat) (ps : PSet) (c : Consts) (g : GradPart) (b : Nat) : State :=
  let i := g.first + b * ps.sblk
  let sc := nth 0 g.scales b
  let gs := ((g.data.drop (b * ps.sblk)).take ps.sblk).map fun x => decS 4 x.toNat sc
  let out := ps.updateBlock c (s.part p).set.jobSeed g.step.toNat i (s.blockElems p ps i) gs
  s.writeBlock p ps i (out.zipIdx.map fun o => (o.2, o.1.1, o.1.2))

def State.applyBlocks (s : State) (p : Nat) (ps : PSet) (c : Consts) (g : GradPart) : List Nat → State
  | [] => s
  | b :: bs => (s.applyBlock p ps c g b).applyBlocks p ps c g bs

/-- Step t of a part: the STEP_NUM carried with the tile, plus 1. -/
def GradPart.t (g : GradPart) : Nat := g.step.toNat + 1

/-- All blocks of a part, with the learning rate given; whole sectors it wrote leave the poison table (R143). -/
def State.applyPart (s : State) (p : Nat) (g : GradPart) (lr : W32) : State :=
  let ps := (s.part p).pset g.pset
  (s.applyBlocks p ps (ps.consts g.t lr) g (List.range (g.count / ps.sblk))).cleanRanges p ps.region (ps.ranges g.first g.count)

/-- Ranges that an update reads through the outer code: planes 1, 2, 3 and 5, and the sectors of planes 0 and 4 that it covers in
part (R140, R143). -/
def PSet.engineReads (ps : PSet) (g : GradPart) : List (Nat × Nat) :=
  ([1, 2, 3, 5].flatMap fun k => ps.planeRanges g.first g.count k)
    ++ ([0, 4].flatMap fun k => (ps.planeRanges g.first g.count k).flatMap edgeRanges)

/-- All that it and its journal and digest may read: (region, offset, bytes). -/
def PSet.allReads (ps : PSet) (g : GradPart) : List (Nat × Nat × Nat) :=
  (if ps.lrLen == 0 then [] else [(ps.lrReg, ps.lrAt g.t, 4)]) ++ (ps.engineReads g).map (fun w => (ps.region, w))
    ++ ([1, 2, 3, 5].flatMap fun k =>
      ps.planeRanges (16384 * (g.first / 16384)) (ps.blockParams (g.first / 16384)) k).map fun w => (ps.region, w)

/-! ## Digests (R186-R188) -/

/-- The check code of a master block (R186), read through the outer code (R189). -/
def Reading.masterCode (rd : Reading) (p n b : Nat) (errs : List SymErr) : Reading × W64 :=
  let ps := (rd.1.part p).pset n
  let r := rd.ranges p ps.region errs (ps.planeRanges (16384 * b) (ps.blockParams b) 1)
  (r.next, crc64 (r.2.2.getD []))

/-- Cut bytes that were read range by range into the planes of a journal. -/
def cutPlanes (ps : PSet) (b : Nat) : List Nat → List Byte → List (Nat × List Byte)
  | [], _ => []
  | k :: ks, bs =>
    let n := ((ps.planeRanges (16384 * b) (ps.blockParams b) k).map Prod.snd).foldl (· + ·) 0
    (k, bs.take n) :: cutPlanes ps b ks (bs.drop n)

/-- The lowest free journal entry (R188). -/
def Ms.freeJournal (m : Ms) : Nat :=
  ((List.range journalCount).find? fun k => !(m.journals.any fun j => j.entry == k)).getD 0

/-- The journal of a block's state before the update of a step (R188), in entry `k`. -/
def Reading.journalOf (rd : Reading) (k p n b : Nat) (step : BitVec 32) (errs : List SymErr) : Reading × Journal :=
  let ps := (rd.1.part p).pset n
  let r := rd.ranges p ps.region errs ([1, 2, 3, 5].flatMap fun k => ps.planeRanges (16384 * b) (ps.blockParams b) k)
  (r.next, ⟨k, p, n, b, step, cutPlanes ps b [1, 2, 3, 5] (r.2.2.getD []), []⟩)

def isJournal (p n b : Nat) (step : BitVec 32) (j : Journal) : Bool :=
  j.part == p && j.pset == n && j.block == b && j.step == step

/-- Journal a part before its update: the block's entry is made with the first part, every part is kept. -/
def Reading.journal (rd : Reading) (st p : Nat) (g : GradPart) (errs : List SymErr) : Reading :=
  let b := g.first / 16384
  let here := isJournal p g.pset b g.step
  let r := if (rd.1.mem st).journals.any here then (rd, none)
    else let j := rd.journalOf (rd.1.mem st).freeJournal p g.pset b g.step errs
      (j.1, some j.2)
  let js := (r.1.1.mem st).journals ++ r.2.toList
  (r.1.1.updMem st fun m => { m with journals := js.map fun j => if here j then { j with grads := j.grads ++ [g] } else j }, r.1.2)

/-- No free journal entry for the part's block. -/
def State.journalFull (s : State) (st p : Nat) (g : GradPart) : Bool :=
  let m := s.mem st
  !(m.journals.any (isJournal p g.pset (g.first / 16384) g.step)) && decide (journalCount ≤ m.journals.length)

/-- Free the journals of a group's block and step, and forget its codes. -/
def State.settleBlock (s : State) (p : Nat) (sets : List Nat) (b : Nat) (step : BitVec 32) : State :=
  let s1 := mapMs s fun m =>
    { m with journals := m.journals.filter fun j => !(j.part == p && sets.contains j.pset && j.block == b && j.step == step) }
  let q := s1.part p
  s1.setPart p { q with codes := q.codes.filter fun c => !(sets.contains c.1 && c.2.1 == b && c.2.2.1 == step.toNat) }

/-- Do the values of a list agree? -/
def allSame (l : List W64) : Bool := l.all fun c => some c == l.head?

/-! ### Divergence (R189, R190) -/

/-- Count a settlement: 0 REREAD, 1 RECOMPUTE, 2 VOTE. -/
def Tally.settled (t : Tally) (k : Nat) : Tally :=
  match k with
  | 0 => { t with digestReread := sat32 t.digestReread 1 }
  | 1 => { t with digestRecompute := sat32 t.digestRecompute 1 }
  | _ => { t with digestVote := sat32 t.digestVote 1 }

/-- A divergence is settled by step `k`; what waited for its blocks goes on. -/
def State.divSettled (s : State) (p : Nat) (d : Divergence) (k : Nat) : State :=
  let s1 := s.settleBlock p ((s.part p).replicas d.rgroup) d.block d.step
  let q := s1.part p
  (({ s1.setPart p { q with divs := q.divs.filter (· != d) } with tally := s1.tally.settled k }).event 0x0109
    (0x0100 + (q.updater (q.pset (nth 0 (q.replicas d.rgroup) 0)) (16384 * d.block))) p d.block).pump

/-- The KIND 2 blocks, as (region, block), in which the sets of a divergence have its master block. -/
def Part.divBlocks (q : Part) (d : Divergence) : List (Nat × Nat) :=
  ((q.replicas d.rgroup).flatMap fun n =>
    let ps := q.pset n
    if (q.region ps.region).kind == 2 then
      (blocksOf (ps.ranges (16384 * d.block) (ps.blockParams d.block))).map fun b => (ps.region, b)
    else []).eraseDups

/-- They are staged; or those that are not are asked for, and the step waits (R180, R189). -/
def State.divStaged (s : State) (p : Nat) (d : Divergence) : Bool := ((s.part p).divBlocks d).all fun x => s.staged p x.1 x.2
def State.divWant (s : State) (p : Nat) (d : Divergence) : State :=
  (((s.part p).divBlocks d).filter fun x => !s.stays p x.1 x.2).foldl (fun t x => (t.want p x.1 x.2).1) s

/-- DIV_INFO's four words (R190): PSET_A the lowest set, PSET_B the lowest whose code differs. -/
def Divergence.words (d : Divergence) : Rec4 :=
  let a := nth (0, 0) d.codes 0
  let b := (d.codes.find? fun c => c.2 != a.2).getD a
  { w0 := packW [(0, 1), (1, a.1), (7, d.tried), (10, d.block)]
    w1 := packW [(0, (d.step.toNat + 1) % 2 ^ 32), (32, b.1)]
    w2 := a.2
    w3 := b.2 }

/-- No step settles: the job ends with DIVERGED, and DIV_INFO is latched if it is still empty (R229). -/
def State.divStop (s : State) (p : Nat) (d : Divergence) : State :=
  let q := s.part p
  let st := q.updater (q.pset (nth 0 (q.replicas d.rgroup) 0)) (16384 * d.block)
  let s1 := (s.setPart p { q with div := if bitOf q.div.w0 0 then q.div else d.words, divs := q.divs.filter fun e => !(e.rgroup == d.rgroup && e.block == d.block && e.step == d.step) }).event
    0x0109 (0x0100 + st) p d.block
  if q.state.live then
    let s2 := startBindOff s1 p .fault true
    s2.setPart p (endWith q s.mgs.tick divergenceRank 11 (s2.part p))
  else s1.pump

/-- MEM_UE of a divergence's step (R143, R165): at the bad sector among its reads, without one at set `n`'s block. -/
def State.divUe (s : State) (p n b : Nat) (l : List (Nat × Nat × Nat)) : State :=
  let ps := (s.part p).pset n
  let w := (s.badSector p l).getD ((s.part p).updater ps (16384 * b), ps.region, ps.dataAt 1 (16384 * b))
  stationFault s p 2 w.1 w.2.1 w.2.2

/-- The ranges of set `n`'s block in all six planes, and the sectors of them that a write covers in part (R140). -/
def Part.blockRanges (q : Part) (n b : Nat) : List (Nat × Nat × Nat) :=
  let ps := q.pset n
  (ps.ranges (16384 * b) (ps.blockParams b)).map fun w => (ps.region, w)
def Part.blockEdges (q : Part) (n b : Nat) : List (Nat × Nat × Nat) :=
  (q.blockRanges n b).flatMap fun w => (edgeRanges w.2).map fun e => (w.1, e)

/-- Read ranges of regions, whose bytes are not kept. -/
def Reading.pass (rd : Reading) (p : Nat) (errs : List SymErr) : List (Nat × Nat × Nat) → Reading
  | [] => rd
  | w :: l => Reading.pass (rd.range p w.1 errs w.2).next p errs l

/-- All six planes of a block of one set, and their overwriting from another's. -/
def State.blockPlanes (s : State) (p n b : Nat) : List (Nat × List Byte) :=
  let ps := (s.part p).pset n
  (ps.ranges (16384 * b) (ps.blockParams b)).map fun w => (w.1, s.readRegion p ps.region w.1 w.2)
def State.overwrite (s : State) (p r : Nat) : List ((Nat × Nat) × List Byte) → State
  | [] => s
  | (w, bs) :: l => (s.storeRegion p r w.1 bs).overwrite p r l
/-- The KIND 2 blocks that hold ranges of a region are dirty (R182, R189). -/
def State.dirtyRanges (s : State) (p r : Nat) (l : List (Nat × Nat)) : State :=
  (blocksOf l).foldl (fun s b =>
    let st := (s.part p).home r b
    match (s.mem st).findBlock p r b with
    | some (k, d) => s.updMem st fun m => { m with dir := SMap.put DirEnt.reset m.dir k { d with dirty := true, ref := true } }
    | none => s) s

def State.copyBlock (s : State) (p src dst b : Nat) : State :=
  let ps := (s.part p).pset dst
  (s.dirtyRanges p ps.region (if ((s.part p).region ps.region).kind == 2 then ps.ranges (16384 * b) (ps.blockParams b) else [])).overwrite p ps.region ((ps.ranges (16384 * b) (ps.blockParams b)).zip ((s.blockPlanes p src b).map (·.2)))

def State.copyBlocks (s : State) (p src b : Nat) : List Nat → State
  | [] => s
  | n :: ns => (s.copyBlock p src n b).copyBlocks p src b ns

/-- The code a strict majority of the sets holds. -/
def majority (cs : List (Nat × W64)) : Option W64 :=
  (cs.find? fun c => decide (cs.length < 2 * (cs.filter fun e => e.2 == c.2).length)).map Prod.snd

/-- VOTE: the majority set's planes are read through the outer code, and the sectors of the others that the overwriting covers in part,
from sector number `k` of the step on. -/
def State.divVote (s : State) (k p : Nat) (d : Divergence) (errs : List SymErr) : State :=
  let d1 := { d with tried := d.tried ||| 4 }
  match if d.codes.length < 3 then none else majority d.codes with
  | none => s.divStop p (if d.codes.length < 3 then d else d1)
  | some c =>
    let src := ((d.codes.find? fun e => e.2 == c).map Prod.fst).getD 0
    let dst := (d.codes.filter fun e => e.2 != c).map Prod.fst
    let l := (s.part p).blockRanges src d.block ++ dst.flatMap fun n => (s.part p).blockEdges n d.block
    let r := (s.reading k).pass p errs l
    if r.2.2.isNone then r.1.divUe p src d.block l else (r.1.copyBlocks p src d.block dst).divSettled p d 2

/-- The next step that DIG_ACT enables: REREAD and RECOMPUTE take time, VOTE and the stop follow at once. A step waits until every
block it needs is staged. -/
def State.divNext (s : State) (k p : Nat) (d : Divergence) (errs : List SymErr) : State :=
  let act := ((s.part p).pset (nth 0 ((s.part p).replicas d.rgroup) 0)).act
  let waits := fun k => act.testBit k && !d.tried.testBit k
  if waits 0 || waits 1 then s.divWant p d
  else if waits 2 then (if s.divStaged p d then s.divVote k p d errs else s.divWant p d)
  else s.divStop p d

/-- Divergences that waited for a block go on. -/
def State.pumpDivs (s : State) : State :=
  (List.range 64).foldl (fun t p => (t.part p).divs.foldl (fun u d => if (u.part p).divs.contains d then u.divNext 0 p d [] else u) t) s

/-- Note a step `i` that did not settle, and go on. -/
def State.divFailed (s : State) (k p : Nat) (d : Divergence) (i : Nat) (errs : List SymErr) : State :=
  let d1 := { d with tried := d.tried ||| 2 ^ i }
  let q := s.part p
  (s.setPart p { q with divs := q.divs.map fun e => if e == d then d1 else e }).divNext k p d1 errs

/-- The codes of one group, block and step: all equal frees the journals; a difference holds the block. -/
def State.compareCodes (s : State) (k p rgroup b : Nat) (step : BitVec 32) (errs : List SymErr) : State :=
  let q := s.part p
  let sets := q.replicas rgroup
  let codes := sets.filterMap fun n =>
    (q.codes.find? fun c => c.1 == n && c.2.1 == b && c.2.2.1 == step.toNat).map fun c => (n, c.2.2.2)
  if codes.length < sets.length then s
  else if allSame (codes.map Prod.snd) then s.settleBlock p sets b step
  else
    let d : Divergence := ⟨rgroup, b, step, codes, 0⟩
    ({ s.setPart p { q with divs := q.divs ++ [d] } with
        tally := { s.tally with digestMismatch := sat32 s.tally.digestMismatch 1 } }).divNext k p d errs

/-- A group of a digested set has been written: with the last group of its master block for the step, the code is computed. -/
def Reading.groupWritten (rd : Reading) (p : Nat) (g : GradPart) (errs : List SymErr) : Reading :=
  let s := rd.1
  let q := s.part p
  let ps := q.pset g.pset
  let b := g.first / 16384
  let w := q.written ++ [(g.pset, b, g.step.toNat, g.first / 4096)]
  let mine := fun e : Nat × Nat × Nat × Nat => e.1 == g.pset && e.2.1 == b && e.2.2.1 == g.step.toNat
  if ((w.filter mine).map fun e => e.2.2.2).eraseDups.length * 4096 < ps.blockParams b then
    (s.setPart p { q with written := w }, rd.2)
  else
    let c := rd.masterCode p g.pset b errs
    if c.1.2.2.isNone then c.1
    else
      let q1 := c.1.1.part p
      ((c.1.1.setPart p { q1 with written := w.filter (fun e => !mine e)
                                  codes := q1.codes ++ [(g.pset, b, g.step.toNat, c.2)] }).compareCodes c.1.2.1 p ps.rgroup b
        g.step errs, c.1.2)

/-! ## UPDATE_APPLY and PENDING_APPLY (R173-R175, R182) -/

/-- Blocks of KIND 2 that an update wrote are dirty (R182). -/
def State.markDirty (s : State) (p r : Nat) : List (Nat × Nat) → State
  | [] => s
  | (st, b) :: l =>
    let s1 := match (s.mem st).findBlock p r b with
      | some (k, d) => s.updMem st fun m => { m with dir := SMap.put DirEnt.reset m.dir k { d with dirty := true, ref := true } }
      | none => s
    s1.markDirty p r l

/-- A stream fault of an engine that acts for the part's sender (R165). -/
def State.engineFault (s : State) (p cause : Nat) (g : GradPart) (w : Nat × Nat × Nat) : State :=
  streamFault s p cause w.1 w.2.1 w.2.2 (keyArr g.sender) (keyX g.sender) (keyY g.sender)

/-- MEM_UE of an engine (R143, R165): at the bad sector among the reads `l`, without one at the part's master bytes. -/
def State.engineUe (s : State) (st p : Nat) (g : GradPart) (l : List (Nat × Nat × Nat)) : State :=
  let ps := (s.part p).pset g.pset
  s.engineFault p 2 g ((s.badSector p l).getD (st, ps.region, ps.dataAt 1 g.first))

/-- A part's update: its reads through the outer code, journal, six copies, dirty blocks, digest. A learning rate beyond SIZE is
MEM_BOUND (R139) and an uncorrectable sector among the reads MEM_UE, and nothing is written. -/
def State.update (s : State) (st p : Nat) (g : GradPart) (errs : List SymErr) : State :=
  let ps := (s.part p).pset g.pset
  if (s.part p).lrOut ps g.t then s.engineFault p 1 g (st, ps.lrReg, ps.lrAt g.t)
  else
    let lr := s.reading.learningRate p ps g.t errs
    let r1 := lr.1.ranges p ps.region errs (ps.engineReads g)
    let r2 := if ps.digest && r1.2.2.isSome then r1.next.journal st p g errs else r1.next
    if r2.2.2.isNone then r2.1.engineUe st p g (ps.allReads g)
    else
      let s2 := r2.1.applyPart p g lr.2
      let s3 := if ((s.part p).region ps.region).kind == 2 then s2.markDirty p ps.region (s2.partBlocks p g) else s2
      let r4 := if ps.digest then Reading.groupWritten (s3, r2.2) p g errs else (s3, r2.2)
      (if r4.2.2.isNone then r4.1.engineUe st p g (ps.allReads g) else r4.1).pump

/-- Does a request accepted before the part still read or write a byte of it (R175)? -/
def State.readBefore (s : State) (p : Nat) (g : GradPart) : Bool :=
  let w := (s.part p).partWrites g
  s.ms.any fun m => m.2.active.any fun a =>
    a.req.part == p && a.req.region == w.1 && a.stage == .issued && decide (a.stamp < g.arrival) && anyMeet a.ranges w.2

/-- The part at the head of the queue can be applied: the engine can run it, too (R158). -/
def State.canApply (s : State) (st p : Nat) (g : GradPart) : Bool :=
  let w := (s.part p).partWrites g
  !(s.readBefore p g || (s.part p).divHolds w.1 w.2 || (((s.part p).pset g.pset).digest && s.journalFull st p g))
    && s.engineFree st p

/-- UPDATE_APPLY: groups and rows are applied in the order they were queued at their updating station (R174). -/
def State.updateApply (s : State) (st : Nat) (errs : List SymErr) : State :=
  match (s.mem st).updq, (s.mem st).updParts with
  | g :: gs, p :: ps =>
    if s.canApply st p g then (s.updMem st fun m => { m with updq := gs, updParts := ps }).update st p g errs else s
  | _, _ => s

def execUpdateApply (ms : Nat) (errs : List SymErr) (s : State) : Answer := guardUnit (msOk ms) (s.updateApply ms errs)

/-- Can a pending entry be applied: a reservation for every block, all staged, no readers, no older entry on a block of it, and an
engine and a journal entry for it (R158, R182, R188)? -/
def State.pendReady (s : State) (st k : Nat) (e : PendEnt) : Bool :=
  let r := ((s.part e.part).partWrites e.grad).1
  let older := fun b => s.ms.any fun m => m.2.pends.any fun o =>
    (m.1 != st || o.1 != k) && o.2.part == e.part && decide (o.2.grad.arrival < e.grad.arrival)
      && ((s.part o.2.part).partWrites o.2.grad).1 == r && o.2.blocks.any fun x => x.2 == b
  e.held == e.blocks.length && (e.blocks.all fun b => s.staged e.part r b.2 && s.readersOf e.part r b.2 == 0 && !older b.2)
    && !(s.part e.part).divHolds r ((s.part e.part).partWrites e.grad).2 && s.engineFree st e.part
    && !(((s.part e.part).pset e.grad.pset).digest && s.journalFull st e.part e.grad)

/-- Is a sector of a stack range poisoned? -/
def Ms.poisonIn (m : Ms) (a n : Nat) : Bool := m.poison.any fun q => decide (a ≤ q) && decide (q < a + n)

/-- PENDING_APPLY. An entry that lies in a poisoned sector is MEM_UE (R143). -/
def State.pendingApply (s : State) (st k : Nat) (errs : List SymErr) : State :=
  let e := SMap.look noPend (s.mem st).pends k
  if ((s.mem st).pends.any fun x => x.1 == k) && s.pendReady st k e then
    let s1 := s.updMem st fun m => { m with pends := SMap.put noPend m.pends k noPend }
    if (s.mem st).poisonIn (pendArea + 4672 * k) 4672 then s1.engineUe st e.part e.grad []
    else s1.update st e.part e.grad errs
  else s

def execPendingApply (ms entry : Nat) (errs : List SymErr) (s : State) : Answer := guardUnit (msOk ms) (s.pendingApply ms entry errs)

/-! ## Divergence steps (R189) -/

def State.firstDiv (s : State) (p k : Nat) : Option Divergence :=
  match (s.part p).divs with
  | d :: _ =>
    let act := ((s.part p).pset (nth 0 ((s.part p).replicas d.rgroup) 0)).act
    if act.testBit k && !d.tried.testBit k && (k == 0 || !(act.testBit 0) || d.tried.testBit 0) then some d else none
  | [] => none

/-- The codes of a list of sets' master blocks, read again. -/
def Reading.codes (rd : Reading) (p b : Nat) (errs : List SymErr) : List Nat → Reading × List (Nat × W64)
  | [] => (rd, [])
  | n :: ns =>
    let c := rd.masterCode p n b errs
    let r := c.1.codes p b errs ns
    (r.1, (n, c.2) :: r.2)

/-- DIV_REREAD_DONE: once every block is staged and the engines of the sets' stations can run the service, every set's master block is
read again through the outer code and its code recomputed; an uncorrectable sector is MEM_UE (R143, R158). -/
def State.divReread (s : State) (p : Nat) (errs : List SymErr) : State :=
  match s.firstDiv p 0 with
  | none => s
  | some d =>
    let q := s.part p
    let sets := d.codes.map Prod.fst
    if !s.divStaged p d then s.divWant p d
    else if !(sets.all fun n => s.engineFree (q.updater (q.pset n) (16384 * d.block)) p) then s
    else
      let r := s.reading.codes p d.block errs sets
      if r.1.2.2.isNone then
        r.1.1.divUe p (nth 0 sets 0) d.block (sets.flatMap fun n =>
          ((q.pset n).planeRanges (16384 * d.block) ((q.pset n).blockParams d.block) 1).map fun w => ((q.pset n).region, w))
      else if allSame (r.2.map Prod.snd) then r.1.1.divSettled p d 0
      else r.1.1.divFailed r.1.2.1 p d 0 errs

def execDivRereadDone (part : Nat) (errs : List SymErr) (s : State) : Answer := guardUnit (partOk part) (s.divReread part errs)

/-- The journals of a held divergence, one for each set. -/
def State.divJournals (s : State) (p : Nat) (d : Divergence) : List Journal :=
  d.codes.filterMap fun c => (s.ms.flatMap fun m => m.2.journals).find? (isJournal p c.1 d.block d.step)

/-- Do the journalled states and gradient parts of all sets agree? -/
def journalsAgree (js : List Journal) : Bool :=
  match js with
  | [] => false
  | j :: l => l.all fun k => k.planes == j.planes
    && (k.grads.map fun g => (g.first, g.count, g.data, g.scales)) == j.grads.map fun g => (g.first, g.count, g.data, g.scales)

/-- Put a journalled state back into its planes. -/
def cutRanges : List (Nat × Nat) → List Byte → List ((Nat × Nat) × List Byte)
  | [], _ => []
  | w :: l, bs => (w, bs.take w.2) :: cutRanges l (bs.drop w.2)
def State.restorePlanes (s : State) (p : Nat) (j : Journal) : List (Nat × List Byte) → State
  | [] => s
  | (k, bs) :: l =>
    let ps := (s.part p).pset j.pset
    (s.overwrite p ps.region (cutRanges (ps.planeRanges (16384 * j.block) (ps.blockParams j.block) k) bs)).restorePlanes p j l

/-- The learning rate as its table holds it. -/
def State.lrOf (s : State) (p : Nat) (ps : PSet) (t : Nat) : W32 :=
  if ps.lrLen == 0 then ps.lr
  else BitVec.ofNat 32 (leNat (s.readRegion p ps.lrReg (ps.lrAt t) 4))

def State.applyParts (s : State) (p : Nat) : List GradPart → State
  | [] => s
  | g :: gs => (s.applyPart p g (s.lrOf p ((s.part p).pset g.pset) g.t)).applyParts p gs

/-- Every set's block becomes the recomputed result, and is dirty. -/
def State.recompute (s : State) (p : Nat) : List Journal → State
  | [] => s
  | j :: js =>
    let ps := (s.part p).pset j.pset
    let s1 := if ((s.part p).region ps.region).kind == 2 then
        s.dirtyRanges p ps.region (ps.ranges (16384 * j.block) (ps.blockParams j.block)) else s
    ((s1.restorePlanes p j j.planes).applyParts p j.grads).recompute p js

/-- Station firmware borrowed an idle array for RECOMPUTE: on behalf of a confidential partition it is zeroised before it returns to
the pool (R267). -/
def State.borrowed (s : State) (p n : Nat) : State :=
  if (s.part p).conf then mapCores s [n] Core.zeroised else s

/-- What RECOMPUTE reads: each set's learning rates, and the sectors of its block that the overwriting covers in part (R140). -/
def Part.recomputeReads (q : Part) (js : List Journal) : List (Nat × Nat × Nat) :=
  js.flatMap fun j =>
    let ps := q.pset j.pset
    (if ps.lrLen == 0 then [] else j.grads.map fun g => (ps.lrReg, ps.lrAt g.t, 4)) ++ q.blockEdges j.pset j.block

/-- A journal entry of the list lies in a poisoned sector (R143). -/
def State.journalsBad (s : State) (js : List Journal) : Bool :=
  s.ms.any fun m => m.2.journals.any fun j => js.contains j && m.2.poisonIn (journalArea + journalSize * j.entry) journalSize

/-- DIV_RECOMPUTE_DONE, on the first idle array, once every block is staged: with the check pair passed and the journals agreeing, a set
whose block differs from the recomputed result is overwritten with it. -/
def State.divRecompute (s : State) (p : Nat) (checkOk : Bool) (errs : List SymErr) : State :=
  match s.firstDiv p 1 with
  | none => s
  | some d =>
    let js := s.divJournals p d
    match s.idleArrays.head? with
    | none => s
    | some n =>
      if !s.divStaged p d then s.divWant p d
      else
        let s1 := s.borrowed p n
        if checkOk && js.length == d.codes.length && journalsAgree js then
          let l := (s1.part p).recomputeReads js
          let r := s1.reading.pass p errs l
          if r.2.2.isNone || s1.journalsBad js then r.1.divUe p (nth 0 (d.codes.map Prod.fst) 0) d.block l
          else (r.1.recompute p js).divSettled p d 1
        else s1.divFailed 0 p d 1 errs

def execDivRecomputeDone (part : Nat) (checkOk : Bool) (errs : List SymErr) (s : State) : Answer :=
  guardUnit (partOk part) (s.divRecompute part checkOk errs)

/-- DIV_RECOMPUTE_TIMEOUT: no idle array within 100 ms. -/
def State.divTimeout (s : State) (p : Nat) (errs : List SymErr) : State :=
  match s.firstDiv p 1 with
  | none => s
  | some d => s.divFailed 0 p d 1 errs

def execDivRecomputeTimeout (part : Nat) (errs : List SymErr) (s : State) : Answer := guardUnit (partOk part) (s.divTimeout part errs)

/-! ## Staging and write-back (R161, R180, R184, R185) -/

/-- Flash station of a block (log entry 29). -/
def flashOf (b : Nat) : Nat := b % 8

/-- Who waits for block `b`: the core whose GATHER has a row in it, or that sent a part that needs it. -/
def State.blockIssuer (s : State) (p r b : Nat) : Option Nat :=
  let reads := s.ms.findSome? fun m => m.2.threads.findSome? fun t => match m.2.serves t.2 with
    | some a =>
      let w := a.row (s.part p)
      if a.req.part == p && a.req.kind == .gather && w.1 == r && (blocksOf [(w.2.1, w.2.2)]).contains b then
        some (coreKey a.req.sa a.req.x a.req.y)
      else none
    | none => none
  let updates := s.pendList.find? fun e =>
    e.part == p && ((s.part p).partWrites e.grad).1 == r && e.blocks.any fun x => x.2 == b
  reads <|> updates.map fun e => e.grad.sender

/-- A block that cannot be recovered (R161): lost in its volume, FLASH_UE for the partition, entries that need it discarded. -/
def State.blockLost (s : State) (st k : Nat) (d : DirEnt) (fresh : Bool) : State :=
  let fs := flashOf d.block
  let who := s.blockIssuer d.part d.region d.block
  let s1 := if fresh then
      ((s.setFlash fs { s.flash fs with ue := sat32 (s.flash fs).ue 1 }).updVolume d.part d.region fun v =>
        { v with lost := v.lost ++ [d.block] }).event 0x0304 (0x0140 + fs) d.part d.block
    else s
  let s2 := mapMs (s1.updMem st fun m => (m.endJob (.stage k)).dropSlot k) fun m =>
    { m with pends := m.pends.filter fun e =>
        !(e.2.part == d.part && ((s.part e.2.part).partWrites e.2.grad).1 == d.region && e.2.blocks.any fun x => x.2 == d.block) }
  streamFaultFor s2 d.part 3 (40 + fs) d.region (65536 * d.block) who

/-- The block's bytes arrive in its slot. -/
def State.stageBlock (s : State) (st k : Nat) (d : DirEnt) : State :=
  let bs := match s.volumeOf d.part d.region with
    | some v => SMap.span 0 v.2.data (65536 * d.block) 65536
    | none => List.replicate 65536 0
  s.updMem st fun m =>
    { m.endJob (.stage k) with
      stack := SMap.putAll 0 m.stack (slotAddr k) bs
      poison := m.poison.filter fun a => decide (a < slotAddr k) || decide (slotAddr k + 65536 ≤ a)
      dir := SMap.put DirEnt.reset m.dir k { d with staging := false, ref := true } }

/-- Pages of 16 KiB that a flash read recovered (R161): FS_RETRIES and FS_REBUILDS count them, a rebuilt page is an event. -/
def State.flashPages (s : State) (fs p b : Nat) : List FlashRead → State
  | [] => s
  | x :: xs =>
    let f := s.flash fs
    (match x with
      | .retried => s.setFlash fs { f with retries := sat32 f.retries 1 }
      | .rebuilt => (s.setFlash fs { f with rebuilds := sat32 f.rebuilds 1 }).event 0x0303 (0x0140 + fs) p b
      | _ => s).flashPages fs p b xs

/-- FLASH_STAGE_COMPLETE: `pages` says how the read of each of the block's four pages ended. -/
def State.flashStage (s : State) (st k : Nat) (pages : List FlashRead) : State :=
  let d := SMap.look DirEnt.reset (s.mem st).dir k
  if !(d.valid && d.staging) then s
  else
    let gone := match s.volumeOf d.part d.region with
      | some v => v.2.lost.contains d.block
      | none => false
    if gone then s.blockLost st k d false
    else
      let s1 := s.flashPages (flashOf d.block) d.part d.block (pages.take 4)
      if (pages.take 4).contains .lost then s1.blockLost st k d true else (s1.stageBlock st k d).pump.pumpDivs

/-- The flash station of the block that a slot holds switches its firmware, and staging waits (R327). -/
def State.flashHeld (s : State) (st k : Nat) : Bool := s.switching 2 (flashOf (SMap.look DirEnt.reset (s.mem st).dir k).block)

def execFlashStageComplete (ms slot : Nat) (pages : List FlashRead) (s : State) : Answer :=
  guardUnit (msOk ms) (s.unlessHeld (s.flashHeld ms slot) (s.flashStage ms slot pages))

/-- A slot's block goes to its volume, and the slot is free. With an uncorrectable sector the block is not written: MEM_UE (R143), and
the volume is inconsistent (log entry 68). -/
def State.flushSlot (s : State) (st k : Nat) (d : DirEnt) (errs : List SymErr) : State :=
  let w := s.saveBlock st k d errs
  let s1 := w.1.updMem st fun m => (m.endJob (.evict k)).dropSlot k
  if w.2 then s1
  else stationFault (s1.updVolume d.part d.region fun v => { v with inconsistent := true }) d.part 2 st d.region (65536 * d.block)

/-- WRITEBACK_COMPLETE: the volume has the block and the slot is free for reuse. Of a partition in bind-off that is not confidential,
every dirty block of a station in service is written back, once no update still needs it (R185). -/
def State.writeback (s : State) (st k : Nat) (errs : List SymErr) : State :=
  let d := SMap.look DirEnt.reset (s.mem st).dir k
  if (s.mem st).state == 2 then s
  else if d.valid && d.dirty && (s.part d.part).state == .binding && !(s.part d.part).conf then
    if s.pendNeed d.part d.region d.block == 0 && s.readersOf d.part d.region d.block == 0 then (s.flushSlot st k d errs).pump else s
  else if d.valid && d.evicting then (s.countEviction.flushSlot st k d errs).pump.pumpDivs
  else s

def execWritebackComplete (ms slot : Nat) (errs : List SymErr) (s : State) : Answer :=
  guardUnit (msOk ms) (s.unlessHeld (s.flashHeld ms slot) (s.writeback ms slot errs))

/-- The request `rid` waits on staging, a pending entry or an interlock at a station: who, and where (R184). -/
def State.slowWait (s : State) (st rid : Nat) : Option (Nat × Request) :=
  let m := s.mem st
  match m.find rid with
  | some a =>
    let waits : Bool := match a.req.kind with
      | .gather => m.threads.any fun t => t.2.job == some (.serve rid) && t.2.ready
      | .update => a.stage == .issued && decide (0 < a.left)
      | _ => a.stage == .issued && s.interlocked a.req.part a.req.region a.stamp a.ranges
    if waits then some (a.req.part, a.req) else none
  | none => none

/-- A pending entry or queued update that came of the request `rid`. -/
def Ms.partWaits (m : Ms) (rid : Nat) : Option (Nat × GradPart) :=
  match m.pends.find? fun e => e.2.grad.rid == rid with
  | some e => some (e.2.part, e.2.grad)
  | none => (m.updParts.zip m.updq).find? fun u => u.2.rid == rid

/-- SLOW_STARVED: such a wait has lasted longer than SLOW_WAIT_LIMIT. -/
def State.starve (s : State) (st rid : Nat) : State :=
  match s.slowWait st rid with
  | some (p, r) => streamFault s p 7 st r.region r.offset r.sa r.x r.y
  | none =>
    match (s.mem st).partWaits rid with
    | some (p, g) =>
      let ps := (s.part p).pset g.pset
      streamFault s p 7 st ps.region (ps.dataAt 1 g.first) (keyArr g.sender) (keyX g.sender) (keyY g.sender)
    | none => s

def execSlowStarved (ms rid : Nat) (s : State) : Answer := guardUnit (msOk ms) (s.starve ms rid)

/-! ## Scrub and row repair (R142-R144) -/

def stackBytes : Nat := 0x1000000000

/-- The partition that owns the bytes at stack address `a`: by its pool range, or its staged block. -/
def Ms.ownerAt (m : Ms) (a : Nat) : Option Nat :=
  if a < poolBytes then (m.ranges.find? fun r => decide (r.base ≤ a) && decide (a < r.base + r.size)).map Range.part
  else if a < slotAreaEnd then
    let d := SMap.look DirEnt.reset m.dir ((a - poolBytes) / 65536)
    if d.valid then some d.part else none
  else none

/-- The next sector: from the lowest address upward, once a period; at the end of a pass the corrections of the period start
again and the stack's inner corrections are added (R141, R142). -/
def Ms.nextSector (m : Ms) (inner : Nat) : Ms :=
  if m.scrubAt + 32 < stackBytes then { m with scrubAt := m.scrubAt + 32 }
  else { m with scrubAt := 0, innerCe := sat32 m.innerCe inner, rowCe := [] }

/-- An uncorrectable sector met by scrub (R143): in unallocated pool it is overwritten with zeros, and is not poisoned. -/
def State.scrubUe (s : State) (st a : Nat) : State :=
  let m := s.mem st
  if decide (a < poolBytes) && (m.ownerAt a).isNone then s.setMem st { m with stack := m.stack.clear a 32, ue := sat32 m.ue 1, poison := m.poison.filter (· != a) }
  else
    let owner := m.ownerAt a
    let s1 := (s.event 0x0302 (0x0100 + st) (owner.getD noPart) (a / 32)).poisonSector st a
    match owner with
    | some p => s1.setPart p { s1.part p with memWarn := true }
    | none => s1

/-- The region and ranges that an UPDATE request's parts will write (R172). -/
def State.tileRanges (s : State) (a : Active) : List (Nat × List (Nat × Nat)) :=
  let q := s.part a.req.part
  let parts := match q.dense a.req.region a.req.offset with
    | some (n, first) => q.denseParts a.req n first
    | none => match q.rowSet a.req.region a.req.offset with
      | some n => q.rowParts a.req n
      | none => []
  parts.map fun g => q.partWrites g.2

/-- The ranges of stations' requests in flight, as (partition, region, ranges): of requests that are issued, and of gradient parts not yet
applied. -/
def State.flights (s : State) : List (Nat × Nat × List (Nat × Nat)) :=
  s.ms.flatMap fun m =>
    ((m.2.active.filter fun a => a.stage == .issued).flatMap fun a =>
      if a.req.kind == .update then (s.tileRanges a).map fun w => (a.req.part, w) else [(a.req.part, a.req.region, a.ranges)])
    ++ ((m.2.updParts.zip m.2.updq).map fun u => (u.1, (s.part u.1).partWrites u.2))
    ++ m.2.pends.map fun e => (e.2.part, (s.part e.2.part).partWrites e.2.grad)

/-- Do ranges of a region touch a sector of station `st` that `sel` selects? -/
def State.touches (s : State) (st : Nat) (sel : Nat → Bool) (f : Nat × Nat × List (Nat × Nat)) : Bool :=
  f.2.2.any fun w => (s.sectorSpots f.1 f.2.1 w.1 w.2).any fun x => x.1 == st && sel x.2

/-- The stack has something to serve, of any class (R144): a READ or WRITE, a row of a GATHER, a staging or write-back of a slot, a
part or a pending entry that can be applied there. -/
def State.stackBusy (s : State) (st : Nat) : Bool :=
  let there := fun p g => s.touches st (fun _ => true) (p, (s.part p).partWrites g)
  ((s.mem st).active.any s.servable) || !(s.rowsAt st).isEmpty || ((s.mem st).dir.any fun d => d.2.valid && (d.2.staging || d.2.evicting))
    || s.ms.any fun m =>
      (match m.2.updq, m.2.updParts with
        | g :: _, p :: _ => s.canApply m.1 p g && there p g
        | _, _ => false)
      || m.2.pends.any fun e => s.pendReady m.1 e.1 e.2 && there e.2.part e.2.grad

/-- SCRUB_READ: the next sector, when no request of any class is to be served (R144). -/
def State.scrub (s : State) (st : Nat) (errs : List SymErr) (inner : Nat) : State :=
  if s.stackBusy st then s
  else
    let a := (s.mem st).scrubAt
    let s1 := match s.readSector st a (errs.filter fun e => e.sector == 0) with
      | some (d, true) => s.updMem st fun m => m.corrected a s.tune.memRowCeLimit d
      | some (_, false) => s
      | none => s.scrubUe st a
    s1.updMem st fun m => m.nextSector inner

def execScrubRead (ms : Nat) (errs : List SymErr) (innerCe : Nat) (s : State) : Answer :=
  guardUnit (msOk ms) (s.scrub ms errs innerCe)

/-- Does a request in flight touch stack row `row` of station `st`, whichever station serves it, or a slot that is being staged or written
back (R142)? -/
def State.rowInFlight (s : State) (st row : Nat) : Bool :=
  (s.flights.any (s.touches st fun a => stackRow a == row))
    || (s.mem st).dir.any fun d => d.2.valid && (d.2.staging || d.2.evicting)
      && decide (stackRow (slotAddr d.1) ≤ row) && decide (row ≤ stackRow (slotAddr d.1 + 65535))

/-- SOFT_ROW_REPAIR: of a row over MEM_ROW_CE_LIMIT, with no request to it in flight (R142); with a full soft map the station
leaves service (R318). -/
def State.repairRow (s : State) (st row : Nat) : State :=
  let m := s.mem st
  if !m.rowsDue.contains row || s.rowInFlight st row then s
  else if 65536 ≤ s.mgs.softEntries then s.loseMs st
  else ((s.setMem st { m with rowsDue := m.rowsDue.filter (· != row), rowCe := SMap.put 0 m.rowCe row 0
                              rowsRepaired := m.rowsRepaired.filter (· != row) ++ [row] }).addSoft).event 0x0302 (0x0100 + st) noPart row

def execSoftRowRepair (ms row : Nat) (s : State) : Answer := guardUnit (msOk ms) (s.repairRow ms row)

end Sys2Proof.Machine
end

