-- ==== Sys2Proof/Machine/Scan.lean ====
section
/-!
DEFINITION. Scan images (R63-R67, R75, R163, R231): what a scan keeps, the bytes it writes to SCAN_REGION, and reading them back.
-/
namespace Sys2Proof.Machine

/-- Keys of the cores of a list of arrays. -/
def coreKeys (sas : List Nat) : List Nat := sas.flatMap fun n => (List.range 576).map (576 * n + ·)

/-- Check code of a core's live program (R63). -/
def Core.progCode (c : Core) : W64 := crc64 (c.bank.flatMap fun w => leBytes 8 w.toNat)

/-- The image of a frozen partition as decoded: its arrays, cores and reduction points (log entry 20). -/
def State.scanOf (s : State) (p : Nat) : ScanImage :=
  let q := s.part p
  { sas := q.sas, arrays := q.sas.map s.arr, cores := s.coresOf q.sas
    codes := (s.coresOf q.sas).map fun kc => (kc.1, kc.2.progCode)
    slots := q.redAt.map fun e => (e.1, s.redBuf (q.redPlace e.1)), redAt := q.redAt }

/-! ## Layout -/

def coreImageSize : Nat := 100432
def arrayImageSize : Nat := 57848896

/-- Where the image of array `j` of the partition begins, behind the 64-byte header of R231, and that of a core in it (R64). -/
def arrayImageAt (j : Nat) : Nat := 64 + arrayImageSize * j
def coreImageAt (j x y : Nat) : Nat := arrayImageAt j + 64 + coreImageSize * (24 * y + x)

/-- The message that a slot with one side holds, and its side. -/
def RedBuf.oneSide (b : RedBuf) : Option (Nat × Message) :=
  match b.side0, b.side1 with
  | some m, _ => some (0, m)
  | none, some m => some (1, m)
  | none, none => none

/-- RED_ENT of a reduction point's slot. -/
def State.redEnt (s : State) (e : Bool × Nat × Nat) : W64 :=
  SMap.look 0 (if e.1 then (s.mem e.2.1).red else (s.router e.2.1).red) e.2.2

/-- The record of a reduction slot that holds one side (R231): RED_ENT, its side, and the message. -/
def recordBytes (w : W64) (h : Nat × Message) : List Byte :=
  leBytes 8 w.toNat ++ leBytes 8 h.1 ++ leBytes 8 h.2.header.toNat ++ h.2.payload

/-- The records of a partition, in the order of its reduction points. -/
def State.records (s : State) (p : Nat) : List Byte :=
  let q := s.part p
  q.redAt.flatMap fun e => match (s.redBuf (q.redPlace e.1)).oneSide with
    | some h => recordBytes (s.redEnt e.2) h
    | none => []

/-- Bytes of the image: a header, an array image for each array, a record for each reduction slot that holds one side. -/
def State.imageSize (s : State) (p : Nat) : Nat := arrayImageAt (s.part p).sas.length + (s.records p).length

/-- SCAN_EN is 1 and SCAN_REGION can take the image. -/
def State.canScan (s : State) (p : Nat) : Bool :=
  let q := s.part p
  q.set.scanEn && (q.region q.set.scanRegion).valid && decide (s.imageSize p ≤ (q.region q.set.scanRegion).size)

/-! ## Scan-out -/

/-- Byte `i` of a little-endian number. -/
def byteOf (v i : Nat) : Byte := BitVec.ofNat 8 (v / 256 ^ i)

/-- Byte `b` of the 256 long accumulators after fire cycle `f` (R67): of the MMA that is in its occupancy, the products of its current
block; `free` where the spec gives no value: with no MMA under way, and for BF16 and FP16. Outputs in order, 12 bytes each
(log entry 20). -/
def Core.accByte (c : Core) (f : Nat) (free : Byte) (b : Nat) : Byte :=
  match c.mmaPend.getLast? with
  | none => free
  | some m =>
    let p := profOf m.profile
    let done := (f + 1 - m.issued) * macRate p.fmtA
    match accWeight p.fmtA with
    | some w =>
      if p.klen ≤ done then free
      else
        let k0 := done / blockLen p.fmtA p.scaleA p.scaleB * blockLen p.fmtA p.scaleA p.scaleB
        byteOf (longAcc w (outputProds p (fun i => nth 0 m.moving i) (fun i => SMap.look 0 c.resident i) (b / 12 / 16) (b / 12 % 16)
          k0 done)).toNat (b % 12)
    | none => free

/-- Byte `b` of a core's image after fire cycle `f` (R63): the check code, group 3 (flags, then stickies), group 4, the resident
operand and the long accumulators of group 9 (R67), group 10 in the order of R75, group 11 and group 13. The spec lays out no more:
`free` gives the other bytes. -/
def Core.scanByte (c : Core) (f : Nat) (free : Nat → Byte) (b : Nat) : Byte :=
  if b < 8 then free b
  else if b < 16 then byteOf c.progCode.toNat (b - 8)
  else if b < 72 then free b
  else if b < 80 then byteOf (c.flags.toNat + 2 ^ 48 * c.stickies.toNat) (b - 72)
  else if b < 112 then byteOf (SMap.look 0 c.counters ((b - 80) / 2)).toNat ((b - 80) % 2)
  else if b < 592 then free b
  else if b < 4688 then SMap.look 0 c.resident (b - 592)
  else if b < 7760 then c.accByte f (free b) (b - 4688)
  else if b < 8784 then free b
  else if b < 25168 then byteOf (SMap.look 0 c.acc ((b - 8784) / 4)).toNat ((b - 8784) % 4)
  else if b < 25680 then byteOf (SMap.look 0 c.pend ((b - 25168) / 2)).toNat ((b - 25168) % 2)
  else if b < 33872 then SMap.look 0 c.tiles (b - 25680)
  else if b < 34896 then free b
  else SMap.look 0 c.scratch (b - 34896)

/-- Byte `o` of the partition's image. -/
def State.scanByte (s : State) (p o : Nat) : Byte :=
  let q := s.part p
  let free := Config.scanByte s.draws
  if o < 64 then free o
  else if o < arrayImageAt q.sas.length then
    let a := o - 64
    let w := a % arrayImageSize
    if w < 64 then free o
    else
      let k := (w - 64) / coreImageSize
      let at0 := o - (w - 64) % coreImageSize
      let sa := q.saAt (a / arrayImageSize)
      (s.core (coreKey sa (k % 24) (k / 24))).scanByte (s.arr sa).fireCycle (fun b => free (at0 + b)) (o - at0)
  else nth 0 (s.records p) (o - arrayImageAt q.sas.length)

/-- The first `n` bytes of a region become `byte`, at one of its stations; whole sectors leave the poison table (R143). -/
def State.putShare (s : State) (p r n : Nat) (byte : Nat → Byte) (st : Nat) : State :=
  let here := (List.range n).filterMap fun o =>
    let a := (s.part p).place r o
    if a.1 == st then some (a.2, o) else none
  s.updMem st fun m =>
    { m with stack := here.foldl (fun k a => SMap.put 0 k a.1 (byte a.2)) m.stack
             poison := m.poison.filter fun a => !(List.range 32).all fun i => here.any fun x => x.1 == a + i }

/-- The image of the partition's frozen arrays goes to SCAN_REGION, sealed for a confidential partition (R65, R163, R164). `tail`: what
the read of its last sector meets, if the image covers that in part; uncorrectable, the image is not written and MEM_UE is raised
(R140). -/
def State.writeImage (s : State) (p : Nat) (tail : List SymErr) : State :=
  let q := s.part p
  let r := q.set.scanRegion
  let n := s.imageSize p
  let rd := s.reading.ranges p r tail (edgeRanges (0, n))
  if rd.2.2.isNone then
    let w := (rd.1.badSector p [(r, n / 32 * 32, 32)]).getD ((q.place r n).1, r, n / 32 * 32)
    stationFault rd.1 p 2 w.1 w.2.1 w.2.2
  else
    let s1 := ((q.region r).stations).foldl (fun t st => t.putShare p r n (s.scanByte p) st) rd.1
    s1.draw.sealRange p r 0 n

/-! ## Scan-in -/

/-- The number in `n` bytes of SCAN_REGION from offset `o`. -/
def State.scanNat (s : State) (p o n : Nat) : Nat := leNat (s.readRegion p (s.part p).set.scanRegion o n)

/-- Where the image of a core of `i` lies. -/
def ScanImage.coreAt (i : ScanImage) (k : Nat) : Nat := coreImageAt (i.sas.findIdx (· == keyArr k)) (keyX k) (keyY k)

/-- Bytes of the image. -/
def ScanImage.length (i : ScanImage) : Nat :=
  arrayImageAt i.sas.length + ((i.slots.filterMap fun b => b.2.oneSide).map fun h => 24 + h.2.payload.length).foldl (· + ·) 0

/-- The check code in a core's header. -/
def State.headerCode (s : State) (p : Nat) (i : ScanImage) (k : Nat) : W64 := BitVec.ofNat 64 (s.scanNat p (i.coreAt k + 8) 8)

/-- A map of `n` values, each from `size` bytes at offset `o`. -/
def State.scanMap {w : Nat} (s : State) (p o size n : Nat) : SMap (BitVec w) :=
  (List.range n).foldl (fun m j => SMap.put 0 m j (BitVec.ofNat w (s.scanNat p (o + size * j) size))) []

/-- Core `k` of the image, from its bytes in SCAN_REGION: groups whose layout the spec does not give are as decoded in `c`. -/
def State.readCore (s : State) (p : Nat) (i : ScanImage) (k : Nat) (c : Core) : Core :=
  let o := i.coreAt k
  { c with flags := BitVec.ofNat 48 (s.scanNat p (o + 72) 6), stickies := BitVec.ofNat 16 (s.scanNat p (o + 78) 2)
           counters := s.scanMap p (o + 80) 2 16, resident := s.scanMap p (o + 592) 1 4096
           acc := s.scanMap p (o + 8784) 4 4096, pend := s.scanMap p (o + 25168) 2 256
           tiles := s.scanMap p (o + 25680) 1 8192, scratch := s.scanMap p (o + 34896) 1 65536 }

/-- A message as its record holds it at offset `o`. -/
def State.readMsg (s : State) (p o : Nat) (m : Message) : Message :=
  { m with header := BitVec.ofNat 64 (s.scanNat p (o + 16) 8)
           payload := s.readRegion p (s.part p).set.scanRegion (o + 24) m.payload.length }

/-- The reduction buffers of the image, with the messages that their records hold, the first record at offset `o`. -/
def State.readSlots (s : State) (p : Nat) : Nat → List (Nat × RedBuf) → List (Nat × RedBuf)
  | _, [] => []
  | o, b :: l =>
    match b.2.oneSide with
    | none => b :: s.readSlots p o l
    | some h =>
      let m := s.readMsg p o h.2
      let b1 := if h.1 == 0 then { b.2 with side0 := some m } else { b.2 with side1 := some m }
      (b.1, b1) :: s.readSlots p (o + 24 + h.2.payload.length) l

def State.readRecords (s : State) (p : Nat) (i : ScanImage) : List (Nat × RedBuf) :=
  s.readSlots p (arrayImageAt i.sas.length) i.slots

end Sys2Proof.Machine
end

