-- ==== Sys2Proof/Machine/Partition.lean ====
section
/-!
DEFINITION. Partitions: creation and placement, PART_CTL, cast-on, bind-off, suspension and resumption, completion, the status
word's gathering, and the deadlock detector (R109-R113, R212-R238).
-/
namespace Sys2Proof.Machine

/-! ## Placement (R219, R220) -/

/-- Beds whose arrays placement may take (R302). -/
def BedState.usable : BedState → Bool
  | .sleep => true
  | .waking => true
  | .awake => true
  | _ => false

/-- Arrays of any partition. -/
def State.heldArrays (s : State) : List Nat := s.parts.flatMap fun q => q.2.sas

/-- Free arrays, in increasing number. -/
def State.freeArrays (s : State) : List Nat :=
  let held := s.class0Beds
  (List.range 1200).filter fun n =>
    s.saInService n && (s.arr n).part.isNone && (s.bed (s.bedOfArr n)).state.usable && !held.contains (s.bedOfArr n)

/-- The first `k` beds, in lexicographic order, that together hold at least `need` arrays; `l` in increasing bed number. -/
def pickBeds : Nat → Nat → List (Nat × Nat) → List Nat
  | 0, _, _ => []
  | _, _, [] => []
  | k + 1, need, b :: l =>
    let best := ((sortBy (fun n => 1200 - n) (l.map (·.2))).take k).foldl (· + ·) 0
    if need ≤ b.2 + best then b.1 :: pickBeds k (need - b.2) l else pickBeds (k + 1) need l

/-- The fewest beds that can hold `need` arrays: none when all together cannot. -/
def fewest (need : Nat) (counts : List Nat) : Option Nat :=
  let desc := sortBy (fun n => 1200 - n) counts
  (List.range (desc.length + 1)).find? fun k => decide (need ≤ (desc.take k).foldl (· + ·) 0)

/-- The arrays MGS gives a partition of class `cls` and size `n`, in SA_REL order; the RESULT code when it cannot. -/
def State.placement (s : State) (n cls : Nat) : Except Nat (List Nat) :=
  let free := s.freeArrays
  if free.length < n then .error 3
  else
    let inBed := fun b => free.filter fun a => s.bedOfArr a == b
    if cls == 0 then
      let used := s.bedsOf s.heldArrays
      let beds := (s.bedsOf free).filter fun b => !used.contains b
      let counts := beds.map fun b => (b, (inBed b).length)
      match fewest n (counts.map (·.2)) with
      | none => .error 4
      | some k =>
        let set := pickBeds k n counts
        .ok ((free.filter fun a => set.contains (s.bedOfArr a)).take n)
    else
      let beds := s.bedsOf free
      let awake := sortBy (fun b => 1200 - (inBed b).length) (beds.filter fun b => (s.bed b).state == .awake)
      let others := beds.filter fun b => (s.bed b).state != .awake
      let taken := ((awake ++ others).flatMap inBed).take n
      .ok (free.filter taken.contains)

/-- A sleeping bed begins to wake (R303). -/
def State.wakeBed (s : State) (b : Nat) : State :=
  let d := s.bed b
  if d.state == .sleep then s.setBed b { d with state := .waking } else s

def State.wakeBeds (s : State) : List Nat → State
  | [] => s
  | b :: bs => (s.wakeBed b).wakeBeds bs

/-- Beds that hold no array of a partition. -/
def State.bedFree (s : State) (b : Nat) : Bool := !(s.bedsOf s.heldArrays).contains b

/-- A full self-test that FULL_TEST asked for begins once its bed is in SLEEP or AWAKE with no array of a partition; the bed is WAKING until
BED_AWAKE brings the outcome (R315, R323; DESIGN CHOICE, log entry 40). -/
def State.startTest (s : State) (b : Nat) : State :=
  let d := s.bed b
  if d.fullTest && (d.state == .sleep || d.state == .awake) && s.bedFree b then
    s.setBed b { d with state := .waking, freq := 0, fullTest := false, testing := true }
  else s

def State.startTests (s : State) : State := (List.range 36).foldl State.startTest s

/-- Give arrays to a partition; a periodic check of one is abandoned (R320). -/
def giveArrays (s : State) (p : Nat) (conf : Bool) : List Nat → State
  | [] => s
  | n :: ns => giveArrays (s.setArr n { s.arr n with part := some p, dirtyConf := conf || (s.arr n).dirtyConf }) p conf ns

/-! ## PART_CREATE (R218, R219) -/

/-- Number, host key and host public key of the port's authenticated SPDM session (R261). -/
def Port.session (q : Port) : Option (Nat × List Byte × List Byte) :=
  (List.range 4).findSome? fun k =>
    let x := SMap.look Spdm.reset q.spdm k
    if x.stage == 2 then x.hostKey.map fun d => (k, d, x.hostPub) else none

/-- The first free identifier. -/
def State.freePart (s : State) : Option Nat := (List.range 64).find? fun p => (s.part p).state == .none

/-- Does a class break the rule that a port owns class 0 alone or not at all? -/
def State.portClassBad (s : State) (h cls : Nat) : Bool :=
  s.parts.any fun q => q.2.state != .none && q.2.owner == h && (q.2.cls == 0) != (cls == 0)

/-- The outcome of a creation: identifier, arrays and host key, or the RESULT. Of several causes BAD_ARGS and NO_ID come before NO_ARRAYS,
the others after it in ascending order (R219; DESIGN CHOICE, log entry 83). -/
def State.creation (s : State) (h n cls : Nat) (conf : Bool) : Except Nat (Nat × List Nat × List Byte × List Byte) :=
  if n == 0 || decide (1200 < n) then .error 1
  else match s.freePart, s.placement n cls with
    | none, _ => .error 2
    | _, .error r => .error r
    | some p, .ok sas =>
      if s.portClassBad h cls then .error 5
      else if !conf then .ok (p, sas, List.replicate 48 0, [])
      else if s.mgs.entropy.isEmpty then .error 6
      else match (s.port h).session with
        | none => .error 7
        | some k => if s.mgs.banks.isEmpty then .error 8 else .ok (p, sas, k.2)

/-- A new partition in CREATED: everything else as at reset. -/
def newPart (s : State) (h cls n : Nat) (conf : Bool) (sas : List Nat) (key pub : List Byte) : Part :=
  { Part.reset with state := .created, owner := h, cls := cls, conf := conf, sas := sas, saCount := n
                    chain := List.replicate 48 0, hostKey := key, hostPub := pub, serial := (s.mgs.creations + 1) % 2 ^ 64
                    prk := if conf then (Config.random s.draws).take 32 else [] }

/-- PART_CREATE with GO. -/
def State.create (s : State) (h saCount cls : Nat) (conf : Bool) : State :=
  if !s.acts h then s
  else
    let n := saCount % 2048
    let c := cls % 4
    let q := { s.port h with pcSa := n, pcClass := c, pcConf := conf }
    match s.creation h n c conf with
    | .error r => s.setPort h { q with pcResult := r }
    | .ok (p, sas, key, pub) =>
      let s1 := s.setPort h { q with pcResult := 0, pcPart := p }
      let s2 := (giveArrays s1 p conf sas).setPart p (newPart s h c n conf sas key pub)
      ({ s2 with draws := s2.draws + bit conf
                 mgs := { s2.mgs with creations := (s.mgs.creations + 1) % 2 ^ 64
                                      drbg := if conf then 1 else s2.mgs.drbg } }).wakeBeds (s.bedsOf sas)

def execPartCreate (port saCount cls : Nat) (conf : Bool) (s : State) : Answer :=
  guardUnit (portOk port) (s.create port saCount cls conf)

/-! ## PART_CTL (R223) -/

/-- A write to a page of a partition that the port does not own is dropped and counted in NOT_OWNED (R243). -/
def State.pageWrite (s : State) (h p : Nat) (t : State) : State :=
  if !s.acts h then s
  else if s.owns h p then t
  else
    let q := s.port h
    s.setPort h { q with notOwned := satAdd 0xFFFF q.notOwned 1 }

def State.setResult (s : State) (p r : Nat) : State := s.setPart p { s.part p with result := r }

/-- A command other than STOP and WARN_CLR: RESULT 4 while PLACE or RESUME runs, 1 in a wrong state. -/
def State.command (s : State) (h p : Nat) (st : PState) (t : State) : State :=
  let q := s.part p
  s.pageWrite h p
    (if q.placing || q.resuming then s.setResult p 4 else if q.state == st then t else s.setResult p 1)

/-! ## Cast-on (R212-R214) -/

/-- State of a core at the release of set-reset (R46); the port credits follow from its channels. -/
def Core.setReset (c : Core) (step : BitVec 32) : Core :=
  let tag := fun u => BitVec.ofNat 6 (steerTagInit (c.steerCfg u))
  { c.restart 0 with
    fpStatus := 0, flags := 0, counters := [], stickies := 0, rings := [], ports := []
    steers := SMap.put Steer.reset (SMap.put Steer.reset [] 0 ⟨[], tag 0, tag 0⟩) 1 ⟨[], tag 1, tag 1⟩
    meshClaim := [], meshOut := [], seqs := [], descs := [], stepNum := step, resident := [], pend := [], tiles := []
    mmaPend := [], accOpenTo := 0, vecPend := [], matrixFree := 0, vectorFree := 0, vaccFree := 0, moveFree := 0
    tileFree := [], claims := [], retires := [] }

/-- STEP_NUM of every core of the arrays, those the state does not list too. -/
def stepCores (s : State) (step : BitVec 32) : List Nat → State
  | [] => s
  | k :: ks => stepCores (s.setCore k { s.core k with stepNum := step }) step ks

/-- Release the arrays: soft entries take effect (R95), and fire cycle 0 begins. -/
def releaseArrays (s : State) : List Nat → State
  | [] => s
  | n :: ns => releaseArrays (s.setArr n { (s.arr n).repaired with released := true, fireCycle := 0, freeze := none, notes := [] }) ns

/-- RESET: set-reset is released, channels and reduction points start with full credit, and STARTED counts (R105, R131, R234). -/
def State.castReset (s00 : State) (p : Nat) : State :=
  let s := s00.stirPart p
  let q := s.part p
  let reds := q.routes.filter fun r => r.kind == 3
  let s0 := mapCores s q.sas fun c => c.setReset q.set.startStep
  let s1 := if q.set.startStep == 0 then s0 else stepCores s0 q.set.startStep (coreKeys q.sas)
  let s2 := reds.foldl (fun s r => s.setRedBuf (q.redPlace r.id) RedBuf.reset) (releaseArrays s1 q.sas)
  let s3 := (q.routes.filter fun r => r.kind == 1).foldl (fun s r => s.freshChannel q r) s2
  let s4 := reds.foldl (fun s r => s.freshResult q r) s3
  let h := s4.port q.owner
  s4.setPort q.owner { h with started := sat32 h.started 1 }

/-- Run the cast-on steps up to the next LOCK, which wakes the partition's sleeping beds and waits. -/
def State.cast (s : State) (p : Nat) : Nat → State
  | 0 => s
  | n + 1 =>
    let q := s.part p
    match q.castLeft with
    | [] => s.setPart p { q with state := .running }
    | 0 :: _ => s.wakeBeds (s.bedsOf q.sas)
    | 1 :: l => (s.setPart p { q with outputs := true, castLeft := l }).cast p n
    | 2 :: l => let t := s.castReset p
      (t.setPart p { t.part p with castLeft := l }).cast p n
    | _ :: l => (s.setPart p { q with writes := true, castLeft := l }).cast p n

/-- START: the status word and the records are cleared, and cast-on begins. -/
def State.start (s : State) (p : Nat) : State :=
  let q := s.part p
  (s.setPart p
    { q with state := .casting, result := 0, sticky := false, fpx := 0, memWarn := false, suspDev := false, class0Late := false
             slowdown := 0, progress := 0, elapsedTicks := 0, quiesceTicks := 0, fcHeld := 0, fault := Rec4.zero, trap := Rec4.zero, div := Rec4.zero
             dlStatus := 0, outputs := false, writes := false, castLeft := castSteps q.set.castOrder.toNat }).cast p 5

def execPartStart (port part : Nat) (s : State) : Answer :=
  guardUnit (portOk port && partOk part) (s.command port part .ready (s.start part))

/-! ## STOP and bind-off (R215, R222, R223) -/

/-- Bind-off begins at a STOP: END becomes STOPPED, or stays DONE (R225); a scan-out that was asked for is taken (R215 step 2). -/
def State.stopNow (s : State) (p : Nat) : State :=
  let s1 := startBindOff s p .bindOff false
  let q := s1.part p
  let s2 := s1.setPart p { q with endCode := if q.endCode == 0 then 2 else q.endCode, endAt := (s.mgs.tick, stopRank) }
  if q.scanWanted && s.canScan p then s2.writeImage p [] else s2

/-- STOP. In CASTING it waits for the current step; a second one is refused with RESULT 4. -/
def State.stop (s : State) (p : Nat) (scan : Bool) : State :=
  let q := s.part p
  if q.state == .casting then
    if q.stopWaits then s.setResult p 4 else s.setPart p { q with stopWaits := true, scanWanted := scan, result := 0 }
  else if q.state.live then (s.setPart p { q with result := 0, scanWanted := scan }).stopNow p
  else s.setResult p 1

def execPartStop (port part : Nat) (scan : Bool) (s : State) : Answer :=
  guardUnit (portOk port && partOk part) (s.pageWrite port part (s.stop part scan))

/-- Every bed of the partition is AWAKE. -/
def State.bedsAwake (s : State) (p : Nat) : Bool := (s.bedsOf (s.part p).sas).all fun b => (s.bed b).state == .awake

/-- The partition is in the LOCK step of its cast-on. -/
def Part.locking (q : Part) : Bool := q.state == .casting && q.castLeft.head? == some 0

/-- CAST_LOCK_DONE: a STOP that waited acts; otherwise the remaining steps run. -/
def State.lockDone (s : State) (p : Nat) : State :=
  let q := s.part p
  if !(q.locking && s.bedsAwake p) then s
  else if q.stopWaits then s.stopNow p
  else (s.setPart p { q with castLeft := q.castLeft.tail }).cast p 5

def execCastLockDone (part : Nat) (s : State) : Answer := guardUnit (partOk part) (s.lockDone part)

/-- A LOCK does not complete: the partition is bound off with CAST_FAIL (R214). -/
def State.lockFails (s : State) (p : Nat) : State :=
  let s1 := startBindOff s p .fault true
  s1.setPart p (endWith (s.part p) s.mgs.tick castFailRank 12 (s1.part p))

/-- CAST_LOCK_TIMEOUT; also the LOCK of a RESUME (R231). -/
def State.lockLate (s : State) (p : Nat) : State :=
  let q := s.part p
  if (q.locking || q.resuming) && !s.bedsAwake p then s.lockFails p else s

def execCastLockTimeout (part : Nat) (s : State) : Answer := guardUnit (partOk part) (s.lockLate part)

/-- Arrays go back to the pool, zeroised. -/
def returnArrays (s : State) : List Nat → State
  | [] => s
  | n :: ns =>
    returnArrays (s.setArr n { s.arr n with released := false, fireCycle := 0, freeze := none, notes := [], part := none, dirtyConf := false }) ns

/-- Step 4 and step 7 of R215: the cores are zeroised and the arrays returned. -/
def State.freeCores (s : State) (p : Nat) : State :=
  let sas := (s.part p).sas
  (returnArrays (mapCores s sas Core.zeroised) sas).moveDead sas

/-- A station lets go of a partition: its ranges wait for their zero-write and leave the poison table, its staging slots and
journal entries are freed, its keys go (R143, R215, R267). -/
def Ms.release (m0 : Ms) (p : Nat) : Ms :=
  let mine := m0.ranges.filter fun g => g.part == p
  let m := ((m0.dir.filter fun d => d.2.valid && d.2.part == p).map (·.1)).foldl Ms.dropSlot m0
  { m with
    ranges := m.ranges.filter fun g => g.part != p
    threads := SMap.mapV Thread.reset (fun _ t => if m.worksFor t == some p then Thread.reset else t) m.threads
    zeroing := m.zeroing ++ mine
    poison := m.poison.filter fun a => !(mine.any fun g => decide (g.base ≤ a) && decide (a < g.base + g.size))
    pends := m.pends.filter fun e => e.2.part != p
    journals := m.journals.filter fun j => j.part != p
    keys := m.keys.filter fun k => k.part != p }

/-- Volumes at the end of bind-off: a bound one is free again; a confidential one of the partition is deleted (R252). -/
def State.freeVolumes (s : State) (p : Nat) : State :=
  { s with volumes := SMap.mapV none (fun _ v => match v with
      | some w => if w.conf == some p then none
        else some (if w.bound.any fun b => b.1 == p then { w with bound := none } else w)
      | none => none) s.volumes }

/-- VALID goes from every window that names the partition (R245). -/
def Port.dropWindows (q : Port) (p : Nat) : Port :=
  { q with winMap := SMap.mapV 0 (fun _ w => if fld w 6 1 == p then w &&& ~~~1#64 else w) q.winMap }

/-- The partition in ENDED: no array, entry, region or key; identifier and records stay. -/
def Part.ended (q : Part) : Part :=
  { q with
    state := .ended, sas := [], set := { q.set with slowQuota := 0, class0Res := [] }
    hostKey := if q.conf then List.replicate 48 0 else q.hostKey, hostPub := [], prk := []
    regions := [], regionsShadow := [], bases := [], homes := [], psets := [], psetsShadow := [], graph := [], graphShadow := []
    routes := [], routesShadow := [], trees := [], redAt := [], dbEntry := none, plan := none, outputs := false, writes := false
    scanWanted := false, image := none, divs := [], written := [], codes := [], openWrites := [] }

/-- Is anything of the partition still to be written back or applied (R185, R209)? -/
def State.settling (s : State) (p : Nat) : Bool :=
  (!(s.part p).conf && s.dirtyBlocks p) || !(s.queued p).isEmpty || !(s.pendingParts p).isEmpty

/-- Steps 4 to 7 of R215. -/
def State.bindOff (s : State) (p : Nat) : State :=
  let q := s.part p
  let s1 := (((s.cryptoErase p).freeCores p).dropRoutes p).dropHost (fun _ r => r.part == p) 5
  let s2 := (mapFs (mapMs s1 fun m => m.release p) fun f => { f with keys := f.keys.filter fun k => k.part != p }).freeVolumes p
  let s3 := mapPorts s2 fun h => h.dropWindows p
  let s4 := mapRouters s3 fun r => { r with releases := r.releases.filter fun e => e.1 / 65536 != p }
  let s5 := s4.setPart p (s4.part p).ended
  (if q.conf then { s5 with tally := { s5.tally with keysDestroyed := sat32 s5.tally.keysDestroyed 1 } } else s5).startTests

/-- BIND_OFF_DONE. -/
def State.bindOffDone (s : State) (p : Nat) : State :=
  if (s.part p).state == .binding && !s.settling p then s.bindOff p else s

def execBindOffDone (part : Nat) (s : State) : Answer := guardUnit (partOk part) (s.bindOffDone part)

/-! ## Suspension (R230-R232) -/

/-- A partition freeze begins; a load that is under way ends, as QUIESCING accepts no skein (R222). -/
def State.quiesce (s : State) (p : Nat) (device : Bool) : State :=
  let s1 := match s.loaderOf p with
    | some h => s.endLoad h 3 noFrame
    | none => s
  let s2 := freezeAll s1 .scan (s1.part p).sas
  s2.setPart p { s2.part p with
    state := .quiescing, byDevice := device, suspDev := device, image := none, result := 0, quiesceTicks := 0 }

/-- SUSPEND: refused with RESULT 7 without a scan region that can take the image. -/
def execPartSuspend (port part : Nat) (s : State) : Answer :=
  guardUnit (portOk port && partOk part)
    (s.command port part .running (if s.canScan part then s.quiesce part false else s.setResult part 7))

/-- No stream transfer of the partition is outstanding at a station. -/
def State.noTransfer (s : State) (p : Nat) : Bool :=
  let other := fun r : Request => r.part != p || r.host.isSome
  s.ms.all fun m => m.2.waiting.all other && m.2.active.all fun a => other a.req

/-- No token of the partition is on its way, and no port of it holds a message. -/
def State.noToken (s : State) (p : Nat) : Bool :=
  !(s.net.any fun t => t.part == p) && (s.coresOf (s.part p).sas).all fun kc => kc.2.ports.all fun o => o.2.out.isNone

/-- R230 step 2: no transfer outstanding, no token in flight, at most one side in every reduction slot. -/
def State.quiet (s : State) (p : Nat) : Bool :=
  let q := s.part p
  let one := fun b : RedBuf => !(b.side0.isSome && b.side1.isSome)
  s.noToken p && s.noTransfer p && ((s.coresOf q.sas).all fun kc => kc.2.outstanding == 0)
    && (s.ports.all fun h => h.2.doorbells.all fun d => d.part != p) && q.redAt.all fun e => one (s.redBuf (q.redPlace e.1))

/-- A station switches its firmware: a freeze waits (R325). -/
def State.stationSwitches (s : State) : Bool := s.switchingKind 2 || s.switchingKind 3 || s.switchingKind 4

/-- QUIESCE_DONE: scan-out begins. -/
def State.quiesceDone (s : State) (p : Nat) : State :=
  let q := s.part p
  if q.state == .quiescing && q.image.isNone && s.quiet p && !s.stationSwitches then s.setPart p { q with image := some (s.scanOf p) } else s

def execQuiesceDone (part : Nat) (s : State) : Answer := guardUnit (partOk part) (s.quiesceDone part)

/-- The loss of a bed ends a partition with END BED_LOST (R227, R298). -/
def State.bedLost (s : State) (p bed : Nat) (heat : Bool) : State := faultPart s p { kind := 13, bed := bed, heat := heat }

/-- QUIESCE_TIMEOUT: a host's freeze is released with RESULT 5; a device's ends the partition. -/
def State.quiesceLate (s : State) (p : Nat) (errs : List (Nat × ReadEcc)) : State :=
  let q := s.part p
  if !(q.state == .quiescing && q.image.isNone) then s
  else if q.byDevice then
    s.bedLost p (((s.bedsOf q.sas).find? fun b => (s.bed b).state == .draining).getD 0) true
  else
    let s1 := (thawAll s q.sas).setPart p
      { q with state := .running, result := 5, elapsedTicks := q.elapsedTicks + q.quiesceTicks, dlFrom := s.mgs.tick }
    s1.sendAllWaits errs (s1.coresOf q.sas)

/-- The freeze has lasted QUIESCE_LIMIT ms by then (log entry 61). -/
def execQuiesceTimeout (part : Nat) (errs : List (Nat × ReadEcc)) (s : State) : Answer :=
  guardUnit (partOk part)
    (let q := s.part part
     if q.state == .quiescing && q.image.isNone then
       (s.passTicks (25000 * s.tune.quiesceLimit - q.quiesceTicks)).quiesceLate part errs
     else s)

/-- Scan-out has read the scratchpads of the partition's cores; `errs` is what it met in a core (R94). -/
def State.scanReads (s : State) (p : Nat) (errs : List (Nat × ReadEcc)) : State :=
  (errs.filter fun e => (s.part p).sas.contains (keyArr e.1)).foldl
    (fun s e => s.portRead (keyArr e.1) (keyX e.1) (keyY e.1) (List.range 4096) e.2 (fun s => s)) s

/-- SCAN_OUT_DONE: the image is in SCAN_REGION, the cores are zeroised; arrays, entries, slots and class-0 slots released; regions,
sets and keys kept. An uncorrectable error on the way, of a scratchpad or of the image's last sector, ends the partition instead. -/
def State.scanOutDone (s0 : State) (p : Nat) (errs : List (Nat × ReadEcc)) (tail : List SymErr) : State :=
  let s := s0.scanReads p errs
  let q := s.part p
  if !((s0.part p).state == .quiescing && (s0.part p).image.isSome) then s0
  else if q.state != .quiescing then s
  else if ((s.writeImage p tail).part p).state != .quiescing then s.writeImage p tail
  else
    let s1 := (((s.writeImage p tail).gather p).freeCores p).dropRoutes p
    (s1.setPart p { s1.part p with state := .suspended, sas := [], routes := [], routesShadow := [], trees := [], redAt := []
                                   dbEntry := none, outputs := false, writes := false, openWrites := [] }).startTests

def execScanOutDone (part : Nat) (errs : List (Nat × ReadEcc)) (tail : List SymErr) (s : State) : Answer :=
  guardUnit (partOk part) (s.scanOutDone part errs tail)

/-! ## PLACE and RESUME (R231) -/

def execPartPlace (port part : Nat) (s : State) : Answer :=
  guardUnit (portOk port && partOk part)
    (s.command port part .suspended (s.setPart part { s.part part with placing := true, result := 0 }))

/-- PLACE_DONE: PLACED on the arrays of R220, or RESULT 2. -/
def State.placeDone (s : State) (p : Nat) : State :=
  let q := s.part p
  if !q.placing then s
  else match s.placement q.saCount q.cls with
    | .error _ => s.setPart p { q with placing := false, result := 2 }
    | .ok sas =>
      ((giveArrays s p q.conf sas).setPart p { q with placing := false, state := .placed, sas := sas }).wakeBeds (s.bedsOf sas)

def execPlaceDone (part : Nat) (s : State) : Answer := guardUnit (partOk part) (s.placeDone part)

/-- RESUME: the beds wake for LOCK. -/
def execPartResume (port part : Nat) (s : State) : Answer :=
  guardUnit (portOk port && partOk part)
    (s.command port part .resumable
      ((s.setPart part { s.part part with resuming := true, result := 0 }).wakeBeds (s.bedsOf (s.part part).sas)))

/-- A core key of the image, in the arrays the partition now has. -/
def movedKey (i : ScanImage) (q : Part) (k : Nat) : Nat :=
  coreKey (q.saAt (i.sas.findIdx (· == keyArr k))) (keyX k) (keyY k)

/-- The sender that a message names, in its new place. -/
def movedSrc (i : ScanImage) (q : Part) (src : Nat) : Nat :=
  let again := fun (sta : Bool) (n slot : Nat) => match i.redAt.find? fun e => e.2 == (sta, n, slot) with
    | some e => match q.redPlace e.1 with
      | some (.redSlot site k) => 2 ^ 40 + 16 * site + k
      | some (.staSlot ms k) => 2 ^ 41 + 64 * ms + k
      | _ => src
    | none => src
  match srcFeeder src with
  | some (.port sa x y port) => 8 * movedKey i q (coreKey sa x y) + port
  | some (.redSlot site slot) => again false site slot
  | some (.staSlot ms slot) => again true ms slot
  | none => src

def movedMsg (i : ScanImage) (q : Part) (m : Message) : Message := { m with src := movedSrc i q m.src }

/-- A core as scanned, with the program and configuration of the new commit. -/
def movedCore (i : ScanImage) (q : Part) (c now : Core) : Core :=
  { c with prog := now.prog, progShadow := now.progShadow, cfg := now.cfg, cfgShadow := now.cfgShadow
           seqs := c.seqs.foldl (fun m e => SMap.put 0 m (movedSrc i q e.1) e.2) [] }

/-- The check codes in the core headers of SCAN_REGION match the committed programs, core by core (R66). -/
def State.codesMatch (s : State) (p : Nat) (i : ScanImage) : Bool :=
  (coreKeys i.sas).all fun k => (s.core (movedKey i (s.part p) k)).progCode == s.headerCode p i k

/-- Every core of every array of the image is written, from its bytes in SCAN_REGION (R64, R231). -/
def State.restoreCores (s : State) (p : Nat) (i : ScanImage) : State :=
  let q := s.part p
  (coreKeys i.sas).foldl (fun t k =>
    t.setCore (movedKey i q k) (movedCore i q (s.readCore p i k (SMap.look Core.reset i.cores k)) (s.core (movedKey i q k)))) s

def restoreArrays (s : State) : List (Nat × Arr) → State
  | [] => s
  | a :: l => restoreArrays (s.setArr a.1 { (s.arr a.1).repaired with released := a.2.released, fireCycle := a.2.fireCycle, notes := a.2.notes, freeze := none }) l

/-- RESUME_DONE: every bed is AWAKE; images and reduction-slot records are written, OUTPUTS and WRITES run, the freeze is
released. A check-code mismatch gives RESULT 6 and PLACED. The image is read through the outer code (R142, R143) and under its tags
(R164); no core's transfer met what fails there. -/
def State.resumeDone (s0 : State) (p : Nat) (errs : List SymErr) : State :=
  let q := s0.part p
  let r := q.set.scanRegion
  match q.image with
  | none => s0
  | some i =>
    let rd := s0.reading.range p r errs (0, i.length)
    let s := rd.1
    if !(q.resuming && s0.bedsAwake p) then s0
    else if rd.2.2.isNone then
      let w := (s.badSector p [(r, 0, i.length)]).getD ((q.place r 0).1, r, 0)
      stationFault s p 2 w.1 w.2.1 w.2.2
    else if !s.authentic p r 0 i.length then
      let o := (s.badGranule p r 0 i.length).getD 0 * (q.region r).gran
      stationFault s p 4 (q.place r o).1 r o
    else if !s.codesMatch p i then s.setPart p { q with resuming := false, state := .placed, result := 6 }
    else
      let s1 := restoreArrays (s.restoreCores p i) (q.sas.zip i.arrays)
      let s2 := (s.readRecords p i).foldl (fun s b => s.setRedBuf (q.redPlace b.1)
        { b.2 with side0 := b.2.side0.map (movedMsg i q), side1 := b.2.side1.map (movedMsg i q) }) s1
      s2.setPart p { s2.part p with resuming := false, state := .running, outputs := true, writes := true, image := none, dlFrom := s.mgs.tick }

def execResumeDone (part : Nat) (errs : List SymErr) (s : State) : Answer := guardUnit (partOk part) (s.resumeDone part errs)

/-! ## RELEASE, WARN_CLR, completion, gathering (R222, R223, R225, R234) -/

/-- RELEASE: identifier and records are free. -/
def execPartRelease (port part : Nat) (s : State) : Answer :=
  guardUnit (portOk port && partOk part) (s.command port part .ended (s.setPart part Part.reset))

/-- WARN_CLR clears MEM_WARN and CLASS0_LATE. -/
def execWarnClr (port part : Nat) (s : State) : Answer :=
  guardUnit (portOk port && partOk part)
    (s.pageWrite port part (s.setPart part { s.part part with memWarn := false, class0Late := false, result := 0 }))

/-- Every array is at rest, every acknowledged update applied, no commit pending (R222). -/
def State.finished (s : State) (p : Nat) : Bool :=
  let q := s.part p
  q.state == .running && q.sas.all s.atRest && !q.commitPending && (s.queued p).isEmpty && (s.pendingParts p).isEmpty && q.divs.isEmpty

/-- PART_COMPLETE: COMPLETE with END DONE; COMPLETED counts. -/
def State.complete (s : State) (p : Nat) : State :=
  if !s.finished p then s
  else
    let s1 := s.gather p
    let q := s1.part p
    let h := s1.port q.owner
    (s1.setPart p { q with state := .complete, endCode := 1 }).setPort q.owner { h with completed := sat32 h.completed 1 }

def execPartComplete (part : Nat) (s : State) : Answer :=
  guardUnit (partOk part) ((s.runOuts (s.part part).sas).complete part)

/-- STATUS_GATHER, while the partition runs. -/
def execStatusGather (part : Nat) (s : State) : Answer :=
  guardUnit (partOk part)
    (let s1 := s.runOuts (s.part part).sas
     if (s1.part part).state == .running then s1.gather part else s1)

/-! ## Deadlock (R110-R113) -/

/-- DL_CTL_WRITE: reserved bits are ignored (R9); the window begins again. -/
def execDlCtlWrite (port part : Nat) (value : W64) (s : State) : Answer :=
  guardUnit (portOk port && partOk part)
    (s.pageWrite port part (s.setPart part { s.part part with dlCtl := value &&& 0x3FFFFFFFF#64, dlFrom := s.mgs.tick }))

/-- The array has fired every cycle before `d`, and no retirement of them is still to come. -/
def State.upTo (s : State) (sa d : Nat) : Bool :=
  decide (d ≤ (s.arr sa).fireCycle + 1) && (s.coresOf [sa]).all fun kc => kc.2.retires.all fun r => decide (d ≤ r.1)

/-- The first core of an array whose due hold point is false, when the array is held at it (R112): its key. -/
def State.heldAt (s : State) (sa : Nat) : Option Nat :=
  let d := s.nextDue sa
  if s.holdReady sa d && s.upTo sa d then ((s.dueHolds sa d).find? fun kc => !kc.2.holdTrue kc.2.word).map (·.1) else none

/-- TICK at which the detector's window is full (R110, R111): DL_TICKS 0 takes DEADLOCK_TICKS, and below 25,000 acts as 25,000. -/
def State.windowEnd (s : State) (q : Part) : Nat :=
  let w := fld q.dlCtl 31 0
  q.dlFrom + max 25000 (if w == 0 then s.tune.deadlockTicks else w)

/-- A tile message at a core that no descriptor takes: it does not land. -/
def State.stuck (s : State) (t : Token) : Bool :=
  match t.loc, t.body with
  | .core sa x y, .tile _ raddr n _ _ => ((s.core (coreKey sa x y)).landingDesc raddr n).isNone
  | _, _ => false

/-- No message or credit of the partition is on its way that would land within the detector's window (R110). -/
def State.noLanding (s : State) (p : Nat) : Bool :=
  (s.net.all fun t => t.part != p || s.stuck t) && (s.coresOf (s.part p).sas).all fun kc => kc.2.ports.all fun o => o.2.out.isNone

/-- No array of the partition can fire, one is held at a false hold point, nothing of it is outstanding at a station, and no freeze
is asserted; nothing of it lands (R110). -/
def State.deadlocked (s : State) (p : Nat) : Bool :=
  let q := s.part p
  q.state == .running && !bitOf q.dlCtl 32
    && (q.sas.all fun n => (s.arr n).freeze.isNone && (s.atRest n || (s.heldAt n).isSome))
    && (q.sas.any fun n => (s.heldAt n).isSome)
    && s.noTransfer p && s.noLanding p

/-- DL_STATUS (R112). -/
def State.dlWord (s : State) (p : Nat) (scanned : Bool) : W64 :=
  let q := s.part p
  match (sortBy id q.sas).findSome? s.heldAt with
  | none => 0
  | some k =>
    let c := s.core k
    packW [(0, 1), (1, bit scanned), (2, keyArr k), (13, keyX k), (18, keyY k), (23, c.slot), (33, (termA c.word).kind),
      (36, (termA c.word).sel), (42, (q.sas.filter fun n => (s.heldAt n).isSome).length), (53, (q.sas.filter s.allHalted).length)]

/-- DEADLOCK, the window being full: the device freezes the partition, latches DL_STATUS, scans it out if DL_SCAN and the scan's conditions allow (R65), and
the job ends with DEADLOCK. -/
def State.deadlock (s : State) (p : Nat) : State :=
  if !s.deadlocked p then s
  else
    let q := s.part p
    let scan := bitOf q.dlCtl 33 && s.canScan p && s.quiet p
    let s1 := (s.setPart p { q with dlStatus := s.dlWord p scan }).event 0x0108 0x01FF p p
    let s2 := startBindOff (freezeAll s1 .deadlock q.sas) p .deadlock true
    let s3 := s2.setPart p (endWith q s.mgs.tick deadlockRank 10 (s2.part p))
    if scan then s3.writeImage p [] else s3

def execDeadlock (part : Nat) (s : State) : Answer :=
  guardUnit (partOk part)
    (let s1 := s.runOuts (s.part part).sas
     if s1.deadlocked part then (s1.passTo (s1.windowEnd (s1.part part))).deadlock part else s1)

end Sys2Proof.Machine
end

