-- ==== Sys2Proof/Machine/HostPort.lean ====
section
/-!
DEFINITION. Host ports: reset, link, configuration requests, the data window, doorbells, IDE failures (R239-R248, R253, R256).
-/
namespace Sys2Proof.Machine

/-! ## Reset, link, READY (R240, R241) -/

/-- Window requests of a port's queue commands. -/
def Port.queueRids (q : Port) : List Nat := q.queues.flatMap fun u => u.2.cmds.flatMap QEntry.left

/-- Requests of its host reads under way. -/
def Port.readRids (q : Port) : List Nat := q.openReads.flatMap fun r => r.pieces.map Prod.fst

/-- A port after PERST#, FLR or a surprise link down: link, queues, MSI-X table, window map, IDE keys, SPDM sessions and error counts
return to reset; JOB_COUNT, writes under way, doorbells held and the load registers stay (log entry 49), and lanes that failed. -/
def Port.afterReset (q : Port) : Port :=
  { Port.reset with
    lost := q.lost, badLanes := q.badLanes, started := q.started, completed := q.completed, loader := q.loader
    doorbells := q.doorbells, image := q.image
    openWrites := q.openWrites.filter fun r => !q.queueRids.contains r }

/-- PORT_RESET: the load ends with reason 0x1A; commands that have started end without a completion. -/
def State.portReset (s : State) (h : Nat) : State :=
  let s1 := if (s.port h).loader.state != 0 then s.endLoad h 0x1A noFrame else s
  let rids := (s1.port h).queueRids ++ (s1.port h).readRids
  let keep := fun r : Request => !(r.host == some h && rids.contains r.rid)
  let s2 := mapMs s1 fun m =>
    { m with waiting := m.waiting.filter keep, active := m.active.filter fun a => keep a.req
             taken := m.taken.filter fun x => !(m.waiting.any fun r => r.rid == x.1 && !keep r) }
  s2.setPort h (s2.port h).afterReset

def execPortReset (port : Nat) (_kind : ResetKind) (s : State) : Answer := guardUnit (portOk port) (s.portReset port)

/-- A link of `width` lanes can train: its first or its last lanes are good (R317; which lanes a narrower link uses is a DESIGN CHOICE, log
entry 70). -/
def Port.canTrain (q : Port) (width : Nat) : Bool :=
  [1, 2, 4, 8, 16].contains width
    && ((q.badLanes.all fun l => decide (width ≤ l)) || q.badLanes.all fun l => decide (l < 16 - width))

/-- LINK_UP: the port trains after border release while its host station is in service, at a speed and width of R239: 2.5 to 64 GT/s (0 to
5), at 64 GT/s in Flit Mode alone. -/
def State.linkUp (s : State) (h speed width : Nat) (flit : Bool) : State :=
  let q := s.port h
  if s.mgs.phase == .released && !q.lost && (decide (speed < 5) || (speed == 5 && flit)) && q.canTrain width then
    s.setPort h { q with linkUp := true, speed := speed % 8, width := width % 32, flit := flit }
  else s

def execLinkUp (port speed width : Nat) (flit : Bool) (s : State) : Answer :=
  guardUnit (portOk port) (s.linkUp port speed width flit)

/-- PORT_READY: SKEIN_DEADLINE takes 1,000 times its default object (R201). -/
def State.portReady (s : State) (h : Nat) : State :=
  let q := s.port h
  if q.linkUp && !q.lost && !q.ready then
    s.setPort h { q with ready := true, loader := { q.loader with deadline := 1000 * s.tune.skeinDeadlineDef } }
  else s

def execPortReady (port : Nat) (s : State) : Answer := guardUnit (portOk port) (s.portReady port)

/-! ## Queue pairs: fetching commands (R249) -/

def State.queue (s : State) (h q : Nat) : Queue := SMap.look Queue.reset (s.port h).queues q
def State.setQueue (s : State) (h q : Nat) (u : Queue) : State :=
  let t := s.port h
  s.setPort h { t with queues := SMap.put Queue.reset t.queues q u }

def cmdOpcode (c : QCmd) : Nat := fld c.w0 7 0
def cmdCid (c : QCmd) : Nat := fld c.w0 23 8
def cmdPart (c : QCmd) : Nat := fld c.w0 29 24
def cmdRegion (c : QCmd) : Nat := fld c.w0 35 30
def cmdVolume (c : QCmd) : Nat := fld c.w0 45 36

/-- The opcodes of R250. -/
def knownOpcode (o : Nat) : Bool := [1, 2, 3, 0x10, 0x11, 0x12, 0x13, 0x14, 0x15].contains o

/-- Commands with a reserved opcode at the front of those not started complete with BAD_OPCODE as they start. -/
def startBad : List QEntry → List QEntry × List Completion
  | [] => ([], [])
  | e :: es =>
    if e.started then
      let r := startBad es
      (e :: r.1, r.2)
    else if knownOpcode (cmdOpcode e.cmd) then (e :: es, [])
    else
      let r := startBad es
      (r.1, ⟨cmdCid e.cmd, 1, 0⟩ :: r.2)

def Queue.startBad (u : Queue) : Queue :=
  let r := Sys2Proof.Machine.startBad u.cmds
  { u with cmds := r.1, done := u.done ++ r.2 }

/-- The completion queue has no free entry. -/
def Queue.full (u : Queue) : Bool := (u.cqTail + 1) % 2 ^ u.cqLog2 == u.cqHead

/-- The port fetches commands up to the tail: not while the completion queue is full (R249), nor in D3hot (R239). `cmds` is what host
memory holds from the submission head on. -/
def State.fetch (s : State) (h q : Nat) (cmds : List QCmd) : State :=
  let u := s.queue h q
  if u.full || (s.port h).d3hot then s
  else
    let size := 2 ^ u.sqLog2
    let got := cmds.take ((u.sqTail % size + size - u.sqHead) % size)
    { s with nextId := s.nextId + got.length }.setQueue h q (Queue.startBad
      { u with sqHead := (u.sqHead + got.length) % size
               cmds := u.cmds ++ (got.zipIdx.map fun (c : QCmd × Nat) =>
                 ({ cmd := c.1, started := false, left := [], status := 0, id := s.nextId + c.2 } : QEntry)) })

/-! ## Configuration space (R239, R241, R242) -/

/-- A BAR's low bits: 64-bit, prefetchable or not; the address bits below its size read 0 (R242). -/
def barWord (addr : W64) (size flags : Nat) (half : Nat) : W32 :=
  let w := (addr &&& BitVec.ofNat 64 (2 ^ 64 - size)) ||| BitVec.ofNat 64 flags
  if half == 0 then w.setWidth 32 else (w >>> 32).setWidth 32

/-- What R239's table says of a feature: 0 not supported, else 1 or its limit; of the speeds 2.5 to 64 GT/s, the widths x1 to x16 and the
timeout ranges A to D one bit each, from bit 0. -/
def featureValue : PcieFeature → Nat
  | .flitMode => 1
  | .maxPayload => 512
  | .maxReadRequest => 4096
  | .tagBits => 14
  | .aer => 1
  | .flr => 1
  | .msixVectors => 64
  | .laneMargining => 1
  | .doe => 1
  | .ide => 1
  | .linkSpeeds => 0x3F
  | .linkWidths => 0x1F
  | .timeoutRanges => 0xF
  | .relaxedOrdering => 1
  | .idOrdering => 1
  | .retimers => 2
  | .mctp => 1
  | _ => 0

/-- The word a configuration read gives. -/
def Port.config (q : Port) : CfgReg → W32
  | .ids => BitVec.ofNat 32 (leNat Config.vendorId % 65536 + 65536 * 0x1200)
  | .classCode => BitVec.ofNat 32 (0x12 * 2 ^ 24 + Config.classLow % 2 ^ 24)
  | .bar i => match i with
    | 0 => barWord q.bar0 (2 ^ 26) 4 0
    | 1 => barWord q.bar0 (2 ^ 26) 4 1
    | 2 => barWord q.bar2 (2 ^ 36) 0xC 0
    | 3 => barWord q.bar2 (2 ^ 36) 0xC 1
    | _ => 0
  | .power => if q.d3hot then 3 else 0
  | .timeout => BitVec.ofNat 32 (q.cto % 16 + 16 * bit q.ctoOff)
  | .aerStatus => BitVec.ofNat 32 q.aer
  | .feature f => BitVec.ofNat 32 (featureValue f)

/-- One half of an address. -/
def putHalf (a : W64) (half : Nat) (v : W32) : W64 :=
  if half == 0 then (a &&& 0xFFFFFFFF00000000#64) ||| v.setWidth 64 else (a &&& 0xFFFFFFFF#64) ||| (v.setWidth 64 <<< 32)

/-- A configuration write: BAR addresses, the power state (0 D0, 3 D3hot; others are ignored), the completion timeout. -/
def Port.configure (q : Port) (v : W32) : CfgReg → Port
  | .bar i => match i with
    | 0 => { q with bar0 := putHalf q.bar0 0 v }
    | 1 => { q with bar0 := putHalf q.bar0 1 v }
    | 2 => { q with bar2 := putHalf q.bar2 0 v }
    | 3 => { q with bar2 := putHalf q.bar2 1 v }
    | _ => q
  | .power => if v.toNat % 4 == 3 then { q with d3hot := true } else if v.toNat % 4 == 0 then { q with d3hot := false } else q
  | .timeout => { q with cto := v.toNat % 16, ctoOff := v.toNat.testBit 4 }
  | .aerStatus => if v == 0 then q else { q with aer := 0 }
  | _ => q

/-- The port's queues, after it left D3hot, fetch what was announced meanwhile (R239): `cmds` is what host memory holds from each submission
head on. -/
def State.fetchAll (s : State) (h : Nat) (cmds : List (List QCmd)) : State :=
  (List.range 8).foldl (fun t q => if (t.queue h q).enable then t.fetch h q (nth [] cmds q) else t) s

/-- CONFIG_REQUEST: Request Retry Status only while station firmware is not yet running in the device's single power-up; a lost port, or one
whose Link stream is Insecure, answers nothing (R240, R241, R253). -/
def State.configRequest (s : State) (h : Nat) (reg : CfgReg) (write : Option W32) (cmds : List (List QCmd)) : State :=
  let q := s.port h
  if q.lost || s.mgs.phase == .off then s
  else if s.mgs.phase == .released then
    if !q.linkUp || q.drops none then s
    else match write with
      | none => s.emit (.config h reg (some (q.config reg)))
      | some v =>
        let s1 := s.setPort h (q.configure v reg)
        (if q.d3hot && !(s1.port h).d3hot then s1.fetchAll h cmds else s1).emit (.config h reg none)
  else if s.mgs.releasedAt == 0 then s.emit (.rrs h)
  else s

def execConfigRequest (port : Nat) (reg : CfgReg) (write : Option W32) (cmds : List (List QCmd)) (s : State) : Answer :=
  guardUnit (portOk port) (s.configRequest port reg write cmds)

/-! ## The data window (R245, R246) -/

/-- R246: a confidential partition is reached only on a selective IDE stream of an authenticated session with its host key. -/
def State.ideOk (s : State) (h p : Nat) (ide : Option Nat) : Bool :=
  !(s.part p).conf ||
    match ide with
    | some k =>
      let q := s.port h
      let e := SMap.look Ide.reset q.ide k
      let x := SMap.look Spdm.reset q.spdm e.session
      decide (1 ≤ k) && e.state == 1 && x.stage == 2 && x.hostKey == some (s.part p).hostKey
    | none => false

def State.countUnmapped (s : State) (h : Nat) : State :=
  s.setPort h { s.port h with unmapped := satAdd 0xFFFF (s.port h).unmapped 1 }
def State.countNotOwned (s : State) (h : Nat) : State :=
  s.setPort h { s.port h with notOwned := satAdd 0xFFFF (s.port h).notOwned 1 }
def State.countMisaligned (s : State) (h : Nat) : State :=
  s.setPort h { s.port h with misaligned := satAdd 0xFFFF (s.port h).misaligned 1 }

/-- WIN_MAP fields. -/
def winValid (w : W64) : Bool := bitOf w 0
def winPart (w : W64) : Nat := fld w 6 1
def winRegion (w : W64) : Nat := fld w 12 7
def winOfs (w : W64) : Nat := fld w 38 13

/-- A region that the window may map: of a partition the port owns, valid, not of KIND 2. -/
def State.mappable (s : State) (h p r : Nat) : Bool :=
  s.owns h p && ((s.part p).region r).valid && ((s.part p).region r).kind != 2

/-- WIN_MAP_WRITE: a mapping that is refused leaves VALID 0 and counts in NOT_OWNED. -/
def State.mapWindow (s : State) (h slot : Nat) (v : W64) : State :=
  if !s.acts h then s
  else
    let q := s.port h
    let w := v &&& 0x7FFFFFFFFF#64
    let put := fun w => s.setPort h { q with winMap := SMap.put 0 q.winMap slot w }
    if winValid w && !s.mappable h (winPart w) (winRegion w) then (put (w &&& ~~~1#64)).countNotOwned h else put w

def execWinMapWrite (port slot : Nat) (value : W64) (s : State) : Answer :=
  guardUnit (portOk port && decide (slot < 64)) (s.mapWindow port slot value)

/-- A route leads from the station at one router to that at another and back, through both station ports; without a loss every one does
(R127, R128). -/
def State.reaches (s : State) (a b : Nat) : Bool :=
  let port := fun n => !(s.router n).deadDirs.contains 5 && !(s.router n).deadDirs.contains 6
  s.routers.all (fun r => !r.2.dead && r.2.deadDirs.isEmpty) || (port a && port b && (s.path a b).isSome && (s.path b a).isSome)

/-- A byte of the range lies on a station that is out of service or that no route reaches from host station `h`. -/
def State.cutOff (s : State) (h p r o n : Nat) : Bool :=
  (((s.part p).pieces r (n / ((s.part p).region r).gran + 2) o n).map (·.1)).any fun st =>
    (s.mem st).state == 2 || !s.reaches (attachSite (48 + h)) (attachSite st)

/-- Why a window access is refused: by the map or SIZE, or by R246. -/
inductive WinRefusal where
  | unmapped
  | notOwned
  deriving DecidableEq, Repr

/-- Where a window access of `n` bytes at BAR offset `a` goes: partition, region, offset. -/
def State.window (s : State) (h a n : Nat) (ide : Option Nat) : Except WinRefusal (Nat × Nat × Nat) :=
  let w := SMap.look 0 (s.port h).winMap (a / 2 ^ 30)
  let p := winPart w
  let r := winRegion w
  let o := 65536 * winOfs w + a % 2 ^ 30
  if !(winValid w && s.mappable h p r) || decide (((s.part p).region r).size < o + n) then .error .unmapped
  else if !s.ideOk h p ide then .error .notOwned
  else .ok (p, r, o)

def State.countRefusal (s : State) (h : Nat) : WinRefusal → State
  | .unmapped => s.countUnmapped h
  | .notOwned => s.countNotOwned h

/-- A host's request for bytes that lie together on one station: it takes its place there as one of the partition's class (R245). -/
def State.hostRequest (s : State) (h p r : Nat) (kind : ReqKind) (o n : Nat) (bs : List Byte) : Request :=
  { rid := s.nextId, kind := kind, part := p, cls := (s.part p).cls, epoch := (s.part p).epoch, sa := 0, x := 0, y := 0
    desc := 0, tile := 0, region := r, offset := o, len := n, data := bs, rows := [], step := 0
    raddr := 0, resp := 0, host := some h, arrived := s.nextId, late := false }

/-- Send a host's access, piece by piece, to the stations. Answers the request numbers. -/
def State.hostRequests (s : State) (h p r : Nat) (kind : ReqKind) : List (Nat × Nat × Nat × Nat) → List Byte → State × List Nat
  | [], _ => (s, [])
  | c :: cs, bs =>
    let q := s.hostRequest h p r kind c.2.2.1 c.2.2.2 (bs.take c.2.2.2)
    let rest := (s.queueRequest c.1 q).hostRequests h p r kind cs (bs.drop c.2.2.2)
    (rest.1, s.nextId :: rest.2)

def Part.hostPieces (q : Part) (r o n : Nat) : List (Nat × Nat × Nat × Nat) := q.pieces r (n / (q.region r).gran + 2) o n

/-- A host read must wait: an earlier request touches a sector of it, an update or a divergence interlocks a byte, or a station of it
switches its firmware (R152, R175, R189, R327). -/
def State.hostWaits (s : State) (h p r o n : Nat) : Bool :=
  s.heldBack (s.hostRequest h p r .read o n []) [(o, n)] || s.interlocked p r s.nextId [(o, n)]
    || ((s.part p).hostPieces r o n).any fun c => s.switching 3 c.1

/-- A host read that waits at its stations; `addr`: where a WIN_READ puts the bytes. -/
def State.openRead (s : State) (h p r o n : Nat) (addr : Option W64) : State × List Nat :=
  let w := s.hostRequests h p r .read ((s.part p).hostPieces r o n) []
  let q := w.1.port h
  (w.1.setPort h { q with openReads := q.openReads ++ [⟨addr, w.2.map fun i => (i, none), false⟩] }, w.2)

/-- A host's read of a range, as its pieces arrive at the stations (R157). -/
def State.noteReads (s : State) (p r o n : Nat) : State :=
  ((s.part p).hostPieces r o n).foldl (fun t c => t.noteLate c.1 (s.hostRequest 0 p r .read c.2.2.1 c.2.2.2 [])) s

/-- A read of `n` bytes of a region by a host that need not wait, through the outer code; no bytes: a sector is uncorrectable. -/
def State.readNow (s : State) (p r o n : Nat) (errs : List SymErr) : State × Option (List Byte) :=
  let rd := ((s.noteReads p r o n).reading.range p r errs (o, n)).checked p r (o, n)
  (rd.1, rd.2.2)

/-- WINDOW_READ: completes with data, Unsupported Request or Completer Abort; before READY it reads 0. -/
def State.windowRead (s : State) (h a n : Nat) (ide : Option Nat) (errs : List SymErr) : State :=
  if (s.port h).lost || (s.port h).drops ide || s.switching 4 h then s
  else if !(s.port h).ready then s.emit (.readData h (List.replicate n 0))
  else match s.window h a n ide with
    | .error e => (s.countRefusal h e).emit (.unsupported h)
    | .ok (p, r, o) =>
      if s.cutOff h p r o n then s.emit (.completerAbort h)
      else if s.hostWaits h p r o n then (s.openRead h p r o n none).1
      else match s.readNow p r o n errs with
        | (s1, some bs) => s1.emit (.readData h bs)
        | (s1, none) => s1.emit (.completerAbort h)

def execWindowRead (port addr len : Nat) (ide : Option Nat) (errs : List SymErr) (s : State) : Answer :=
  guardUnit (portOk port) (s.windowRead port addr len ide errs)

/-- A host's write of a range, received and not acknowledged. -/
def State.openWrite (s : State) (h p r o : Nat) (bs : List Byte) : State × List Nat :=
  let w := s.hostRequests h p r .write ((s.part p).hostPieces r o bs.length) bs
  let q := w.1.port h
  (w.1.setPort h { q with openWrites := q.openWrites ++ w.2 }, w.2)

/-- WINDOW_WRITE. -/
def State.windowWrite (s : State) (h a : Nat) (bs : List Byte) (ide : Option Nat) : State :=
  if !s.actsOn h ide then s
  else match s.window h a bs.length ide with
    | .error e => s.countRefusal h e
    | .ok (p, r, o) => if s.cutOff h p r o bs.length then s.countUnmapped h else (s.openWrite h p r o bs).1

def execWindowWrite (port addr : Nat) (data : List Byte) (ide : Option Nat) (s : State) : Answer :=
  guardUnit (portOk port) (s.windowWrite port addr data ide)

/-! ## Doorbells (R247, R248) -/

def State.dropBell (s : State) (h : Nat) : State :=
  s.setPort h { s.port h with dbDropped := satAdd 0xFFFF (s.port h).dbDropped 1 }

/-- WIN_WRITEs that a port has fetched and not started, by number (R248). -/
def Port.fetched (q : Port) : List Nat :=
  q.queues.flatMap fun u => (u.2.cmds.filter fun e => !e.started && fld e.cmd.w0 7 0 == 3).map QEntry.id

/-- Writes received before now and not acknowledged: of windows and WIN_WRITEs. -/
def Port.unacked (q : Port) : List Nat := q.openWrites ++ q.fetched

/-- PART_DB: a doorbell that is not dropped waits for the writes received before it. -/
def State.doorbell (s : State) (h p : Nat) (v : W64) (ide : Option Nat) : State :=
  let q := s.part p
  if !s.actsOn h ide then s
  else if !s.owns h p then s.countNotOwned h
  else
    (if !s.ideOk h p ide then s.countNotOwned h
     else if q.state != .running || decide (q.saCount ≤ fld v 10 0) || decide (23 < fld v 15 11) || decide (23 < fld v 20 16) then
      s.dropBell h
     else
      let t := s.port h
      let d : Doorbell := ⟨p, q.epoch, fld v 10 0, fld v 15 11, fld v 20 16, fld v 24 21, fld v 40 25, t.unacked⟩
      s.setPort h { t with doorbells := t.doorbells ++ [d] })

def execPartDb (port part : Nat) (value : W64) (ide : Option Nat) (s : State) : Answer :=
  guardUnit (portOk port && partOk part) (s.doorbell port part value ide)

/-- DOORBELL_RELEASE: the oldest doorbell of the port enters its tree once the writes before it are acknowledged; it is dropped if its
partition no longer runs. -/
def State.releaseBell (s : State) (h : Nat) : State :=
  let t := s.port h
  match t.doorbells with
  | [] => s
  | d :: ds =>
    if d.after.any t.unacked.contains then s
    else
      let s1 := s.setPort h { t with doorbells := ds }
      let q := s.part d.part
      match q.dbEntry with
      | some e =>
        if q.state == .running then
          s1.inject d.part q.cls d.epoch (.router (attachSite (48 + h))) e (.doorbell (q.saAt d.saRel) d.x d.y d.cnt d.amount)
        else s1.dropBell h
      | none => s1.dropBell h

def execDoorbellRelease (port : Nat) (s : State) : Answer := guardUnit (portOk port) (s.releaseBell port)

/-- DOORBELL_LAND: a remote increment of counter CNT by AMOUNT, checked under R107. -/
def execDoorbellLand (tok mport : Nat) (s : State) : Answer :=
  guardUnit (decide (mport < 4))
    (withToken s tok fun t =>
      match t.loc, t.body with
      | .core sa x y, .doorbell _ _ _ cnt amount =>
        if (arrivalPorts x y).contains mport then
          let s1 := s.consume tok
          (s1.stirPart t.part).afterCount sa x y ((s1.core (coreKey sa x y)).increment cnt amount)
            (counterFault sa x y cnt 3 mport 0 0 (s1.arr sa).fireCycle)
        else s
      | _, _ => s)

/-! ## IDE (R253) -/

/-- IDE_INTEGRITY_FAIL: a secure stream becomes Insecure and an AER uncorrectable error is logged. -/
def State.ideFail (s : State) (h k : Nat) : State :=
  let q := s.port h
  let e := SMap.look Ide.reset q.ide k
  if e.state == 1 then s.setPort h { q with ide := SMap.put Ide.reset q.ide k { e with state := 2 }, aer := q.aer + 1 } else s

def execIdeIntegrityFail (port stream : Nat) (s : State) : Answer :=
  guardUnit (portOk port && decide (stream < 9)) (s.ideFail port stream)

end Sys2Proof.Machine
end

