-- ==== Sys2Proof/Machine/Queue.lean ====
section
/-!
DEFINITION. Queue pairs, their commands and completions, flash volumes (R162, R249-R252), and writes to BAR registers (R243).
-/
namespace Sys2Proof.Machine

/-! ## Queue pairs (R249) -/

/-- SQ_TAIL_WRITE: a new tail, and the fetch. -/
def State.sqTail (s : State) (h q tail : Nat) (cmds : List QCmd) : State :=
  let u := s.queue h q
  if s.acts h && u.enable then (s.setQueue h q { u with sqTail := tail % 65536 }).fetch h q cmds else s

def execSqTailWrite (port q tail : Nat) (cmds : List QCmd) (s : State) : Answer :=
  guardUnit (portOk port && qOk q) (s.sqTail port q tail cmds)

/-- CQ_HEAD_WRITE frees completion entries, and a fetch that paused goes on. -/
def State.cqHead (s : State) (h q head : Nat) (cmds : List QCmd) : State :=
  let u := s.queue h q
  if s.acts h && u.enable then (s.setQueue h q { u with cqHead := head % 2 ^ u.cqLog2 }).fetch h q cmds else s

def execCqHeadWrite (port q head : Nat) (cmds : List QCmd) (s : State) : Answer :=
  guardUnit (portOk port && qOk q) (s.cqHead port q head cmds)

/-- Clearing ENABLE: unstarted commands end with ABORTED, started ones finish. -/
def Queue.disable (u : Queue) : Queue :=
  { u with enable := false, cmds := u.cmds.filter QEntry.started
           done := u.done ++ (u.cmds.filter fun e => !e.started).map fun e => ⟨cmdCid e.cmd, 0xD, 0⟩ }

/-- A write of the queue's configuration word: sizes are dropped while ENABLE is 1, and out of range they keep ENABLE at 0. -/
def Queue.config (u : Queue) (v : W64) : Queue :=
  if u.enable then
    let w := { u with vector := fld v 13 8 }
    if bitOf v 14 then w else w.disable
  else
    let w := { u with sqLog2 := fld v 3 0, cqLog2 := fld v 7 4, vector := fld v 13 8 }
    let fits := fun n => decide (4 ≤ n) && decide (n ≤ 12)
    if bitOf v 14 && fits w.sqLog2 && fits w.cqLog2 then
      { w with enable := true, sqTail := 0, sqHead := 0, cqHead := 0, cqTail := 0, phase := true }
    else w

def State.queueConfig (s : State) (h q : Nat) (v : W64) : State :=
  if s.acts h then s.setQueue h q ((s.queue h q).config v) else s

def execQueueEnable (port q : Nat) (value : W64) (s : State) : Answer :=
  guardUnit (portOk port && qOk q) (s.queueConfig port q (value ||| (1#64 <<< 14)))

def execQueueDisable (port q : Nat) (s : State) : Answer :=
  guardUnit (portOk port && qOk q)
    (if s.acts port && (s.queue port q).enable then s.setQueue port q (s.queue port q).disable else s)

/-! ## Commands (R250, R251) -/

/-- A misaligned address, offset or length, or a non-zero reserved field (R251). -/
def badArgs (c : QCmd) : Bool :=
  fld c.w0 63 46 != 0 || c.w1.toNat % 8 != 0 || (cmdOpcode c != 0x10 && c.w2.toNat % 8 != 0) || c.w3.toNat % 8 != 0
    || c.w4 != 0 || c.w5 != 0 || c.w6 != 0 || c.w7 != 0

/-- What a command that starts does: it ends with a status and a RESULT, or waits for host writes to be acknowledged. -/
inductive CmdEnd where
  | completes (status : Nat) (result : W64)
  | waits (rids : List Nat)
  deriving DecidableEq, Repr

/-- The first code whose test holds, 0 without one. -/
def firstOf : List (Bool × Nat) → Nat
  | [] => 0
  | (b, c) :: l => if b then c else firstOf l

/-- Mark the first unstarted command started. -/
def startFirst (rids : List Nat) : List QEntry → List QEntry
  | [] => []
  | e :: es => if e.started then e :: startFirst rids es else { e with started := true, left := rids } :: es

/-- Take the first unstarted command out. -/
def dropFirst : List QEntry → List QEntry
  | [] => []
  | e :: es => if e.started then e :: dropFirst es else es

/-- A doorbell that waits for a WIN_WRITE waits for its writes from the command's start on (R248). -/
def Port.begun (q : Port) (id : Nat) (rids : List Nat) : Port :=
  { q with doorbells := q.doorbells.map fun d => if d.after.contains id then { d with after := d.after ++ rids } else d }

/-- The queue whose turn it is: round robin among those with a command to start and room for completions (R249). -/
def Port.turn (q : Port) : Option Nat :=
  ((List.range 8).map fun i => (q.lastQ + 1 + i) % 8).find? fun k =>
    let u := SMap.look Queue.reset q.queues k
    !u.full && u.cmds.any fun e => !e.started

/-- Start the next command of the queue whose turn it is, when it has this CID and one of these opcodes; in D3hot no queue runs. -/
def State.runCmd (s : State) (h q cid : Nat) (ops : List Nat) (f : QCmd → State × CmdEnd) : State :=
  let u := s.queue h q
  match u.cmds.find? fun e => !e.started with
  | none => s
  | some e =>
    if !s.acts h || (s.port h).d3hot || (s.port h).turn != some q || cmdCid e.cmd != cid || !ops.contains (cmdOpcode e.cmd) then s
    else
      let r := f e.cmd
      let r := (r.1.setPort h (({ r.1.port h with lastQ := q }).begun e.id (match r.2 with
        | .waits rids => rids
        | _ => [])), r.2)
      let v := r.1.queue h q
      match r.2 with
      | .completes st res => r.1.setQueue h q (Queue.startBad { v with cmds := dropFirst v.cmds, done := v.done ++ [⟨cid, st, res⟩] })
      | .waits rids => r.1.setQueue h q (Queue.startBad { v with cmds := startFirst rids v.cmds })

/-- A command that reads host memory ends when that read fails. -/
def withHost (s : State) (c : QCmd) (d : HostRead) (f : List Byte → State × CmdEnd) : State × CmdEnd :=
  match d with
  | .error => (s, .completes 9 0)
  | .bytes b => f (b.take c.w2.toNat ++ List.replicate (c.w2.toNat - b.length) 0)

/-- SKEIN_FETCH: the host range is appended to the port's load. -/
def State.skeinFetch (s : State) (h : Nat) (d : HostRead) (c : QCmd) : State × CmdEnd :=
  if badArgs c then (s, .completes 2 0) else withHost s c d fun b => (s.receive h b, .completes 0 0)

def execSkeinFetch (port q cid : Nat) (data : HostRead) (s : State) : Answer :=
  guardUnit (portOk port && qOk q) (s.runCmd port q cid [1] (s.skeinFetch port data))

/-- The status of a WIN_READ or WIN_WRITE that is not carried out (R245, R246, R251). -/
def State.winStatus (s : State) (h : Nat) (c : QCmd) (ide : Option Nat) : Nat :=
  let p := cmdPart c
  let r := cmdRegion c
  let o := c.w3.toNat
  let n := c.w2.toNat
  firstOf [(badArgs c, 2), (!s.mappable h p r, 3), (decide (((s.part p).region r).size < o + n), 4), (!s.ideOk h p ide, 0xA),
    (s.cutOff h p r o n, 0xF)]

/-- WIN_READ: region bytes to host memory, at once or when the stations have served what it waits for; MEM_UE with an uncorrectable
or poisoned sector. -/
def State.winRead (s : State) (h : Nat) (ide : Option Nat) (errs : List SymErr) (c : QCmd) : State × CmdEnd :=
  let st := s.winStatus h c ide
  let p := cmdPart c
  let r := cmdRegion c
  let o := c.w3.toNat
  let n := c.w2.toNat
  if st != 0 then (s, .completes st 0)
  else if n != 0 && s.hostWaits h p r o n then
    let w := s.openRead h p r o n (some c.w1)
    (w.1, .waits w.2)
  else match s.readNow p r o n errs with
    | (s1, some bs) => (s1.emit (.hostWrite h c.w1 bs), .completes 0 0)
    | (s1, none) => (s1, .completes 0xB 0)

def execWinRead (port q cid : Nat) (ide : Option Nat) (errs : List SymErr) (s : State) : Answer :=
  guardUnit (portOk port && qOk q) (s.runCmd port q cid [2] (s.winRead port ide errs))

/-- WIN_WRITE: host memory to a region, in the order of window writes; it completes when its writes are acknowledged. -/
def execWinWrite (port q cid : Nat) (data : HostRead) (ide : Option Nat) (s : State) : Answer :=
  guardUnit (portOk port && qOk q)
    (s.runCmd port q cid [3] fun c =>
      let st := s.winStatus port c ide
      if st != 0 then (s, .completes st 0)
      else withHost s c data fun b =>
        let w := s.openWrite port (cmdPart c) (cmdRegion c) c.w3.toNat b
        (w.1, if w.2.isEmpty then .completes 0 0 else .waits w.2))

/-! ## Volumes (R162, R252) -/

/-- Unallocated user flash in GiB (R160, 0x4000:04). -/
def State.flashFree (s : State) : Nat :=
  98304 - (s.volumes.map fun v => match v.2 with
    | some w => w.sizeGib
    | none => 0).foldl (· + ·) 0

/-- The volume a command names, when the port owns it. -/
def State.ownVolume (s : State) (h : Nat) (c : QCmd) : Option Volume :=
  match s.volume (cmdVolume c) with
  | some v => if v.port == h then some v else none
  | none => none

/-- VOL_CREATE: the lowest free number; with PART naming a confidential partition of the port, a confidential volume. -/
def State.volCreate (s : State) (h : Nat) (c : QCmd) : State × CmdEnd :=
  let p := cmdPart c
  let conf := s.owns h p && (s.part p).conf
  let free := (List.range 1024).find? fun v => (s.volume v).isNone
  let st := firstOf [(badArgs c || c.w2 == 0, 2), (conf && !(s.part p).state.live, 5),
    (free.isNone || decide (s.flashFree < c.w2.toNat), 6)]
  match free with
  | some v => if st != 0 then (s, .completes st 0)
    else ((s.setVolume v (some ⟨h, c.w2.toNat, if conf then some p else none, none, false, [], []⟩)).loadVolKeys (if conf then some p else none),
      .completes 0 (BitVec.ofNat 64 v))
  | none => (s, .completes st 0)

def execVolCreate (port q cid : Nat) (s : State) : Answer :=
  guardUnit (portOk port && qOk q) (s.runCmd port q cid [0x10] (s.volCreate port))

/-- VOL_DELETE, of an unbound volume. -/
def State.volDelete (s : State) (h : Nat) (c : QCmd) : State × CmdEnd :=
  let st := firstOf [(badArgs c, 2), ((s.ownVolume h c).isNone, 3), ((s.ownVolume h c).any fun v => v.bound.isSome, 7)]
  if st != 0 then (s, .completes st 0) else ((s.setVolume (cmdVolume c) none).loadVolKeys ((s.ownVolume h c).bind Volume.conf), .completes 0 0)

def execVolDelete (port q cid : Nat) (s : State) : Answer :=
  guardUnit (portOk port && qOk q) (s.runCmd port q cid [0x11] (s.volDelete port))

/-- VOL_BIND: names the volume behind a region of KIND 2 before the commit that makes it valid. -/
def State.volBind (s : State) (h : Nat) (c : QCmd) : State × CmdEnd :=
  let p := cmdPart c
  let r := cmdRegion c
  let q := s.part p
  match s.ownVolume h c with
  | none => (s, .completes (if badArgs c then 2 else 3) 0)
  | some v =>
    let mismatch := match v.conf with
      | some o => o != p || ((q.region r).valid && (q.region r).kind != 2)
      | none => q.conf
    let st := firstOf [(badArgs c, 2), (!s.owns h p, 3), (mismatch, 0xE),
      (!q.state.live || (q.region r).valid || (s.volumeOf p r).isSome, 5), (v.bound.isSome, 7)]
    if st != 0 then (s, .completes st 0) else (s.setVolume (cmdVolume c) (some { v with bound := some (p, r) }), .completes 0 0)

def execVolBind (port q cid : Nat) (s : State) : Answer :=
  guardUnit (portOk port && qOk q) (s.runCmd port q cid [0x12] (s.volBind port))

/-- RESULT of VOL_INFO. -/
def Volume.info (v : Volume) : W64 :=
  packW [(0, v.sizeGib), (32, if !v.lost.isEmpty then 2 else bit v.inconsistent), (34, bit v.bound.isSome),
    (35, match v.bound with
      | some b => b.1
      | none => v.conf.getD 0)]

def execVolInfo (port q cid : Nat) (s : State) : Answer :=
  guardUnit (portOk port && qOk q)
    (s.runCmd port q cid [0x13] fun c => match s.ownVolume port c with
      | none => (s, .completes (if badArgs c then 2 else 3) 0)
      | some v => (s, if badArgs c then .completes 2 0 else .completes 0 v.info))

/-- Fewer than seven flash stations are in service and reached from host station `h`: pages cannot be rebuilt (R160, R324). -/
def State.flashCut (s : State) (h : Nat) : Bool :=
  decide (((List.range 8).filter fun f => (s.flash f).state != 2 && s.reaches (attachSite (48 + h)) (attachSite (40 + f))).length < 7)

/-- Blocks of 64 KiB that a range touches. -/
def volBlocks (o n : Nat) : List Nat := blocksOf [(o, n)]

/-- Pages of 16 KiB that a range touches, in order. -/
def volPages (o n : Nat) : List Nat := (List.range ((o + n + 16383) / 16384 - o / 16384)).map (o / 16384 + ·)

/-- A read of volume pages (R161): what was recovered is counted; the blocks of lost pages that were not lost before are lost now. -/
def State.readPages (s : State) (n : Nat) : List (Nat × FlashRead) → State
  | [] => s
  | x :: l =>
    let b := x.1 / 4
    let fs := flashOf b
    (match s.volume n with
      | some w =>
        if x.2 == FlashRead.lost && !w.lost.contains b then
          ((s.setFlash fs { s.flash fs with ue := sat32 (s.flash fs).ue 1 }).setVolume n (some { w with lost := w.lost ++ [b] })).event
            0x0304 (0x0140 + fs) noPart b
        else s.flashPages fs noPart b [x.2]
      | none => s).readPages n l

/-- VOL_READ, of an ordinary unbound volume; `pages` says how the read of each 16 KiB page ended (R161). -/
def State.volRead (s : State) (h : Nat) (pages : List FlashRead) (c : QCmd) : State × CmdEnd :=
  match s.ownVolume h c with
  | none => (s, .completes (if badArgs c then 2 else 3) 0)
  | some v =>
    let o := c.w3.toNat
    let n := c.w2.toNat
    let st := firstOf [(badArgs c, 2), (v.bound.isSome || v.conf.isSome, 7), (decide (v.sizeGib * 2 ^ 30 < o + n), 4),
      (s.flashCut h, 0xF)]
    if st != 0 then (s, .completes st 0)
    else
      let gone := v.lost.any (volBlocks o n).contains
      let met := (volPages o n).zip pages
      let s1 := s.readPages (cmdVolume c) met
      if gone || met.any fun x => x.2 == .lost then (s1, .completes 0xC 0)
      else (s1.emit (.hostWrite h c.w1 (SMap.span 0 v.data o n)), .completes 0 0)

def execVolRead (port q cid : Nat) (pages : List FlashRead) (s : State) : Answer :=
  guardUnit (portOk port && qOk q) (s.unlessHeld (s.switchingKind 2) (s.runCmd port q cid [0x14] (s.volRead port pages)))

/-- The status of a VOL_WRITE that is not carried out: the volume must be unbound and ordinary, or confidential with its partition CREATED
or READY and under R246. -/
def State.volWriteStatus (s : State) (h : Nat) (ide : Option Nat) (c : QCmd) : Nat :=
  match s.ownVolume h c with
  | none => if badArgs c then 2 else 3
  | some v =>
    let early := match v.conf with
      | some p => (s.part p).state == .created || (s.part p).state == .ready
      | none => true
    firstOf [(badArgs c, 2), (v.bound.isSome && (v.conf.isNone || !early), 7), (decide (v.sizeGib * 2 ^ 30 < c.w3.toNat + c.w2.toNat), 4),
      (!early, 5), (v.conf.any fun p => !s.ideOk h p ide, 0xA), (s.flashCut h, 0xF)]

/-- VOL_WRITE. A block that is rewritten is lost no longer (R161). -/
def State.volWrite (s : State) (h : Nat) (d : HostRead) (ide : Option Nat) (c : QCmd) : State × CmdEnd :=
  let st := s.volWriteStatus h ide c
  match s.ownVolume h c with
  | none => (s, .completes st 0)
  | some v =>
    let o := c.w3.toNat
    let n := c.w2.toNat
    if st != 0 then (s, .completes st 0)
    else withHost s c d fun b =>
      (s.setVolume (cmdVolume c) (some { v with data := SMap.putAll 0 v.data o b
                                                lost := v.lost.filter fun k => !(decide (o ≤ 65536 * k) && decide (65536 * k + 65536 ≤ o + n)) }),
        .completes 0 0)

def execVolWrite (port q cid : Nat) (data : HostRead) (ide : Option Nat) (s : State) : Answer :=
  guardUnit (portOk port && qOk q) (s.unlessHeld (s.switchingKind 2) (s.runCmd port q cid [0x15] (s.volWrite port data ide)))

/-- The status with which a command ends before it reads host memory, 0 if it does read it. -/
def State.beforeRead (s : State) (h : Nat) (ide : Option Nat) (c : QCmd) : Nat :=
  match cmdOpcode c with
  | 3 => s.winStatus h c ide
  | 0x15 => s.volWriteStatus h ide c
  | _ => if badArgs c then 2 else 0

/-- COMPLETION_TIMEOUT: the host-memory read of the queue's next command has no completion within the port's timeout, which is enabled
(R239); a command that a status ends before it reads has that. -/
def execCompletionTimeout (port q cid : Nat) (ide : Option Nat) (s : State) : Answer :=
  guardUnit (portOk port && qOk q)
    (if (s.port port).ctoOff then s
     else s.runCmd port q cid [1, 3, 0x15] fun c =>
       let st := s.beforeRead port ide c
       (s, .completes (if st == 0 then 8 else st) 0))

/-! ## COMPLETION_POST (R249, R250), MSI-X -/

/-- Send a vector's message, or set its pending bit while the vector is masked. -/
def State.interrupt (s : State) (h v : Nat) : State :=
  let t := s.port h
  if bitOf t.unmask v then s.emit (.msix h v) else s.setPort h { t with pba := t.pba ||| (1#64 <<< v) }

/-- The oldest completion is posted when the completion queue has room; PHASE inverts as the queue wraps. -/
def State.post (s : State) (h q : Nat) : State :=
  let u := s.queue h q
  match u.done with
  | [] => s
  | c :: cs =>
    if !s.acts h || (s.port h).d3hot || u.full then s
    else
      let next := (u.cqTail + 1) % 2 ^ u.cqLog2
      let w0 := packW [(0, c.cid), (16, c.status), (24, bit u.phase), (25, q)]
      let s1 := s.setQueue h q { u with done := cs, cqTail := next, phase := if next == 0 then !u.phase else u.phase }
      (s1.emit (.completion h q w0 c.result)).interrupt h u.vector

def execCompletionPost (port q : Nat) (s : State) : Answer := guardUnit (portOk port && qOk q) (s.post port q)

/-! ## REGISTER_WRITE (R243) -/

/-- A write of a vector's second word: its message data and its mask; a pending message leaves when the mask goes. -/
def State.msixWord (s : State) (h v : Nat) (w : W64) : State :=
  let t := s.port h
  let on := !bitOf w 32
  let s1 := s.setPort h { t with msix := SMap.put 0 t.msix (2 * v + 1) (w &&& 0xFFFFFFFF#64)
                                 unmask := if on then t.unmask ||| (1#64 <<< v) else t.unmask &&& ~~~(1#64 <<< v) }
  if on && bitOf t.pba v then (s1.setPort h { s1.port h with pba := t.pba &&& ~~~(1#64 <<< v) }).emit (.msix h v) else s1

/-- PART_CTL (R223): a reserved command gives RESULT 3. -/
def State.partCtl (s : State) (h p : Nat) (v : W64) : State :=
  match fld v 3 0 with
  | 1 => s.command h p .ready (s.start p)
  | 2 => s.pageWrite h p (s.stop p (bitOf v 4))
  | 3 => s.command h p .running (if s.canScan p then s.quiesce p false else s.setResult p 7)
  | 4 => s.command h p .suspended (s.setPart p { s.part p with placing := true, result := 0 })
  | 5 => s.command h p .resumable ((s.setPart p { s.part p with resuming := true, result := 0 }).wakeBeds (s.bedsOf (s.part p).sas))
  | 6 => s.command h p .ended (s.setPart p Part.reset)
  | 7 => s.pageWrite h p (s.setPart p { s.part p with memWarn := false, class0Late := false, result := 0 })
  | _ => s.pageWrite h p (s.setResult p (if (s.part p).placing || (s.part p).resuming then 4 else 3))

/-- The registers of a partition page. -/
def State.pageReg (s : State) (h p o : Nat) (v : W64) : State :=
  let q := s.part p
  match o with
  | 0x08 => s.partCtl h p v
  | 0x10 => s.pageWrite h p (s.setPart p { q with jobRef0 := v &&& 0xFFFFFFFFFFFF#64 })
  | 0x18 => s.pageWrite h p (s.setPart p { q with jobRef1 := v &&& 0xFFFFFFFFFF#64 })
  | 0x30 => s.pageWrite h p (s.setPart p { q with dlCtl := v &&& 0x3FFFFFFFF#64, dlFrom := s.mgs.tick })
  | 0x40 => s.doorbell h p v none
  | _ => s.pageWrite h p s

/-- SKEIN_CTL: PART, then the acts of START, END and ABORT. -/
def State.skeinCtl (s : State) (h : Nat) (v : W64) : State :=
  let l := (s.port h).loader
  let s1 := s.setLoader h { l with ctlPart := fld v 5 0 }
  let s2 := if bitOf v 8 then s1.skeinStart h (fld v 5 0) else s1
  let s3 := if bitOf v 9 then s2.skeinEnd h else s2
  if bitOf v 10 then s3.skeinAbort h else s3

/-- The registers of a port below the partition pages. -/
def State.portReg (s : State) (h o : Nat) (v : W64) (cmds : List QCmd) : State :=
  let t := s.port h
  let l := t.loader
  if o == 0x10 then
    if bitOf v 15 then s.create h (fld v 10 0) (fld v 12 11) (bitOf v 13)
    else s.setPort h { t with pcSa := fld v 10 0, pcClass := fld v 12 11, pcConf := bitOf v 13 }
  else if o == 0x20 then s.skeinCtl h v
  else if o == 0x28 then s.setLoader h { l with deadline := fld v 31 0 }
  else if o == 0x30 then s.setLoader h { l with overrun := l.overrun && !bitOf v 3 }
  else if o == 0x38 then
    if bitOf v 0 then s.commit h (bitOf v 1) (fld v 31 8) else s.setLoader h { l with flush := bitOf v 1, drainUs := fld v 31 8 }
  else if o == 0x40 then s.setLoader h { l with committed := l.committed && !bitOf v 4, noStaged := l.noStaged && !bitOf v 5 }
  else if 0x100 ≤ o && o < 0x300 then s.mapWindow h ((o - 0x100) / 8) v
  else if 0x1000 ≤ o && o < 0x1100 then
    let q := (o - 0x1000) / 32
    let u := s.queue h q
    match (o - 0x1000) % 32 with
    | 0 => if u.enable then s else s.setQueue h q { u with sqBase := v &&& ~~~0xFFF#64 }
    | 8 => if u.enable then s else s.setQueue h q { u with cqBase := v &&& ~~~0xFFF#64 }
    | 16 => s.queueConfig h q v
    | 24 => (s.cqHead h q (fld v 31 16) []).sqTail h q (fld v 15 0) cmds
    | _ => s
  else if 0x2000 ≤ o && o < 0x2400 then
    let k := (o - 0x2000) / 8
    if k % 2 == 0 then s.setPort h { t with msix := SMap.put 0 t.msix k v } else s.msixWord h (k / 2) v
  else s

/-- REGISTER_WRITE: an aligned 8-byte write takes effect; a smaller or misaligned one is dropped and counted in MISALIGNED. -/
def State.regWrite (s : State) (h o size : Nat) (v : W64) (cmds : List QCmd) : State :=
  if !s.acts h then s
  else if size != 8 || o % 8 != 0 then s.countMisaligned h
  else if 0x1000000 ≤ o && o < 0x2000000 then s.winWrite h (leBytes 8 v.toNat)
  else if 0x100000 ≤ o && o < 0x500000 then s.pageReg h ((o - 0x100000) / 0x10000) (o % 0x10000) v
  else s.portReg h o v cmds

def execRegisterWrite (port offset size : Nat) (value : W64) (cmds : List QCmd) (s : State) : Answer :=
  guardUnit (portOk port) (s.regWrite port offset size value cmds)

end Sys2Proof.Machine
end

