-- ==== Sys2Proof/Machine/Registers.lean ====
section
/-!
DEFINITION. What a read of a port's register BAR gives (R43, R111, R112, R138, R190, R201, R218, R223, R225, R228, R233, R234, R243, R244,
R249). A read has no effect on the device, so no command reads (log entry 42).
-/
namespace Sys2Proof.Machine

/-- PENDING (R225): a commit is pending, or a bind-off write-back is in progress. -/
def State.pendingBit (s : State) (p : Nat) : Bool :=
  let q := s.part p
  q.commitPending || (q.state == .binding && !q.conf && s.dirtyBlocks p)

/-- STATE's code (R222). -/
def PState.num : PState → Nat
  | .none => 0
  | .created => 1
  | .ready => 2
  | .casting => 3
  | .running => 4
  | .quiescing => 5
  | .suspended => 6
  | .placed => 7
  | .resumable => 8
  | .complete => 9
  | .binding => 10
  | .ended => 11

/-- PART_SW (R225). -/
def State.partSw (s : State) (p : Nat) : W64 :=
  let q := s.part p
  packW [(0, q.state.num), (4, q.endCode % 16), (8, bit q.sticky), (9, q.fpx.toNat), (14, bit q.memWarn), (15, bit (s.pendingBit p)),
    (16, bit q.suspDev), (17, bit q.class0Late), (18, q.slowdown % 1024), (28, q.progress % 2 ^ 36)]

/-- Word `i` of a record of four. -/
def Rec4.word (r : Rec4) (i : Nat) : W64 := match i with
  | 0 => r.w0
  | 1 => r.w1
  | 2 => r.w2
  | _ => r.w3

/-- A partition page (R243). -/
def State.readPage (s : State) (h p o : Nat) : W64 :=
  let q := s.part p
  if !s.owns h p then 0
  else match o with
    | 0x00 => s.partSw p
    | 0x08 => packW [(8, q.result % 16)]
    | 0x10 => q.jobRef0
    | 0x18 => q.jobRef1
    | 0x20 => packW [(0, q.elapsedTicks / 25 % 2 ^ 48)]
    | 0x28 => packW [(0, s.fcMin q % 2 ^ 48)]
    | 0x30 => q.dlCtl
    | 0x38 => q.dlStatus
    | _ =>
      if 0x100 ≤ o && o < 0x120 then q.fault.word ((o - 0x100) / 8)
      else if 0x120 ≤ o && o < 0x140 then q.trap.word ((o - 0x120) / 8)
      else if 0x140 ≤ o && o < 0x160 then q.div.word ((o - 0x140) / 8)
      else if 0x400 ≤ o && o < 0x800 then
        let e := q.region ((o - 0x400) / 16)
        if o % 16 == 0 then e.w0 else e.w1
      else 0

/-- A queue pair's registers (R249). -/
def Queue.read (u : Queue) (o : Nat) : W64 := match o with
  | 0x00 => u.sqBase
  | 0x08 => u.cqBase
  | 0x10 => packW [(0, u.sqLog2 % 16), (4, u.cqLog2 % 16), (8, u.vector % 64), (14, bit u.enable)]
  | _ => 0

/-- The load and commit registers (R201). The command bits START, END, ABORT, COMMIT and GO read 0: the spec says that writing 1 sets
them, and not when they clear; the model acts at once and never holds one (DESIGN CHOICE, log entry 69). COMMIT_STATUS shows EPOCH and
FLUSHED of a partition that the port owns only (R256). -/
def State.readLoader (s : State) (h o : Nat) : W64 :=
  let l := (s.port h).loader
  match o with
  | 0x20 => packW [(0, l.ctlPart % 64)]
  | 0x28 => packW [(0, l.deadline % 2 ^ 32)]
  | 0x30 => packW [(0, l.state % 8), (3, bit l.overrun), (8, l.reason % 256), (16, l.frame % 2 ^ 32)]
  | 0x38 => packW [(1, bit l.flush), (8, l.drainUs % 2 ^ 24)]
  | _ =>
    let mine := s.owns h l.ctlPart
    packW [(0, if mine then (s.part l.ctlPart).epoch % 16 else 0), (4, bit l.committed), (5, bit l.noStaged), (8, l.commitReason % 256),
      (32, if mine then (s.part l.ctlPart).flushed % 2 ^ 32 else 0)]

/-- An aligned 8-byte word of the register BAR; before READY it reads 0 (R241). -/
def State.readReg (s : State) (h o : Nat) : W64 :=
  let t := s.port h
  if !s.acts h then 0
  else if o == 0x00 then packW [(0, 0x1200), (16, s.mgs.stepping % 16), (20, h % 32)]
  else if o == 0x08 then
    packW [(0, bit t.ready), (1, t.speed % 8), (4, t.width % 32), (9, bit t.flit),
      (10, bit ((SMap.look Ide.reset t.ide 0).state == 1)), (11, bit (!s.fw.pending.isEmpty))]
  else if o == 0x10 then packW [(0, t.pcSa % 2048), (11, t.pcClass % 4), (13, bit t.pcConf), (17, t.pcPart % 64), (24, t.pcResult % 256)]
  else if o == 0x18 then packW [(0, t.started % 2 ^ 32), (32, t.completed % 2 ^ 32)]
  else if 0x20 ≤ o && o ≤ 0x40 then s.readLoader h o
  else if o == 0x48 then packW [(0, t.unmapped % 65536), (16, t.notOwned % 65536), (32, t.misaligned % 65536), (48, t.dbDropped % 65536)]
  else if 0x100 ≤ o && o < 0x300 then SMap.look 0 t.winMap ((o - 0x100) / 8)
  else if 0x1000 ≤ o && o < 0x1100 then (s.queue h ((o - 0x1000) / 32)).read ((o - 0x1000) % 32)
  else if 0x2000 ≤ o && o < 0x2400 then
    let k := (o - 0x2000) / 8
    let v := SMap.look 0 t.msix k
    if k % 2 == 0 then v else v ||| (if t.unmask.getLsbD (k / 2) then (0 : W64) else 0x100000000)
  else if o == 0x3000 then t.pba
  else if 0x100000 ≤ o && o < 0x500000 then s.readPage h ((o - 0x100000) / 0x10000) (o % 0x10000)
  else 0

/-- A read of `n` bytes of the register BAR (R243): an aligned word, or either half of one. None completes: of a lost port (R240), on an
Insecure stream (R253), while the station switches its firmware (R327), or of another size or alignment, for which the spec gives no answer. -/
def State.readBar (s : State) (h o n : Nat) : Option (List Byte) :=
  if (s.port h).lost || (s.port h).drops none || s.switching 4 h then none
  else if n == 8 && o % 8 == 0 then some (leBytes 8 (s.readReg h o).toNat)
  else if n == 4 && o % 4 == 0 then some (((leBytes 8 (s.readReg h (o / 8 * 8)).toNat).drop (o % 8)).take 4)
  else none

end Sys2Proof.Machine
end

