-- ==== Sys2Proof/Machine/Spdm.lean ====
section
/-!
DEFINITION. What a port answers over DOE and MCTP control messages: SPDM sessions, measurements, host keys, IDE key management
(R253-R255, R258-R261, R265, R266, R270). Responses hold what the standards' messages carry, under the request's name (log entry 21).
-/
namespace Sys2Proof.Machine

/-- The port's configuration space and message endpoint answer (R240, R241); not while its Link stream is Insecure (R253). -/
def State.linked (s : State) (h : Nat) : Bool :=
  s.mgs.phase == .released && (s.port h).linkUp && !(s.port h).lost && !(s.port h).drops none

/-- An answer of a port that answers; otherwise nothing happens. -/
def State.answer (s : State) (h : Nat) (t : State) : State := if s.linked h then t else s

def State.say (s : State) (h : Nat) (name : String) (data : List Byte) : State := s.emit (.spdm h name data)

/-- The SPDM error response, with its code (log entry 33). -/
def State.sayError (s : State) (h code : Nat) : State := s.say h "ERROR" (leBytes 1 code)

/-! ## The random bit generator (R270) -/

/-- Requests that the generator serves between two reseeds. -/
def reseedLimit : Nat := 2 ^ 20

/-- A request of the generator: with a source in service it reseeds at the limit; with none it serves up to the limit, then refuses. -/
def Mgs.drbgServe (m : Mgs) : Option Mgs :=
  if m.drbg < reseedLimit then some { m with drbg := m.drbg + 1 }
  else if m.entropy.isEmpty then none else some { m with drbg := 1 }

/-! ## Discovery, capabilities, certificates (R254, R260) -/

/-- DOE Discovery: the protocols served, by index, and the next index (log entry 33). -/
def doeProtocols : List Nat := [0, 1, 2]

def execDoeDiscovery (port index : Nat) (s : State) : Answer :=
  guardUnit (portOk port)
    (s.answer port (s.say port "DOE_DISCOVERY"
      (if doeProtocols.contains index then leBytes 2 1 ++ leBytes 1 index ++ leBytes 1 ((index + 1) % 3) else leBytes 2 0xFFFF ++ leBytes 2 0)))

/-- Version 1.3 alone. -/
def execGetVersion (port : Nat) (s : State) : Answer :=
  guardUnit (portOk port) (s.answer port (s.say port "VERSION" [0x13]))

/-- Certificates, challenge, signed measurements, encryption and authentication, key exchange, heartbeat and key update; no mutual
authentication, PSK or chunking (log entry 33); objects of at most 4,096 B. -/
def execGetCapabilities (port : Nat) (s : State) : Answer :=
  guardUnit (portOk port) (s.answer port (s.say port "CAPABILITIES" (leBytes 4 0x62D6 ++ leBytes 4 4096)))

/-- ECDSA P-384, SHA-384, ECDHE secp384r1, AES-256-GCM (log entry 33). -/
def execNegotiateAlgorithms (port : Nat) (s : State) : Answer :=
  guardUnit (portOk port) (s.answer port (s.say port "ALGORITHMS" [0x80, 0x02, 0x10, 0x02]))

/-- The alias private key of this power-up, from CDI (R258 step 3). -/
def Mgs.aliasKey (m : Mgs) : Nat := scalarOf (kdf m.cdi (ascii "ALIAS") [] 48)

/-- An ECDSA signature over SHA-384 of what is said. -/
def signWith (key : Nat) (said : List Byte) : List Byte := ecdsaSign key (Config.signNonce (sha384 said)) (sha384 said)

/-- The alias certificate for a first-stage measurement, signed with DIK (R258 step 4, R260). -/
def Mgs.certify (m : Mgs) (measurement : List Byte) : List Byte :=
  let body := Config.aliasBody (publicOf m.aliasKey) measurement
  Config.signedCert body (signWith Config.dik body)

/-- The chain of slot 0: root, product CA, device identity with the DIK public key and serial number, alias (R260). -/
def State.certChain (s : State) : List Byte :=
  Config.rootCert ++ Config.caCert ++ Config.identityCert (publicOf Config.dik) Config.serial ++ s.mgs.aliasCert

/-- The alias key's signature (R260). -/
def State.sign (s : State) (said : List Byte) : List Byte := signWith s.mgs.aliasKey said

/-- Slot 0 alone: the digest of its chain. -/
def execGetDigests (port : Nat) (s : State) : Answer :=
  guardUnit (portOk port) (s.answer port (s.say port "DIGESTS" (0x01 :: sha384 s.certChain)))

/-- Bytes of the chain that one object of 4,096 B can carry after its headers. -/
def certPortion : Nat := 4080

def execGetCertificate (port offset len : Nat) (s : State) : Answer :=
  guardUnit (portOk port)
    (s.answer port
      (if s.certChain.length < offset then s.sayError port 1
       else
        let rest := s.certChain.drop offset
        let part := rest.take (min len certPortion)
        s.say port "CERTIFICATE" (leBytes 2 part.length ++ leBytes 2 (rest.length - part.length) ++ part)))

/-- CHALLENGE: signed with the alias key over both nonces. -/
def execChallenge (port : Nat) (nonce : List Byte) (s : State) : Answer :=
  guardUnit (portOk port)
    (s.answer port
      (let mine := Config.random s.draws
       let said := sha384 s.certChain ++ mine
       s.draw.say port "CHALLENGE_AUTH" (said ++ s.sign (nonce ++ said))))

/-! ## Measurements (R265, R266) -/

/-- The element number of MGS among the elements that run firmware; stations have theirs in the numbering of R228. -/
def mgsElement : Nat := 80

/-- How often the content of an image's slot has been written: the golden image never is. -/
def Fw.version (f : Fw) (image : Nat) : Nat := match image with
  | 0 => f.verA
  | 1 => f.verB
  | _ => 0

/-- An image with the content of its slot: what a station that runs it holds in `image`. -/
def Fw.code (f : Fw) (i : Nat) : Nat := i + 4 * f.version i

/-- Image that a station runs, with its content; the last one is MGS. -/
def State.imageOf (s : State) (st : Nat) : Nat :=
  if st < 40 then (s.mem st).image else if st < 48 then (s.flash (st - 40)).image
  else if st < 80 then (s.port (st - 48)).image else s.fw.mgsImage

/-- Image (2 bits), SVN (7 bits) and digest of one station: its 393 bits of index 2 (log entry 18). -/
def State.fwRecord (s : State) (st : Nat) : Nat :=
  let i := s.imageOf st
  i % 4 + 4 * (Config.fwSvn (i % 4) (i / 4) % 128) + 512 * leNat (Config.fwDigest st (i % 4) (i / 4))

/-- Index 2: the records of the 81 stations, then the flag of a debug session (R269). -/
def State.fwStream (s : State) : List Byte :=
  leBytes 3980 (((List.range 81).map fun st => s.fwRecord st * 2 ^ (393 * st)).foldl (· + ·) 0 + bit (s.mgs.debugSessions != 0) * 2 ^ 31833)

/-- The repair map in effect (R318): sites of moved arrays, sites out of service, mapped-out cores, scratchpad rows, router lanes and
stack rows (log entry 18). Burning entries into fuses does not change it. -/
def State.repairMap (s : State) : List Byte :=
  let list := fun (tag : Nat) (l : List (List Nat)) => leBytes 1 tag ++ leBytes 4 l.length ++ l.flatMap fun r => r.flatMap (leBytes 8)
  list 0 (s.mgs.saSite.map fun e => [e.1, e.2]) ++ list 1 (s.mgs.deadSites.map fun n => [n])
    ++ list 2 (s.arrays.flatMap fun a => a.2.outAll.map fun c => [a.1, c])
    ++ list 3 (s.arrays.flatMap fun a => a.2.remap.map fun e => [a.1, e.1, e.2])
    ++ list 4 (s.routers.flatMap fun r => r.2.spared.map fun k => [r.1, k])
    ++ list 5 (s.ms.flatMap fun m => m.2.rowsRepaired.map fun r => [m.1, r])
    ++ list 6 (s.ms.flatMap fun m => m.2.lanesRepaired.map fun k => [m.1, k])

/-- SVN_MIN: the number of fuse bits blown (R257). -/
def Fw.svnMin (f : Fw) : Nat := ((List.range 64).filter f.svnFuse.getLsbD).length

/-- Index 4: the two debug fuses, SVN_MIN as its thermometer code, OPTIONS (log entry 18). -/
def State.fuseOptions (s : State) : List Byte :=
  leBytes 1 (bit s.mgs.debugLock) ++ leBytes 1 (bit s.mgs.maintDebug) ++ leBytes 8 s.fw.svnFuse.toNat
    ++ leBytes 6 (if s.mgs.safeDefaults then Config.safeOptions else Config.options)

/-- The bit set of a list of numbers, in `n` bytes. -/
def bitSet (n : Nat) (l : List Nat) : List Byte := leBytes n (l.eraseDups.foldl (fun v i => v + 2 ^ i) 0)

/-- Stations MSi that hold a share of a region. -/
def Part.shareStations (q : Part) : List Nat := (List.range 40).filter fun st => q.usesStation st

/-- The partition manifest (R266), 288 bytes. -/
def State.manifest (s : State) (p : Nat) : List Byte :=
  let q := s.part p
  let flags := bit q.conf + 2 * bit q.set.strict + 4 * (q.set.trap % 4) + 16 * bit q.set.scanEn
  leBytes 1 p ++ leBytes 1 q.cls ++ leBytes 2 q.saCount ++ leBytes 1 q.state.num ++ leBytes 1 flags ++ leBytes 1 q.epoch ++ leBytes 1 0
    ++ leBytes 4 q.commits ++ leBytes 4 q.fwChanges
    ++ q.chain ++ (if q.conf then q.hostKey else List.replicate 48 0)
    ++ bitSet 8 (s.bedsOf q.sas) ++ bitSet 8 q.shareStations ++ bitSet 150 q.sas ++ leBytes 10 0

/-- A measurement of the port by index: none where the index is absent. -/
def State.measure (s : State) (h i : Nat) : Option (List Byte) :=
  match i with
  | 1 => some (Config.fwDigest mgsElement s.fw.first s.fw.firstVer)
  | 2 => some s.fwStream
  | 3 => some (Config.fwDigest (48 + h) ((s.port h).image % 4) ((s.port h).image / 4))
  | 4 => some s.fuseOptions
  | 5 => some (sha384 s.repairMap)
  | _ => if 0x40 ≤ i && i < 0x80 && s.owns h (i - 0x40) then some (s.manifest (i - 0x40)) else none

/-- The measurement indices of a port. -/
def State.indices (s : State) (h : Nat) : List Nat := (List.range 0x80).filter fun i => (s.measure h i).isSome

/-- GET_MEASUREMENTS: index 0 asks for the number of indices, 0xFF for all (log entry 33). -/
def State.measurements (s : State) (h i : Nat) : Option (List Byte) :=
  if i == 0 then some (leBytes 1 (s.indices h).length)
  else if i == 0xFF then some ((s.indices h).flatMap fun k => (s.measure h k).getD [])
  else s.measure h i

/-- The largest DOE object (R254), and the bytes of a MEASUREMENTS object beside measurement and signature (log entry 33). A longer response
to a request for all indices is refused: chunking is not supported. One index is always answered, and signed when asked (R265; log
entry 33). -/
def doeLimit : Nat := 4096
def measureHeaders : Nat := 65

def execGetMeasurements (port index : Nat) (sign : Bool) (nonce : List Byte) (s : State) : Answer :=
  guardUnit (portOk port)
    (s.answer port
      (match s.measurements port index with
       | none => s.sayError port 1
       | some m =>
         let said := m ++ if sign then s.sign (nonce ++ m) else []
         if index == 0xFF && decide (doeLimit < said.length + measureHeaders) then s.sayError port 0x0D else s.say port "MEASUREMENTS" said))

/-! ## Sessions (R254, R261) -/

def State.spdm (s : State) (h k : Nat) : Spdm := SMap.look Spdm.reset (s.port h).spdm k
def State.setSpdm (s : State) (h k : Nat) (x : Spdm) : State :=
  s.setPort h { s.port h with spdm := SMap.put Spdm.reset (s.port h).spdm k x }

/-- The lowest session number free of four. -/
def State.freeSpdm (s : State) (h : Nat) : Option Nat := (List.range 4).find? fun k => (s.spdm h k).stage == 0

/-- KEY_EXCHANGE opens a handshake. -/
def State.exchange (s : State) (h : Nat) : State :=
  match s.freeSpdm h, s.mgs.drbgServe with
  | none, _ => s.sayError h 0x0A
  | _, none => s.sayError h 5
  | some k, some m =>
    let said := leBytes 1 k ++ Config.random s.draws ++ publicOf (scalarOf (Config.random (s.draws + 1)))
    ((({ s with mgs := m }).setSpdm h k ⟨1, none, [], 0⟩).draw.draw).say h "KEY_EXCHANGE_RSP" (said ++ s.sign said)

def execKeyExchange (port : Nat) (s : State) : Answer := guardUnit (portOk port) (s.answer port (s.exchange port))

/-- An IDE stream whose session has ended is Insecure, without keys (log entry 33). -/
def Ide.orphan (k : Nat) (e : Ide) : Ide := if e.session == k && e.state != 0 then ⟨2, 0, [], 4⟩ else if e.session == k then Ide.reset else e

/-- A session ends. -/
def State.endSpdm (s : State) (h k : Nat) : State :=
  let s1 := s.setSpdm h k Spdm.reset
  s1.setPort h { s1.port h with ide := SMap.mapV Ide.reset (fun _ e => e.orphan k) (s1.port h).ide }

/-- A message of a session in a stage; outside it the responder answers with an error. -/
def State.inStage (s : State) (h k stage : Nat) (t : State) : State :=
  s.answer h (if decide (k < 4) && (s.spdm h k).stage == stage then t else s.sayError h 4)

/-- FINISH: a handshake whose verification fails ends. -/
def execFinish (port sess : Nat) (ok : Bool) (s : State) : Answer :=
  guardUnit (portOk port)
    (s.inStage port sess 1
      (if ok then (s.setSpdm port sess ⟨2, none, [], 0⟩).say port "FINISH_RSP" [] else (s.endSpdm port sess).sayError port 6))

def execKeyUpdate (port sess : Nat) (s : State) : Answer :=
  guardUnit (portOk port)
    (s.inStage port sess 2
      ((s.setSpdm port sess { s.spdm port sess with updates := (s.spdm port sess).updates + 1 }).say port "KEY_UPDATE_ACK" []))

def execHeartbeat (port sess : Nat) (s : State) : Answer :=
  guardUnit (portOk port) (s.inStage port sess 2 (s.say port "HEARTBEAT_ACK" []))

def execEndSession (port sess : Nat) (s : State) : Answer :=
  guardUnit (portOk port) (s.inStage port sess 2 ((s.endSpdm port sess).say port "END_SESSION_ACK" []))

/-- HOST_KEY: the session's host key is SHA-384 of the public key; a failed verification ends the session. -/
def execHostKey (port sess : Nat) (key : List Byte) (sigOk : Bool) (s : State) : Answer :=
  guardUnit (portOk port)
    (s.inStage port sess 2
      (if sigOk then (s.setSpdm port sess { s.spdm port sess with hostKey := some (sha384 key), hostPub := key }).say port "HOST_KEY" []
       else (s.endSpdm port sess).sayError port 6))

/-! ## IDE key management (R253) -/

def State.stream (s : State) (h k : Nat) : Ide := SMap.look Ide.reset (s.port h).ide k
def State.setStream (s : State) (h k : Nat) (e : Ide) : State :=
  s.setPort h { s.port h with ide := SMap.put Ide.reset (s.port h).ide k e }

/-- QUERY: one Link stream, eight Selective streams. -/
def execQuery (port sess : Nat) (s : State) : Answer :=
  guardUnit (portOk port) (s.inStage port sess 2 (s.say port "QUERY_RESP" [1, 8]))

/-- May session `k` set the keys of a stream: those of another open session it may not (log entry 33). -/
def State.streamFree (s : State) (h k stream : Nat) : Bool :=
  let e := s.stream h stream
  e.progd.isEmpty || e.session == k || (s.spdm h e.session).stage != 2

/-- KEY_PROG. -/
def State.program (s : State) (h k stream set : Nat) : State :=
  let e := s.stream h stream
  if 2 ≤ set || !s.streamFree h k stream then s.sayError h 1
  else match s.mgs.drbgServe with
    | none => s.sayError h 5
    | some m =>
      let old := if e.session == k then e.progd else []
      (({ s with mgs := m }).setStream h stream { e with progd := (old ++ [set]).eraseDups, session := k }).say h "KP_ACK" []

def execKeyProg (port sess stream set : Nat) (s : State) : Answer :=
  guardUnit (portOk port && decide (stream < 9)) (s.inStage port sess 2 (s.program port sess stream set))

/-- K_SET_GO: a key set that the session has programmed becomes the stream's. -/
def State.keySetGo (s : State) (h k stream set : Nat) : State :=
  let e := s.stream h stream
  if e.session == k && e.progd.contains set then
    (s.setStream h stream { e with state := 1, keySet := set }).say h "K_GOSTOP_ACK" []
  else s.sayError h 1

def execKSetGo (port sess stream set : Nat) (s : State) : Answer :=
  guardUnit (portOk port && decide (stream < 9)) (s.inStage port sess 2 (s.keySetGo port sess stream set))

/-- K_SET_STOP: the key set is no longer used; a stream whose set it was is idle. -/
def State.keySetStop (s : State) (h k stream set : Nat) : State :=
  let e := s.stream h stream
  if e.session == k && e.progd.contains set then
    (s.setStream h stream { e with state := if e.keySet == set then 0 else e.state, progd := e.progd.filter (· != set) }).say h
      "K_GOSTOP_ACK" []
  else s.sayError h 1

def execKSetStop (port sess stream set : Nat) (s : State) : Answer :=
  guardUnit (portOk port && decide (stream < 9)) (s.inStage port sess 2 (s.keySetStop port sess stream set))

/-! ## MCTP control (R255) -/

/-- A control message; one that is not from the port's root port is dropped. -/
def State.control (s : State) (h : Nat) (fromRoot : Bool) (t : State) : State := if fromRoot then s.answer h t else s

def State.tell (s : State) (h : Nat) (name : String) (data : List Byte) : State := s.emit (.mctp h name data)

/-- Set Endpoint ID: accepted, and no dynamic pool. The two reserved numbers are refused (log entry 33). -/
def execSetEndpointId (port eid : Nat) (fromRoot : Bool) (s : State) : Answer :=
  guardUnit (portOk port)
    (s.control port fromRoot
      (let e := eid % 256
       if e == 0 || e == 255 then s.tell port "SET_ENDPOINT_ID" [2]
       else (s.setPort port { s.port port with eid := e }).tell port "SET_ENDPOINT_ID" ([0, 0] ++ leBytes 1 e ++ [0])))

def execGetEndpointId (port : Nat) (fromRoot : Bool) (s : State) : Answer :=
  guardUnit (portOk port)
    (s.control port fromRoot (s.tell port "GET_ENDPOINT_ID" ([0] ++ leBytes 1 (s.port port).eid ++ [0, 0])))

def execGetEndpointUuid (port : Nat) (fromRoot : Bool) (s : State) : Answer :=
  guardUnit (portOk port) (s.control port fromRoot (s.tell port "GET_ENDPOINT_UUID" (0 :: Config.uuid)))

def execGetMctpVersionSupport (port : Nat) (fromRoot : Bool) (s : State) : Answer :=
  guardUnit (portOk port) (s.control port fromRoot (s.tell port "GET_MCTP_VERSION_SUPPORT" (0 :: Config.mctpVersions)))

/-- Two types: control and vendor-defined PCI. -/
def execGetMessageTypeSupport (port : Nat) (fromRoot : Bool) (s : State) : Answer :=
  guardUnit (portOk port) (s.control port fromRoot (s.tell port "GET_MESSAGE_TYPE_SUPPORT" [0, 2, 0x00, 0x7E]))

def execGetVendorDefinedMessageSupport (port : Nat) (fromRoot : Bool) (s : State) : Answer :=
  guardUnit (portOk port)
    (s.control port fromRoot (s.tell port "GET_VENDOR_DEFINED_MESSAGE_SUPPORT" ([0, 0xFF, 0x00] ++ Config.vendorId)))

end Sys2Proof.Machine
end

