-- ==== Sys2Proof/Machine/Capacity.lean ====
section
/-!
DEFINITION. What the device computes from its state for its reports: power cap and temperature, capacity, the no-stop promise, free
resources (R136, R166, R191, R295, R304, R306, R307, R316, R321, R323, R328, R329, R333).
-/
namespace Sys2Proof.Machine

/-! ## Power and heat (R295, R304, R306, R307, R316) -/

/-- The feed cap: 21 kW with one feed; without any nothing draws power. -/
def Mgs.feedCap (m : Mgs) (limit : Nat) : Nat := match m.feeds.length with
  | 0 => 0
  | 1 => 21000
  | _ => limit

/-- The coolant cap: 46 kW x flow / 48 L/min, less 4 % for every 1 °C of inlet above 35 °C, in proportion (log entry 34). -/
def Mgs.coolCap (m : Mgs) : Nat := 46000 * m.coolFlow * (1000 - 4 * (m.coolIn - 350).toNat) / 480000

/-- POWER_CAP. -/
def State.powerCap (s : State) : Nat := min s.tune.powerLimit (min (s.mgs.feedCap s.tune.powerLimit) s.mgs.coolCap)

/-- Sensors of a bed that pass their cross-check. -/
def Bed.passing (b : Bed) : List Nat := (List.range 4).filter fun i => b.excluded.all fun e => e.1 != i

/-- BED_TEMP in 0.1 °C: the highest passing reading; with none the highest reading. -/
def Bed.temp (b : Bed) : Int :=
  let rs := (if b.passing.isEmpty then List.range 4 else b.passing).map fun i => nth 0 b.sensors i
  rs.foldl max (nth 0 rs 0)

/-- The clock that an AWAKE bed moves towards; 0.4 GHz in DRAINING and on one feed (R295, R302, R304). -/
def State.targetClock (s : State) (b : Nat) : Nat :=
  let d := s.bed b
  if d.state == .draining || s.mgs.feeds.length ≤ 1 then 400 else min d.fmax (min d.thermal s.mgs.ceiling)

/-! ## The trellis clock (R300) -/

def cornerBed (b : Nat) : Bool := [0, 5, 30, 35].contains b

/-- Hops of every bed's spine to an injection point; 99 where there is no way. -/
def State.spineHops (s : State) : List Nat :=
  let live := fun b => (s.bed b).state != .failedTransit
  let start := (List.range 36).map fun b => if live b && cornerBed b then 0 else 99
  (List.range 36).foldl (fun l _ => (List.range 36).map fun b =>
    if live b then minOf (nth 99 l b) (((List.range 36).filter (bedsTouch b)).map fun n => min 99 (nth 99 l n + 1)) else 99) start

/-- The source of a spine: its injection point, or the live neighbour with the fewest hops, the lower number on a tie. -/
def spineOf (hops : List Nat) (b : Nat) : Option Nat :=
  if nth 99 hops b == 99 then none
  else if cornerBed b then some b
  else
    let near := (List.range 36).filter (bedsTouch b)
    near.find? fun n => nth 99 hops n < 99 && near.all fun m => nth 99 hops n ≤ nth 99 hops m

/-- Spines take their next choice. -/
def State.respine (s : State) : State :=
  let hops := s.spineHops
  (List.range 36).foldl (fun s b => s.setBed b { s.bed b with spine := spineOf hops b }) s

/-! ## The repair map (R318) -/

/-- Every repair in effect. -/
def State.repairs (s : State) : List Repair :=
  (s.mgs.saSite.map fun e => .move e.1 e.2) ++ (s.mgs.deadSites.map .out)
    ++ (s.arrays.flatMap fun a => (a.2.outAll.map (.core a.1)) ++ a.2.remap.map fun e => .row a.1 e.1 e.2)
    ++ (s.routers.flatMap fun r => r.2.spared.map (.lane r.1))
    ++ s.ms.flatMap fun m => (m.2.lanesRepaired.map (.stackLane m.1)) ++ m.2.rowsRepaired.map (.stackRow m.1)

/-- Both copies of the map are bad: what the fuses do not hold is lost (R318). -/
def State.forgetSoft (s : State) : State :=
  let m := s.mgs
  let keep := fun r => m.fused.contains r
  { s with
    mgs := { m with saSite := m.saSite.filter fun e => keep (.move e.1 e.2), deadSites := m.deadSites.filter fun n => keep (.out n)
                    softEntries := 0 }
    arrays := SMap.mapV Arr.reset (fun n a => { a with mappedOut := a.mappedOut.filter fun c => keep (.core n c)
                                                       mapNext := a.mapNext.filter fun c => keep (.core n c)
                                                       remap := a.remap.filter fun e => keep (.row n e.1 e.2) }) s.arrays
    routers := SMap.mapV Router.reset (fun n r => { r with spared := r.spared.filter fun k => keep (.lane n k) }) s.routers
    ms := SMap.mapV Ms.reset (fun n m => { m with lanesRepaired := m.lanesRepaired.filter fun k => keep (.stackLane n k)
                                                  rowsRepaired := m.rowsRepaired.filter fun k => keep (.stackRow n k) }) s.ms }

/-! ## Capacity (R329) -/

def State.sasInService (s : State) : List Nat := (List.range 1200).filter s.saInService
def State.msServing (s : State) : List Nat := (List.range 40).filter fun i => (s.mem i).state != 2
def State.fsServing (s : State) : List Nat := (List.range 8).filter fun i => (s.flash i).state != 2
def State.hsServing (s : State) : List Nat := (List.range 32).filter fun i => !(s.port i).lost

/-- Pool of one station in MiB. -/
def poolMib : Nat := 58368

/-- Free pool of a station in MiB: ranges whose zero-write has finished (R215). -/
def Ms.poolFree (m : Ms) : Nat :=
  (poolMib * 1048576 - ((m.ranges ++ m.zeroing).map Range.size).foldl (· + ·) 0) / 1048576

/-- SA_SITES: 0xFFFF for a number that no site in service holds. -/
def State.saSites (s : State) : List Byte :=
  (List.range 1200).flatMap fun n => leBytes 2 (if s.saInService n then s.siteOf n else 0xFFFF)

/-! ## Free resources (R136, R166, R191, R238) -/

/-- Free skein entries and reduction slots of a router. -/
def State.routeFree (s : State) (site : Nat) : Nat :=
  240 - ((s.router site).entries.filter fun e => entValid e.2 && decide (e.1 < 240)).length
def State.redFree (s : State) (site : Nat) : Nat := 16 - ((s.router site).red.filter fun e => redValid e.2).length

/-- The tightest router: its free entries and its site, the lowest on a tie. -/
def State.tightest (s : State) : Nat × Nat :=
  (List.range 1296).foldl (fun m n => if s.routeFree n < m.1 then (s.routeFree n, n) else m) (s.routeFree 0, 0)

/-- Unreserved staging slots and pending entries of a station (R178, R191). -/
def State.slotsFree (s : State) : Nat := 104857 - (s.parts.map fun q => q.2.slotQuota).foldl (· + ·) 0
def State.pendsFree (s : State) : Nat := 6553 - (s.parts.map fun q => q.2.pendQuota).foldl (· + ·) 0

/-- Class-0 slots reserved at a station. -/
def State.class0Slots (s : State) (st : Nat) : Nat := ((List.range 64).map fun p => s.reserved p st).foldl (· + ·) 0

/-- SA_FREE: arrays in service in no partition and in no class-0 bed. -/
def State.saFree (s : State) : Nat :=
  let held := s.class0Beds
  ((List.range 1200).filter fun n => s.saInService n && (s.arr n).part.isNone && !held.contains (s.bedOfArr n)).length

def State.partsInUse (s : State) : List Nat := (List.range 64).filter fun p => (s.part p).state != .none

/-! ## Idle arrays (R321) -/

/-- CHECK_OLDEST in seconds: the longest time any idle array has gone without a check. -/
def State.checkOldest (s : State) : Nat :=
  maxOf (s.idleArrays.map fun n => (s.mgs.tick - (s.arr n).lastCheck) / 25000000)

end Sys2Proof.Machine
end

