-- ==== Sys2Proof/Machine/Dictionary.lean ====
section
/-!
DEFINITION. The objects of the Gelokan dictionary: types, access, ranges, values and what a write does (R95, R108, R136, R166, R191,
R216, R238, R257-R271, R281-R293, R298, R310-R311, R314-R315, R318, R323, R327, R329, R339).
-/
namespace Sys2Proof.Machine

/-! ## Sessions and segments -/

/-- No session (role 0). -/
def Sess.reset : Sess :=
  { seg := 0, role := 0, opened := false, hi := 0, window := 0, recent := [], unsent := [], xfer := none, staged := [], stale := [], cursor := 0,
    gen := 0, peer := [], rqKey := [], rsKey := [], bodies := [] }

def State.sess (s : State) (k : Nat) : Sess := SMap.look Sess.reset s.gel.sessions k
def State.setSess (s : State) (k : Nat) (c : Sess) : State :=
  { s with gel := { s.gel with sessions := SMap.put Sess.reset s.gel.sessions k c } }

def State.seg (s : State) (n : Nat) : Seg := if n == 0 then s.gel.segA else s.gel.segB
def State.setSeg (s : State) (n : Nat) (g : Seg) : State :=
  { s with gel := if n == 0 then { s.gel with segA := g } else { s.gel with segB := g } }

/-- The event of a session opened, closed or refused: SESSION, the generation that it belongs to, and ROLE (R282, R293). -/
def State.sessEvent (s : State) (k role gen : Nat) : State := s.event 0x0602 0x0800 noPart (k % 2 ^ 32 + 2 ^ 32 * gen + 2 ^ 48 * role)

/-- A session is closed, with its staged records and transfer (R281). -/
def State.closeSess (s : State) (k : Nat) : State :=
  if (s.sess k).role == 0 then s else (s.setSess k Sess.reset).sessEvent k (s.sess k).role (s.sess k).gen

def State.closeAll (s : State) : List Nat → State
  | [] => s
  | k :: ks => (s.closeSess k).closeAll ks

/-- Numbers of the sessions that a test selects. -/
def State.sessionsIn (s : State) (sel : Sess → Bool) : List Nat := (s.gel.sessions.filter fun c => sel c.2).map (·.1)

/-- The identifier to issue: SESS_NEXT, or the next one that no session of the generation before still uses (log entry 36). -/
def State.nextSession (s : State) : Nat :=
  ((List.range 17).map (s.gel.sessNext + ·)).find? (fun k => (s.sess k).role == 0) |>.getD s.gel.sessNext

def unset (d : List Byte) : Bool := d.all (· == 0)

/-! ## Types and access (R287, R288) -/

/-- Access of an object. -/
inductive Access where
  | const
  | ro
  | wo
  | rw
  | rwm
  deriving DecidableEq, Repr

/-- Size of a type of fixed size; none for VSTRING, OSTRING and DOMAIN. -/
def tySize (ty : Nat) : Option Nat := match ty with
  | 0x01 => some 1
  | 0x02 => some 1
  | 0x03 => some 2
  | 0x04 => some 4
  | 0x05 => some 8
  | 0x06 => some 1
  | 0x07 => some 2
  | 0x08 => some 4
  | 0x09 => some 8
  | 0x0A => some 4
  | _ => none

/-- Types whose values are signed. -/
def tySigned (ty : Nat) : Bool := [0x06, 0x07, 0x08, 0x09].contains ty

/-- An object: type, access, value, range of values, greatest length and whether the length is fixed. -/
structure Obj where
  ty : Nat
  acc : Access
  val : List Byte
  lo : Int
  hi : Int
  len : Nat
  fixed : Bool
  deriving DecidableEq, Repr

/-- A number as bytes, and bytes as a number of a type. -/
def intBytes (n : Nat) (v : Int) : List Byte := leBytes n (v % 2 ^ (8 * n)).toNat
def intOf (ty : Nat) (d : List Byte) : Int :=
  let n := leNat d
  if tySigned ty && decide (2 ^ (8 * d.length) ≤ 2 * n) then (n : Int) - 2 ^ (8 * d.length) else n

/-- An object of a type of fixed size, with a range. -/
def objR (ty : Nat) (acc : Access) (v lo hi : Int) : Obj :=
  let n := (tySize ty).getD 0
  ⟨ty, acc, intBytes n v, lo, hi, n, true⟩

/-- With the whole range of its type. -/
def obj (ty : Nat) (acc : Access) (v : Int) : Obj :=
  let n := 8 * (tySize ty).getD 0
  if ty == 1 then objR ty acc v 0 1
  else if tySigned ty then objR ty acc v (-2 ^ (n - 1)) (2 ^ (n - 1) - 1) else objR ty acc v 0 (2 ^ n - 1)

/-- A string or domain of at most, or exactly, `len` bytes. -/
def objB (ty : Nat) (acc : Access) (v : List Byte) (len : Nat) (fixed : Bool) : Obj := ⟨ty, acc, v, 0, 0, len, fixed⟩

def bool (acc : Access) (b : Bool) : Obj := obj 1 acc (bit b)
def u8 (acc : Access) (v : Nat) : Obj := obj 2 acc v
def u16 (acc : Access) (v : Nat) : Obj := obj 3 acc v
def u32 (acc : Access) (v : Nat) : Obj := obj 4 acc v

/-! ## The tables -/

/-- 0x1000 (R292). -/
def State.identity (s : State) : List (Nat × Obj) :=
  [(1, u32 .const 0x1200), (2, u8 .const s.mgs.stepping), (3, objB 0x0B .const Config.serial 12 true),
   (4, objB 0x0B .const (ascii "Svetmi Microsystems") 19 true),
   (5, u8 .ro (if s.mgs.phase == .held then 1 else if s.fw.pending.isEmpty then 0 else 2)),
   (6, objB 0x0B .ro (Config.fwVersion s.fw.first s.fw.firstVer) 24 false)]

/-- MAC address of a segment: B's is A's plus 1 (R292). -/
def macOf (n : Nat) : List Byte := beBytes 6 (beNat Config.macA + n)

/-- 0x1100, 0x1101 (R292, R339). -/
def State.segConfig (s : State) (n : Nat) : List (Nat × Obj) :=
  let g := s.seg n
  [(1, objB 0x0C .const (macOf n) 6 true), (2, objR 2 .rw g.node 0 254), (3, objR 2 .rw g.count 1 255),
   (4, objR 2 .rw g.toTimer 16 255), (5, objR 2 .rw g.maxBurst 0 7), (6, bool .rw g.plcaEn), (7, objR 3 .rw g.plcaLoss 5 1000),
   (8, bool .rw g.term)]

/-- 0x1110, 0x1111 (R292): counters that describe sessions count both segments. -/
def State.segStatus (s : State) (n : Nat) : List (Nat × Obj) :=
  let g := s.seg n
  [(1, u8 .ro g.mode), (2, u32 .ro g.fcsErr), (3, u32 .ro g.plcaColl), (4, u32 .ro g.csmaColl), (5, u32 .ro g.txDropped),
   (6, u32 .ro g.modeChanges), (7, u32 .ro s.gel.strangers), (8, u32 .ro s.gel.gmacFail), (9, u32 .ro s.gel.replays),
   (10, u32 .ro s.gel.openLimited), (11, u32 .ro g.malformed)]

/-- 0x1121 (R292). -/
def State.sessObjects (s : State) : List (Nat × Obj) :=
  let g := s.gel
  [(1, objR 3 .rw g.segTimeout 100 10000), (2, objR 3 .rw g.sessionIdle 10 3600), (3, u16 .ro g.sessGen), (4, u8 .rwm 0),
   (5, objB 0x0C .rwm g.operAuth 48 true), (6, u32 .ro (min s.nextSession 0xFFFFFFFF)), (7, u8 .ro (s.sessionsIn Sess.opened).length)]

/-- A measured value (R310, R311), by object, at the present tick. -/
def State.objReading (s : State) (i sub : Nat) : Nat := Config.reading (256 * i + sub) s.mgs.tick

/-- 0x2000-0x2003, 0x2010 (R310, R339). -/
def State.feedObjects (s : State) (i : Nat) : List (Nat × Obj) :=
  let m := s.mgs
  match i with
  | 0x2000 => [(1, objR 4 .rw s.tune.powerLimit 21000 46000), (2, u32 .ro m.powerNow), (3, u32 .ro s.powerCap), (4, u16 .ro m.ceiling)]
  | 0x2001 => [1, 2, 3].map (fun k => (k, u32 .ro (s.objReading i k))) ++ [4, 5, 6].map (fun k => (k, u16 .ro (s.objReading i k)))
      ++ [(7, u32 .ro s.tally.feedDrops)] ++ [8, 9].map fun k => (k, u32 .ro (s.objReading i k))
  | 0x2002 => [(1, u8 .ro (bit m.refA + 2 * bit m.refB + 4 * bit m.refBInUse + 8 * bit (!m.refA && !m.refB))), (2, u8 .ro m.tpll)]
  | 0x2003 => [(1, obj 7 .ro m.coolIn), (2, obj 7 .ro m.coolOut), (3, u16 .ro m.coolFlow), (4, bool .ro m.coolLeak), (5, bool .ro m.commission)]
  | 0x2010 => [(1, objR 7 .rw s.tune.throttleT 70 100), (2, objR 7 .rw s.tune.drainT (-32768) 108), (3, obj 7 .const 110),
      (4, objR 3 .rw s.tune.drainHold 10 1000), (6, objR 4 .rw s.tune.bedIdleSleep 10 3600000)]
  | _ => []

/-- BED_STATE's code (R302). -/
def BedState.code : BedState → Nat
  | .sleep => 0
  | .waking => 1
  | .awake => 2
  | .draining => 3
  | .offHeat => 4
  | .failedCore => 5
  | .failedTransit => 6

/-- 0x3000 + b (R311). -/
def State.bedObjects (s : State) (b : Nat) : List (Nat × Obj) :=
  let d := s.bed b
  [(1, u8 .ro d.state.code), (2, u16 .ro d.freq), (3, objR 3 .rw d.fmax 400 1100), (4, obj 7 .ro d.temp),
   (5, u16 .ro (s.objReading (0x3000 + b) 5)), (6, u16 .ro d.trips), (7, u8 .rwm 0),
   (8, u8 .ro ((List.range 1200).filter fun n => s.saInService n && s.bedOfArr n == b).length)]

/-- 0x3400, 0x3420, 0x3440 (R95, R136, R329). -/
def State.arrayObjects (s : State) (i : Nat) : List (Nat × Obj) :=
  match i with
  | 0x3400 =>
    let n := s.sasInService.length
    [(1, u16 .ro n), (2, u32 .ro (576 * n)), (3, u8 .ro s.msServing.length), (4, u8 .ro s.hsServing.length), (5, u8 .ro s.fsServing.length),
     (6, u8 .ro (s.bedsIn BedState.failed).length), (7, u32 .ro (poolMib * s.msServing.length)), (8, u8 .ro s.promise),
     (9, objB 0x0D .ro s.saSites 2400 true)]
  | 0x3420 => [(1, u16 .rw s.tune.scratchCeLimit), (2, u32 .rw s.tune.scratchCeWindow), (3, u32 .ro s.tally.scratchRowsMapped),
      (4, u32 .ro s.tally.scratchUe)]
  | 0x3440 =>
    [(1, u16 .ro (s.routers.filter fun r => r.2.dead).length), (2, u16 .ro ((s.routers.map fun r => r.2.deadDirs.length).foldl (· + ·) 0)),
     (3, u16 .ro s.tally.lanesSpared), (4, u16 .rw s.tune.laneCeLimit), (5, u32 .rw s.tune.laneCeWindow), (6, u8 .ro s.tightest.1),
     (7, u16 .ro s.tightest.2), (8, u8 .ro (minOf 16 ((List.range 1296).map s.redFree))), (9, u32 .ro s.tally.routeDrops)]
  | _ => []

/-- 0x4000, 0x4100 + i, 0x4140 + i, 0x4180 (R166, R191). -/
def State.stationObjects (s : State) (i : Nat) : List (Nat × Obj) :=
  if i == 0x4000 then
    [(1, u32 .rw s.tune.scrubPeriod), (2, u16 .rw s.tune.memRowCeLimit),
     (3, u32 .ro (minOf poolMib (s.msServing.map fun n => (s.mem n).poolFree))), (4, u32 .ro s.flashFree)]
  else if i == 0x4180 then
    [(1, u32 .ro s.slotsFree), (2, u16 .ro s.pendsFree), (3, u32 .ro s.tally.slotEvictions), (4, u32 .ro s.tally.pendFullWaits),
     (5, u32 .ro s.tally.digestMismatch), (6, u32 .ro s.tally.digestReread), (7, u32 .ro s.tally.digestRecompute),
     (8, u32 .ro s.tally.digestVote)]
  else if 0x4100 ≤ i && i < 0x4128 then
    let m := s.mem (i - 0x4100)
    [(1, u8 .ro m.state), (2, u32 .ro m.ce), (3, u32 .ro m.ue), (4, u32 .ro m.innerCe), (5, u16 .ro m.poison.length),
     (6, u32 .ro m.poolFree), (7, u8 .ro (s.class0Slots (i - 0x4100))), (8, u32 .ro m.class0Late),
     (9, u8 .ro (64 - (m.red.filter fun e => redValid e.2).length))]
  else if 0x4140 ≤ i && i < 0x4148 then
    let f := s.flash (i - 0x4140)
    [(1, u8 .ro f.state), (2, u32 .ro f.retries), (3, u32 .ro f.rebuilds), (4, u32 .ro f.ue), (5, u8 .ro (s.objReading i 5))]
  else []

/-- 0x5010-0x5032 (R108, R191, R216, R238). -/
def State.jobObjects (s : State) (i : Nat) : List (Nat × Obj) :=
  match i with
  | 0x5010 => [(0, u16 .rw s.tune.counterStrictSa)]
  | 0x5011 => [(0, u32 .rw s.tune.deadlockTicks)]
  | 0x5012 => [(0, u32 .rw s.tune.slowWaitLimit)]
  | 0x5020 => [(0, objR 4 .rw s.tune.skeinDeadlineDef 10 60000)]
  | 0x5021 => [(0, u32 .rw s.tune.drainTimeoutDef)]
  | 0x5022 => [(0, u32 .ro s.tally.skeinRejects)]
  | 0x5023 => [(0, u32 .ro s.tally.commits)]
  | 0x5024 => [(0, u32 .ro s.tally.tokensFlushed)]
  | 0x5030 => [(0, objR 4 .rw s.tune.quiesceLimit 10 10000)]
  | 0x5031 => [(0, u8 .ro s.partsInUse.length)]
  | 0x5032 => [(0, u16 .ro s.saFree)]
  | _ => []

/-- 0x5100 + PART, for an identifier in use, and 0x5200 + h (R238). -/
def State.partObjects (s : State) (i : Nat) : List (Nat × Obj) :=
  if 0x5100 ≤ i && i < 0x5140 then
    let q := s.part (i - 0x5100)
    if q.state == .none then []
    else [(1, u8 .ro q.state.num), (2, u8 .ro q.owner), (3, u8 .ro q.cls), (4, u16 .ro q.saCount), (5, u16 .ro q.slowdown),
          (6, u8 .ro q.endCode), (7, bool .ro q.conf)]
  else if 0x5200 ≤ i && i < 0x5220 then
    let q := s.port (i - 0x5200)
    [(1, objR 4 .rwm q.started 0 0), (2, objR 4 .rwm q.completed 0 0)]
  else []

/-- TEST_COVERAGE in 0.1 %, where R315 states one. -/
def testCoverage (t : Nat) : Nat := match t with
  | 0 => 970
  | 1 => 1000
  | 5 => 960
  | 7 => 975
  | 8 => 1000
  | 9 => 990
  | 12 => 1000
  | 13 => 1000
  | 14 => 1000
  | 16 => 1000
  | 17 => 1000
  | 18 => 960
  | _ => Config.coverage t

/-- 0x6000, 0x6001, 0x6020, 0x6100 + t (R323). -/
def State.testObjects (s : State) (i : Nat) : List (Nat × Obj) :=
  let m := s.mgs
  if i == 0x6000 then
    [(1, u32 .ro (m.releasedAt / 25000)), (2, u32 .ro s.tally.borderRestarts), (3, u8 .ro m.mgcs.length), (4, u8 .rwm 0),
     (5, objR 2 .rwm 0 0 36)]
  else if i == 0x6001 then
    [(1, objR 4 .rw s.tune.checkPeriod 600 604800), (2, u32 .ro s.tally.checkRuns), (3, u32 .ro s.tally.checkFails), (4, u32 .ro s.checkOldest)]
  else if i == 0x6020 then
    [(1, u32 .ro m.softEntries), (2, u32 .ro (65536 - m.softEntries)), (3, u16 .ro m.fuseFree), (4, u8 .rwm 0), (5, u8 .ro m.spares.length)]
  else if 0x6100 ≤ i && i < 0x6113 then
    let t := i - 0x6100
    let runs := SMap.look 0 m.testRuns t
    [(1, u8 .ro (SMap.look 3 m.testResult t)), (2, u16 .const (testCoverage t)), (3, u32 .ro (Config.reading (256 * i + 3) runs)),
     (4, u32 .ro runs), (5, u32 .ro (SMap.look 0 m.testFails t))]
  else []

/-- A record's 32 bytes (R293). -/
def Evt.bytes (e : Evt) : List Byte :=
  leBytes 8 e.tick ++ leBytes 4 e.seq ++ leBytes 2 e.source ++ leBytes 2 e.code ++ leBytes 2 e.part ++ leBytes 2 0 ++ e.param

/-- Up to 32 records from a cursor, or from the oldest held (R293). -/
def Gel.records (g : Gel) (cursor : Nat) : List Evt := (g.log.filter fun e => decide (cursor ≤ e.seq)).take 32

/-- 0x7000, 0x7001 (R293). -/
def State.logObjects (s : State) (c : Sess) (i : Nat) : List (Nat × Obj) :=
  match i with
  | 0x7000 => [(1, u32 .ro s.gel.evtNext), (2, u32 .ro s.gel.evtLost), (3, u32 .rw c.cursor)]
  | 0x7001 => [(0, objB 0x0D .ro ((s.gel.records c.cursor).flatMap Evt.bytes) 1024 false)]
  | _ => []

/-- 0x8000-0x8012 (R271). -/
def State.securityObjects (s : State) (i : Nat) : List (Nat × Obj) :=
  let m := s.mgs
  match i with
  | 0x8000 => [(1, bool .const m.debugLock), (2, bool .const m.maintDebug)]
  | 0x8001 => [(1, u8 .ro m.entropy.length), (2, bool .ro m.spareSource.isSome), (3, u32 .ro s.tally.entropyFails)]
  | 0x8002 => [(1, u8 .ro s.fw.first), (2, u32 .ro s.fw.svnMin), (3, u32 .rwm s.fw.svnCommit)]
  | 0x8003 => [(1, u8 .ro (s.partsInUse.filter fun p => (s.part p).conf).length), (2, u32 .ro s.tally.keysDestroyed)]
  | 0x8010 => [(1, objB 0x0C .rwm s.gel.maintAuth 48 true)]
  | 0x8011 => [(0, objB 0x0D .wo [] 65536 false)]
  | 0x8012 => [(0, u32 .ro (m.debugTicks / 25000000))]
  | _ => []

/-- 0xF010 (R327). -/
def State.fwObjects (s : State) : List (Nat × Obj) :=
  let f := s.fw
  [(1, objR 2 .rwm f.slot 0 1), (2, u32 .rwm f.offset), (3, objB 0x0D .rwm [] 65536 false), (4, u8 .rwm 0), (5, u8 .ro f.result),
   (6, objR 2 .rwm 0 0 31), (7, u8 .ro f.pending.length)]

/-- The sub-indices of an index, for a session. -/
def State.objects (s : State) (c : Sess) (i : Nat) : List (Nat × Obj) :=
  if i == 0x1000 then s.identity
  else if i == 0x1100 || i == 0x1101 then s.segConfig (i - 0x1100)
  else if i == 0x1110 || i == 0x1111 then s.segStatus (i - 0x1110)
  else if i == 0x1120 then [(1, objR 3 .rw s.gel.etherType 0x0600 0xFFFF)]
  else if i == 0x1121 then s.sessObjects
  else if i < 0x3000 then s.feedObjects i
  else if i < 0x3024 then s.bedObjects (i - 0x3000)
  else if i < 0x4000 then s.arrayObjects i
  else if i < 0x5000 then s.stationObjects i
  else if i < 0x5100 then s.jobObjects i
  else if i < 0x6000 then s.partObjects i
  else if i < 0x7000 then s.testObjects i
  else if i < 0x8000 then s.logObjects c i
  else if i < 0xF000 then s.securityObjects i
  else if i == 0xF010 && 2 ≤ c.role then s.fwObjects
  else []

/-- Records (R289, R292, R310): their sub-index 0xFF is APPLY. -/
def isRecord (i : Nat) : Bool := [0x1100, 0x1101, 0x1120, 0x2010].contains i

/-- The object at an index and sub-index: sub-index 0 of an index that has several holds the highest in use (R287). -/
def State.object (s : State) (c : Sess) (i sub : Nat) : Option Obj :=
  let os := s.objects c i
  match os.find? fun o => o.1 == sub with
  | some o => some o.2
  | none =>
    if sub == 0xFF && isRecord i then some (u8 .wo 0)
    else if sub == 0 && decide (2 ≤ os.length) then some (u8 .const (maxOf (os.map (·.1)))) else none

/-! ## Reading (R284, R288, R293) -/

/-- A read: the object's type and value, or the abort code. -/
def State.readObject (s : State) (c : Sess) (i sub : Nat) : Except Nat (Nat × List Byte) :=
  match s.object c i sub with
  | none => .error 1
  | some o => if o.acc == .wo then .error 3 else .ok (o.ty, o.val)

/-- The cursor after a read: past the last record returned. -/
def Gel.cursorAfter (g : Gel) (c : Sess) (i : Nat) : Nat :=
  if i == 0x7001 then (match (g.records c.cursor).getLast? with
    | some e => e.seq + 1
    | none => c.cursor)
  else c.cursor

/-! ## Who may write what (R283, R284, R287, R288, R290) -/

/-- The rights of R288. -/
def mayWrite (role i sub : Nat) (acc : Access) : Bool :=
  match role with
  | 1 => acc != .rwm
  | 2 => true
  | 3 => (i == 0x8010 && sub == 1) || (i == 0x1121 && sub == 5) || (acc != .rwm && 0x1100 ≤ i && i ≤ 0x1120)
  | _ => false

/-- The length fits the type. -/
def Obj.fits (o : Obj) (n : Nat) : Bool := if o.fixed then n == o.len else n ≤ o.len

/-- The value is in the object's range; BED_FMAX moves in steps of 25 MHz, FW_OFFSET in multiples of 8 (R311, R327). -/
def Obj.inRange (o : Obj) (i sub : Nat) (d : List Byte) : Bool :=
  (tySize o.ty).isNone ||
    (decide (o.lo ≤ intOf o.ty d) && decide (intOf o.ty d ≤ o.hi)
      && !(0x3000 ≤ i && i < 0x3024 && sub == 3 && leNat d % 25 != 0) && !(i == 0xF010 && sub == 2 && leNat d % 8 != 0))

/-- The abort code of a session that may not write an object at all, 0 where it may. A commissioning session writes MAINT_AUTH only while it is
all zeros (R268). -/
def State.accessAbort (s : State) (c : Sess) (i sub : Nat) : Nat :=
  match s.object c i sub with
  | none => 1
  | some o => if o.acc == .const || o.acc == .ro then 2 else if !mayWrite c.role i sub o.acc || (c.role == 3 && i == 0x8010 && sub == 1 && !unset s.gel.maintAuth) then 4 else 0

/-- The abort code of a write before it acts, 0 where it may. -/
def State.writeAbort (s : State) (c : Sess) (i sub : Nat) (d : List Byte) : Nat :=
  match s.accessAbort c i sub, s.object c i sub with
  | 0, some o => if !o.fits d.length then 5 else if !o.inRange i sub d then 6 else 0
  | a, _ => a

/-! ## What writes do -/

/-- REKEY (R282): a new generation, identifiers restart at 1, every other session closes. -/
def State.rekey (s : State) (k : Nat) : State :=
  let s1 := s.closeAll (s.sessionsIn (fun _ => true) |>.filter (· != k))
  { s1 with gel := { s1.gel with sessGen := (s1.gel.sessGen + 1) % 2 ^ 16, sessNext := 1 } }

/-- A role's authority changes: the sessions of that role close (R281). -/
def State.dropRole (s : State) (changed : Bool) (role : Nat) : State :=
  if changed then s.closeAll (s.sessionsIn fun c => c.role == role) else s

/-- MAINT_AUTH (R268, R283): it also closes the commissioning session that writes it. -/
def State.setMaintAuth (s : State) (k : Nat) (d : List Byte) : State :=
  let s1 := { s with gel := { s.gel with maintAuth := d } }
  let s2 := s1.dropRole (s.gel.maintAuth != d) 2
  if (s2.sess k).role == 3 then s2.closeSess k else s2

/-- OPER_AUTH. -/
def State.setOperAuth (s : State) (d : List Byte) : State :=
  { s with gel := { s.gel with operAuth := d } }.dropRole (s.gel.operAuth != d) 1

/-- SVN_COMMIT (R259): the running SVN alone; bits of SVN_MIN are blown and never cleared (R257). -/
def State.commitSvn (s : State) (v : Nat) : State × Nat :=
  if v == s.fw.runningSvn then ({ s with fw := { s.fw with svnCommit := v, svnFuse := s.fw.svnFuse ||| BitVec.ofNat 64 (2 ^ min v 64 - 1) } }, 0) else (s, 6)

/-- 24 h in ticks. -/
def tokenLimit : Nat := 2160000000000

/-- DEBUG_TOKEN (R269): accepted where MAINT_DEBUG is blown and the token verifies. Either way the event is logged. -/
def State.takeToken (s : State) (ticks : Nat) : State × Nat :=
  let m := s.mgs
  if m.maintDebug && ticks != 0 then
    ({ s with mgs := { m with debugTicks := min ticks tokenLimit, debugSessions := m.debugSessions + 1 }
              fw := { s.fw with log := s.fw.log ++ [LogEntry.debug (m.debugSessions + 1)] } }.event 0x0603 0x01FF noPart 1, 0)
  else (s.event 0x0603 0x01FF noPart 0, 6)

/-- What maintenance debug may reach (R269): arrays of no partition, frozen arrays of a partition that is not confidential through scan only,
neither before its zeroisation after a confidential one; firmware logs, and firmware-area DRAM outside journal entries. -/
def State.debugReaches (s : State) : DebugTarget → Bool
  | .array n => (s.arr n).part.isNone && !(s.arr n).dirtyConf
  | .scan n => !(s.arr n).dirtyConf && match (s.arr n).part with
    | none => true
    | some p => !(s.part p).conf && (s.arr n).freeze.isSome
  | .firmwareLog _ => true
  | .firmwareArea _ => true
  | .journal _ => false
  | .partition _ => false

/-- A debug request: served while a token is valid, or refused and logged. -/
def State.debugRequest (s : State) (t : DebugTarget) : State :=
  if s.mgs.debugTicks != 0 && s.debugReaches t then s.emit (.debug t) else s.event 0x0603 0x01FF noPart 2

/-- BED_REENABLE (R298): a latched bed wakes with the full self-test; a bed that a second trip or a blown fuse latched for good does not. A
transit rail that comes back brings its routers back, save those that failed themselves, and its spine (R300). The change of BEDS_FAILED
is logged (R329). -/
def State.reenable (s : State) (b : Nat) : State × Nat :=
  let d := s.bed b
  if !(d.state == .failedCore || d.state == .failedTransit) then (s, 0)
  else if d.latched then (s, 6)
  else
    let s1 := s.setBed b { d with state := .waking, testing := true, reenabledAt := s.mgs.tick + 1, branch := true, monitor := true }
    let s2 := { s1 with routers := SMap.mapV Router.reset (fun n r => if bedOf n == b then { r with dead := r.failed } else r) s1.routers }
    ((if d.state == .failedTransit then s2.respine else s2).event 0x0401 b noPart b, 0)

/-- FULL_TEST (R315): bed b runs it when it next has no partition, now where it has none. -/
def State.askFullTest (s : State) (v : Nat) : State :=
  if v == 0 then s else (s.setBed (v - 1) { s.bed (v - 1) with fullTest := true }).startTest (v - 1)

/-- FUSE_BURN (R318): the fuses hold every repair in effect. -/
def State.burnFuses (s : State) : State × Nat :=
  let m := s.mgs
  if m.fuseFree < m.softEntries then (s, 6)
  else ({ s with mgs := { m with fuseFree := m.fuseFree - m.softEntries, softEntries := 0, fused := s.repairs } }.noted s, 0)

/-- FW_CHUNK (R327): into the slot of FW_SLOT, which must not be the active one, nor the one that elements are switching to. A verification
does not outlive it (log entry 35). -/
def State.writeChunk (s : State) (d : List Byte) : State × Nat :=
  let f := s.fw
  if f.slot == f.active || !f.pending.isEmpty then (s, 6)
  else
    ({ s with fw := { f with image := SMap.putAll 0 f.image f.offset d, offset := (f.offset + d.length) % 2 ^ 32, result := 0
                             verA := f.verA + bit (f.slot == 0), verB := f.verB + bit (f.slot == 1) } }, 0)

/-- The elements of a set of kinds, in the order of R327: controllers, bed controllers, flash, memory, host stations; those in
service, as (kind, number). -/
def State.switchList (s : State) (v : Nat) : List (Nat × Nat) :=
  (if v.testBit 0 then s.mgs.mgcs.map fun n => (0, n) else [])
    ++ (if v.testBit 1 then (List.range 36).map fun n => (1, n) else [])
    ++ (if v.testBit 2 then s.fsServing.map fun n => (2, n) else [])
    ++ (if v.testBit 3 then s.msServing.map fun n => (3, n) else [])
    ++ (if v.testBit 4 then s.hsServing.map fun n => (4, n) else [])

/-- FW_SWITCH (R320, R327): refused without three controllers, a verified image, before border release, or during a switchover. -/
def State.switchFw (s : State) (v : Nat) : State × Nat :=
  if s.mgs.mgcs.length < 3 || s.fw.result != 1 || s.mgs.phase != .released || !s.fw.pending.isEmpty then (s, 6)
  else
    let l := s.switchList v
    if l.isEmpty then (s, 0)
    else
      let s1 := { s with fw := { s.fw with pending := l } }
      ((mapParts s1 fun _ q => if q.state == .none then q else { q with fwChanges := sat32 q.fwChanges 1 }).event 0x0601 0x01FF noPart 1, 0)

/-- The stand-alone tunable objects, by 256 x index + sub-index. -/
def Tune.set (t : Tune) (key v : Nat) : Tune :=
  match key with
  | 0x200001 => { t with powerLimit := v }
  | 0x342001 => { t with scratchCeLimit := v }
  | 0x342002 => { t with scratchCeWindow := v }
  | 0x344004 => { t with laneCeLimit := v }
  | 0x344005 => { t with laneCeWindow := v }
  | 0x400001 => { t with scrubPeriod := v }
  | 0x400002 => { t with memRowCeLimit := v }
  | 0x501000 => { t with counterStrictSa := v }
  | 0x501100 => { t with deadlockTicks := v }
  | 0x501200 => { t with slowWaitLimit := v }
  | 0x502000 => { t with skeinDeadlineDef := v }
  | 0x502100 => { t with drainTimeoutDef := v }
  | 0x503000 => { t with quiesceLimit := v }
  | 0x600101 => { t with checkPeriod := v }
  | _ => t

/-- A field of a record takes effect (R289). Turning PLCA off makes the segment fall back to CSMA/CD (R274). -/
def State.putField (s : State) (f : Nat × Nat × List Byte) : State :=
  let v := leNat f.2.2
  if f.1 == 0x1120 then { s with gel := { s.gel with etherType := v } }
  else if f.1 == 0x2010 then
    let t := s.tune
    { s with tune := match f.2.1 with
      | 1 => { t with throttleT := intOf 7 f.2.2 }
      | 2 => { t with drainT := intOf 7 f.2.2 }
      | 4 => { t with drainHold := v }
      | 6 => { t with bedIdleSleep := v }
      | _ => t }
  else
    let n := f.1 - 0x1100
    let g := s.seg n
    s.setSeg n (match f.2.1 with
      | 2 => { g with node := v }
      | 3 => { g with count := v }
      | 4 => { g with toTimer := v }
      | 5 => { g with maxBurst := v }
      | 6 => if v == 0 && g.mode == 0 then { g with plcaEn := false, mode := 1, modeChanges := sat32 g.modeChanges 1 } else { g with plcaEn := v == 1 }
      | 7 => { g with plcaLoss := v }
      | 8 => { g with term := v == 1 }
      | _ => g)

def State.putFields (s : State) : List (Nat × Nat × List Byte) → State
  | [] => s
  | f :: fs => (s.putField f).putFields fs

/-- What an accepted write does, and the abort code where the object refuses it after all. -/
def State.writeEffect (s : State) (k i sub : Nat) (d : List Byte) : State × Nat :=
  let v := leNat d
  let c := s.sess k
  if isRecord i then (s.setSess k { c with staged := c.staged ++ [(i, sub, d)] }, 0)
  else match i, sub with
    | 0x1121, 1 => ({ s with gel := { s.gel with segTimeout := v } }, 0)
    | 0x1121, 2 => ({ s with gel := { s.gel with sessionIdle := v } }, 0)
    | 0x1121, 4 => (if v == 1 then s.rekey k else s, 0)
    | 0x1121, 5 => (s.setOperAuth d, 0)
    | 0x6000, 4 => (if v == 1 then { s with mgs := { s.mgs with restartWaits := true } } else s, 0)
    | 0x6000, 5 => (s.askFullTest v, 0)
    | 0x6020, 4 => if v == 1 then s.burnFuses else (s, 0)
    | 0x7000, 3 => (s.setSess k { c with cursor := v }, 0)
    | 0x8002, 3 => s.commitSvn v
    | 0x8010, 1 => (s.setMaintAuth k d, 0)
    | 0x8011, 0 => s.takeToken (Config.tokenTicks d)
    | 0xF010, 1 => if v == s.fw.active || !s.fw.pending.isEmpty then (s, 6) else
        ({ s with fw := { s.fw with slot := v, result := if v == s.fw.slot then s.fw.result else 0
                                    image := if v == s.fw.slot then s.fw.image else [] } }, 0)
    | 0xF010, 2 => ({ s with fw := { s.fw with offset := v } }, 0)
    | 0xF010, 3 => s.writeChunk d
    | 0xF010, 4 => (if v == 1 then { s with fw := { s.fw with result := 4 } } else s, 0)
    | 0xF010, 6 => s.switchFw v
    | _, _ =>
      if 0x3000 ≤ i && i < 0x3024 then
        if sub == 3 then (s.setBed (i - 0x3000) { s.bed (i - 0x3000) with fmax := v }, 0)
        else if v == 1 then s.reenable (i - 0x3000) else (s, 0)
      else if 0x5200 ≤ i && i < 0x5220 then
        let q := s.port (i - 0x5200)
        (s.setPort (i - 0x5200) (if sub == 1 then { q with started := 0 } else { q with completed := 0 }), 0)
      else ({ s with tune := s.tune.set (256 * i + sub) v }, 0)

/-! ## APPLY (R289, R310) -/

/-- The last staged value of a field, or the live one. -/
def stagedInt (l : List (Nat × Nat × List Byte)) (sub : Nat) (live : Int) : Int :=
  match (l.filter fun f => f.2.1 == sub).getLast? with
  | some f => intOf 7 f.2.2
  | none => live

/-- The first field of the staged record that fails its check. -/
def State.applyFails (s : State) (i : Nat) (l : List (Nat × Nat × List Byte)) : Option Nat :=
  if i == 0x2010 && decide (stagedInt l 2 s.tune.drainT < stagedInt l 1 s.tune.throttleT + 3) then some 2 else none

/-- Every other session's staging of the record is discarded, and the session is stale for it. -/
def Sess.goStale (i : Nat) (c : Sess) : Sess :=
  if c.staged.any fun f => f.1 == i then { c with staged := c.staged.filter fun f => f.1 != i, stale := (c.stale ++ [i]).eraseDups } else c

/-- APPLY: the state, the answer, and the fields that take effect once the answer has left the segment. -/
def State.applyRecord (s : State) (k i : Nat) : State × DResp × List (Nat × Nat × List Byte) :=
  let c := s.sess k
  let mine := c.staged.filter fun f => f.1 == i
  let rest := c.staged.filter fun f => f.1 != i
  if !isRecord i then (s, ⟨1, []⟩, [])
  else if !mayWrite c.role i 0xFF .rw then (s, ⟨4, []⟩, [])
  else if c.stale.contains i then (s.setSess k { c with staged := rest, stale := c.stale.filter (· != i) }, ⟨9, []⟩, [])
  else if mine.isEmpty then (s, ⟨0, []⟩, [])
  else match s.applyFails i mine with
    | some f => (s, ⟨8, leBytes 1 f⟩, [])
    | none =>
      let s1 := s.setSess k { c with staged := rest }
      let others := SMap.mapV Sess.reset (fun n d => if n == k then d else d.goStale i) s1.gel.sessions
      let s2 := { s1 with gel := { s1.gel with sessions := others } }
      if i == 0x2010 then (s2.putFields mine, ⟨0, []⟩, []) else (s2, ⟨0, []⟩, mine)

/-- A write of a session, of 1 to sub-index 0xFF an APPLY: the state, the answer, and the fields that wait for the answer to leave. -/
def State.writeObject (s : State) (k i sub : Nat) (d : List Byte) : State × DResp × List (Nat × Nat × List Byte) :=
  match s.writeAbort (s.sess k) i sub d with
  | 0 =>
    if sub == 0xFF && isRecord i then (if leNat d == 1 then s.applyRecord k i else (s, ⟨6, []⟩, []))
    else ((s.writeEffect k i sub d).1, ⟨(s.writeEffect k i sub d).2, []⟩, [])
  | a => (s, ⟨a, []⟩, [])

end Sys2Proof.Machine
end

