-- ==== Sys2Proof/Machine/Beds.lean ====
section
/-!
DEFINITION. Beds: loss of routers and stations, rails, clocks, wakes and self-tests, heat, the power limit (R17, R128, R240, R295-R309,
R315-R320).
-/
namespace Sys2Proof.Machine

/-! ## Losses (R17, R128, R240, R324) -/

/-- A host station leaves service: its port has no link, and the partitions it owns end. -/
def State.loseHs (s : State) (h : Nat) : State :=
  if (s.port h).lost then s
  else
    let mine := (List.range 64).filter fun p => s.owns h p
    let s1 := (s.event 0x0306 (0x0180 + h) noPart h).routeLostAt (attachSite (48 + h)) mine
    let s2 := s1.portReset h
    s2.setPort h { s2.port h with lost := true }

/-- A border station leaves service (R17). -/
def State.loseStation (s : State) (st : Nat) : State :=
  if st < 40 then s.loseMs st else if st < 48 then s.loseFs (st - 40) else s.loseHs (st - 48)

/-- A router goes: what is inside it is lost with it. -/
def State.dropRouter (s : State) (site : Nat) (failed : Bool) : State :=
  let r := s.router site
  if r.dead then s.setRouter site { r with failed := r.failed || failed }
  else
    let s1 := s.setRouter site { r with dead := true, failed := r.failed || failed }
    { s1 with net := s1.net.filter fun t => match t.loc with
      | .router n => n != site
      | .redSlot n _ _ => n != site
      | _ => true }

def State.dropRouters (s : State) (failed : Bool) : List Nat → State
  | [] => s
  | n :: ns => (s.dropRouter n failed).dropRouters failed ns

/-- ROUTE_LOST for every partition of a list with its site. -/
def State.routesLost (s : State) : List (Nat × Nat) → State
  | [] => s
  | w :: ws => (s.routeLostAt w.2 [w.1]).routesLost ws

def State.loseStationsAt (s : State) : List Nat → State
  | [] => s
  | n :: ns => (match stationAt n with
    | some st => s.loseStation st
    | none => s).loseStationsAt ns

/-- A station in service. -/
def State.stationUp (s : State) (st : Nat) : Bool :=
  if st < 40 then (s.mem st).state != 2 else if st < 48 then (s.flash (st - 40)).state != 2 else !(s.port (st - 48)).lost

/-- Partitions that the loss of a station concerns (R227, R324). -/
def State.stationUsers (s : State) (st : Nat) : List Nat :=
  (List.range 64).filter fun p =>
    if st < 40 then (s.part p).usesStation st
    else if st < 48 then (s.part p).regions.any fun r => r.2.valid && r.2.kind == 2
    else s.owns (st - 48) p

/-- Partitions told of a loss by the stations in service that it takes with it. -/
def State.stationsTell (s : State) (sites : List Nat) : List Nat :=
  ((sites.filterMap stationAt).filter s.stationUp).flatMap s.stationUsers

/-- Routers are lost together: the stations that they attach are lost with them, and partitions with live entries on them end, each once,
with the lowest site concerned (R228), except those of `spared` and those that a lost station tells. -/
def State.loseRouters (s : State) (failed : Bool) (spared : List Nat) (sites : List Nat) : State :=
  let gone := sortBy id (sites.filter fun n => !(s.router n).dead)
  let told := spared ++ s.stationsTell gone
  let hit := ((List.range 64).filter fun p => !told.contains p).filterMap fun p =>
    (gone.find? fun n => ((s.router n).owners fun _ => true).contains p).map fun n => (p, n)
  ((s.dropRouters failed sites).loseStationsAt gone).routesLost hit

/-! ## Partitions of a bed -/

/-- Partitions with service arrays in a bed. -/
def State.bedParts (s : State) (b : Nat) : List Nat :=
  (List.range 64).filter fun p => (s.part p).sas.any fun n => s.bedOfArr n == b

/-- They end with BED_LOST, each that a loss can still end (R227, R298). -/
def State.endBed (s : State) (b : Nat) (heat : Bool) : List Nat → State
  | [] => s
  | p :: ps => (s.bedLost p b heat).endBed b heat ps

/-- A fault of a bed's rails or PLL: its partitions end with BED_LOST; of a WAKING bed, the LOCK that waits on it fails (R214, R298,
R303). -/
def State.endFaulted (s : State) (b : Nat) (waking : Bool) : List Nat → State
  | [] => s
  | p :: ps => (if waking && ((s.part p).locking || (s.part p).resuming) then s.lockFails p else s.bedLost p b false).endFaulted b waking ps

/-! ## Rails (R297, R298) -/

/-- The rails are up. -/
def State.railsUp (s : State) : Bool := s.mgs.phase == .released || s.mgs.phase == .border

/-- Beds whose transit converters feed the transit rail of bed `b`. -/
def feeders (b : Nat) : List Nat :=
  let other := if 6 ≤ b then b - 6 else b + 6
  [b, if b % 6 == 0 then other else b - 1, if b % 6 == 5 then other else b + 1]

/-- Something still feeds the transit rail. -/
def State.transitFed (s : State) (b : Nat) : Bool := (feeders b).any fun f => (s.bed f).converter && (s.bed f).branch

def sitesOf (b : Nat) : List Nat := (List.range 1296).filter fun n => bedOf n == b

/-- A bed latches; a trip within 24 h of a re-enable latches it until module service. -/
def Bed.latch (d : Bed) (st : BedState) (tick : Nat) : Bed :=
  { d with state := if d.state == .failedTransit then .failedTransit else st, freq := 0, fullTest := false, testing := false
           trips := satAdd 0xFFFF d.trips 1
           latched := d.latched || (d.reenabledAt != 0 && decide (tick < d.reenabledAt - 1 + tokenLimit)) }

/-! ## Rail faults (R298) -/

/-- The transit rail of a bed is lost: its routers with it. -/
def State.loseTransit (s : State) (b : Nat) : State :=
  if (s.bed b).state == .failedTransit then s
  else
    let mine := s.bedParts b
    let s1 := s.setBed b ((s.bed b).latch .failedTransit s.mgs.tick)
    let s2 := ((s1.event 0x0203 b noPart b).event 0x0401 b noPart b).endFaulted b ((s.bed b).state == .waking) mine
    (s2.loseRouters false mine (sitesOf b)).respine

/-- Transit rails that nothing feeds any more are lost. -/
def State.settleTransit (s : State) : State :=
  (List.range 36).foldl (fun s b => if s.transitFed b then s else s.loseTransit b) s

/-- A core rail is switched off for a fault: the bed latches and its partitions end. -/
def State.coreOff (s : State) (b : Nat) (code : Nat) : State :=
  let mine := s.bedParts b
  (((s.setBed b ((s.bed b).latch .failedCore s.mgs.tick)).event code b noPart b)).endFaulted b ((s.bed b).state == .waking) mine

/-- The core rail is on. -/
def BedState.on : BedState → Bool
  | .waking => true
  | .awake => true
  | .draining => true
  | _ => false

/-- BRANCH_FAULT; a blown fuse latches the bed until module service. -/
def State.branchFault (s : State) (b : Nat) (blown : Bool) : State :=
  if s.railsUp && (s.bed b).branch then
    ((s.setBed b { s.bed b with branch := false, latched := (s.bed b).latched || blown }).coreOff b 0x0401).settleTransit
  else s

def execBranchFault (bed : Nat) (blown : Bool) (s : State) : Answer := guardUnit (bedOk bed) (s.branchFault bed blown)

def State.railFault (s : State) (b : Nat) : State := if s.railsUp && (s.bed b).state.on then s.coreOff b 0x0401 else s

def execCoreRailFault (bed : Nat) (s : State) : Answer := guardUnit (bedOk bed) (s.railFault bed)

def execTransitRailShort (bed : Nat) (s : State) : Answer :=
  guardUnit (bedOk bed) (if s.railsUp then s.loseTransit bed else s)

/-- TRANSIT_CONVERTER_FAIL: the neighbours' converters carry the rail; it counts as a trip (log entry 39). -/
def State.converterFail (s : State) (b : Nat) : State :=
  let d := s.bed b
  if s.railsUp && d.converter then
    ((s.setBed b { d with converter := false, trips := satAdd 0xFFFF d.trips 1 }).event 0x0401 b noPart b).settleTransit
  else s

def execTransitConverterFail (bed : Nat) (s : State) : Answer := guardUnit (bedOk bed) (s.converterFail bed)

def State.lockLoss (s : State) (b : Nat) : State := if s.railsUp && (s.bed b).state.on then s.coreOff b 0x0401 else s

def execBedPllLockLoss (bed : Nat) (s : State) : Answer := guardUnit (bedOk bed) (s.lockLoss bed)

/-! ## Self-tests (R315, R316, R323) -/

/-- A test has run: 0 pass, 1 repaired, 2 safe state. -/
def State.ranTest (s : State) (result t : Nat) : State :=
  let m := s.mgs
  { s with mgs := { m with testResult := SMap.put 3 m.testResult t result
                           testRuns := SMap.put 0 m.testRuns t (sat32 (SMap.look 0 m.testRuns t) 1)
                           testFails := SMap.put 0 m.testFails t (sat32 (SMap.look 0 m.testFails t) (bit (result != 0))) } }

def State.ranTests (s : State) (result : Nat) : List Nat → State
  | [] => s
  | t :: ts => (s.ranTest result t).ranTests result ts

/-- VOLTAGE_MONITOR_CHECK: test 4; a bed whose monitor fails is off and kept off. -/
def State.monitorFail (s : State) (b : Nat) : State :=
  if (s.bed b).monitor then (s.setBed b { s.bed b with monitor := false }).coreOff b 0x0401 else s

def State.monitorFails (s : State) : List Nat → State
  | [] => s
  | b :: bs => (s.monitorFail b).monitorFails bs

def State.monitorCheck (s : State) (failed : List Nat) : State :=
  let bad := failed.filter fun b => b < 36
  if s.railsUp then (s.ranTest (if bad.isEmpty then 0 else 2) 4).monitorFails bad else s

def execVoltageMonitorCheck (failed : List Nat) (s : State) : Answer := guardUnit true (s.monitorCheck failed)

/-- Median of three. -/
def median3 (a b c : Int) : Int := max (min a b) (min (max a b) c)

/-- A sensor's cross-check: within 6 °C of the median of the other three. -/
def sensorPasses (rs : List Int) (i : Nat) : Bool :=
  match (rs.take 4).eraseIdx i with
  | [a, b, c] => let d := nth 0 rs i - median3 a b c
    decide (-60 ≤ d) && decide (d ≤ 60)
  | _ => false

/-- The excluded sensors after a check, with their passing checks since: one rejoins after 60. -/
def sensorsAfter (rs : List Int) (old : List (Nat × Nat)) : List (Nat × Nat) :=
  (List.range 4).filterMap fun i =>
    match old.find? fun e => e.1 == i with
    | some e => if sensorPasses rs i then (if 60 ≤ e.2 + 1 then none else some (i, e.2 + 1)) else some (i, 0)
    | none => if sensorPasses rs i then none else some (i, 0)

/-- The cross-check of a bed's four sensors (R316): those that fail it are excluded; with one left the thermal ceiling is held, with none
the bed is switched off, or held so. -/
def State.crossCheck (s : State) (b : Nat) (rs : List Int) : State :=
  let d := s.bed b
  let out := sensorsAfter rs d.excluded
  let fresh := out.filter fun e => d.excluded.all fun o => o.1 != e.1
  let d1 := { d with sensors := rs, excluded := out, thermal := if out.length == 3 then min d.thermal 700 else d.thermal }
  let s2 := fresh.foldl (fun s e => s.event 0x0503 b noPart e.1) (s.setBed b d1)
  if out.length == 4 && !(d.state == .failedCore || d.state == .failedTransit) then s2.coreOff b 0x0401 else s2

/-- THERMAL_SENSOR_CHECK. -/
def State.sensorCheck (s : State) (b : Nat) (rs : List Int) : State :=
  if rs.length != 4 || !s.railsUp then s
  else
    let s1 := s.crossCheck b rs
    s1.ranTest (if (s1.bed b).excluded.isEmpty then 0 else 2) 11

def execThermalSensorCheck (bed : Nat) (readings : List Int) (s : State) : Answer := guardUnit (bedOk bed) (s.sensorCheck bed readings)

/-! ## Wake and sleep (R303, R315, R319) -/

def execBedWake (bed : Nat) (s : State) : Answer := guardUnit (bedOk bed) (if s.railsUp then s.wakeBed bed else s)

/-- Exchange an array of a partition for another. -/
def swapArr (n m : Nat) (sas : List Nat) : List Nat := sortBy id (sas.map fun a => if a == n then m else a)

/-- A site failed its test at a wake that placement started: its SA number moves before the first commit; without a spare the
partition gets another free array, and without one it ends. -/
def State.placeAgain (s : State) (p n b : Nat) : State :=
  let q := s.part p
  match s.spareSite with
  | some t => (s.moveSite n).wakeBed (bedOf t)
  | none => match s.placement 1 q.cls with
    | .ok [m] =>
      let s1 := (giveArrays s p q.conf [m]).setPart p { q with sas := swapArr n m q.sas }
      (s1.setArr n { s1.arr n with part := none }).wakeBeds (s1.bedsOf [m])
    | _ => s.bedLost p b false

/-- A site of a waking bed leaves service (R319). -/
def State.siteFails (s : State) (b site : Nat) : State :=
  if bedOf site != b || s.mgs.deadSites.contains site then s
  else match s.arrayAt site with
    | none => s.leaveSite site []
    | some n =>
      let s1 := s.leaveSite site [n]
      match (s.arr n).part with
      | none => s1
      | some p =>
        let q := s1.part p
        if q.locking || q.resuming then s1.lockFails p
        else if q.state == .created || q.state == .placed then s1.placeAgain p n b
        else s1.bedLost p b false

/-! ### What a self-test found (R315, R317) -/

/-- The test of R315 that finds it. -/
def testOf : Finding → Nat
  | .trellisPll _ => 3
  | .stationPll _ => 3
  | .bedMonitor _ => 4
  | .stationMonitor _ => 4
  | .router _ => 5
  | .lane _ _ _ => 6
  | .site _ => 7
  | .core _ _ _ => 7
  | .scratchRow _ _ => 8
  | .coreSram _ _ _ => 8
  | .datapath _ _ _ => 9
  | .bedPll _ => 10
  | .serdes _ _ => 12
  | .stackLane _ _ => 14
  | .stackRow _ _ => 15
  | .stack _ t => if t == 14 || t == 15 then t else 16
  | .nand _ _ => 17
  | .station _ => 18

/-- The array whose site is concerned, of a finding in a bed's arrays. -/
def arrayOf : Finding → Option Nat
  | .core n y f => if saOk n && decide (y < 24) && decide (f < 25) then some n else none
  | .coreSram n y f => if saOk n && decide (y < 24) && decide (f < 25) then some n else none
  | .datapath n y f => if saOk n && decide (y < 24) && decide (f < 25) then some n else none
  | .scratchRow k u => if k < 691200 && u < 4096 then some (keyArr k) else none
  | _ => none

/-- The bed that a finding concerns: of its own tests alone (R303 step 3). -/
def State.findingBed (s : State) (f : Finding) : Option Nat :=
  match f with
  | .site n => if n < 1296 then some (bedOf n) else none
  | .bedPll b => if b < 36 then some b else none
  | _ => (arrayOf f).map s.bedOfArr

/-- A core of a bed fails: it is mapped out, or takes its site with it (R61, R62). -/
def State.coreFound (s : State) (n y f : Nat) : State :=
  let s1 := s.event 0x0201 (0x0200 + n) noPart (n + 2 ^ 16 * (25 * y + f))
  if (s1.arr n).outAll.contains (25 * y + f) then s1
  else if s1.coreFits n y then s1.mapOutAt n y f
  else s1.siteFails (s1.bedOfArr n) (s1.siteOf n)

/-- A scratchpad row fails MBIST: a spare row takes its place, or the core is mapped out (R95). -/
def State.rowFound (s : State) (k u : Nat) : State :=
  let n := keyArr k
  if s.rowFits n (keyX k) (keyY k) u then
    (s.event 0x0201 (0x0200 + n) noPart (n + 2 ^ 16 * s.physical n (keyX k) (keyY k))).softRow n (keyX k) (keyY k) u
  else s.coreFound n (keyY k) ((s.arr n).column (keyX k) (keyY k))

/-- A finding in a bed's arrays takes effect. -/
def State.bedFinding (s : State) (f : Finding) : State :=
  match f with
  | .site n => s.siteFails (bedOf n) n
  | .core n y c => s.coreFound n y c
  | .coreSram n y c => s.coreFound n y c
  | .datapath n y c => s.coreFound n y c
  | .scratchRow k u => s.rowFound k u
  | _ => s

/-- TEST_RESULT of it: 1 repaired, 2 safe state (R323; DESIGN CHOICE, log entry 40, where R317 names neither). -/
def State.bedResult (s : State) (f : Finding) : Nat :=
  let spare := fun (site : Nat) => if (s.arrayAt site).isSome && s.spareSite.isNone then 2 else 1
  let core := fun (n y : Nat) => if s.coreFits n y then 1 else spare (s.siteOf n)
  match f with
  | .site n => spare n
  | .core n y _ => core n y
  | .coreSram n y _ => core n y
  | .datapath n y _ => core n y
  | .scratchRow k u => if s.rowFits (keyArr k) (keyX k) (keyY k) u then 1 else core (keyArr k) (keyY k)
  | _ => 2

/-- The array of a finding is still on the site that was tested. -/
def State.stillThere (s : State) (site : Nat → Nat) (f : Finding) : Bool :=
  match arrayOf f with
  | some n => s.siteOf n == site n
  | none => true

/-- Findings of a bed's arrays in order, with the worst result of each test so far; `site` gives the tested sites of arrays. -/
def State.bedFindings (s : State) (site : Nat → Nat) (res : SMap Nat) : List Finding → State × SMap Nat
  | [] => (s, res)
  | f :: fs =>
    let res1 := SMap.put 0 res (testOf f) (max (SMap.look 0 res (testOf f)) (s.bedResult f))
    if s.stillThere site f then (s.bedFinding f).bedFindings site res1 fs else s.bedFindings site res fs

/-- Tests have run, each with its result. -/
def State.ranWith (s : State) (res : SMap Nat) : List Nat → State
  | [] => s
  | t :: ts => (s.ranTest (SMap.look 0 res t) t).ranWith res ts

/-- Sites without an array that passed the full self-test of their bed are spares; one that did not is none (R319, R323). -/
def State.newSpares (s : State) (b : Nat) : State :=
  let passed := (List.range 1296).filter fun n => bedOf n == b && !s.mgs.deadSites.contains n && (s.arrayAt n).isNone
  { s with mgs := { s.mgs with spares := (s.mgs.spares.filter fun n => bedOf n != b) ++ passed } }

/-- The wake ends with the outcome of the bed's tests; a full self-test of a bed without a partition ends in SLEEP. -/
def State.wakeEnds (s : State) (b : Nat) (found : List Finding) : State :=
  let d := s.bed b
  let ends := d.testing && s.bedFree b
  let mine := found.filter fun f => s.findingBed f == some b
  let s1 := s.setBed b { (if ends then { d with state := .sleep, freq := 0 } else { d with state := .awake, freq := 400 }) with testing := false }
  let r := s1.bedFindings s.siteOf [(11, if d.excluded.isEmpty then 0 else 2)] mine
  let s2 := if d.testing then r.1.newSpares b else r.1
  (s2.ranWith r.2 [7, 8, 9, 10, 11]).startTest b

/-- BED_AWAKE: rails and lock are done, and the self-test has run. A PLL that fails test 10 latches the bed; without a passing thermal sensor
the bed is switched off; a test so cut short is not counted (R298, R303, R316, R320). -/
def State.awaken (s : State) (b : Nat) (found : List Finding) (readings : List Int) : State :=
  if (s.bed b).state != .waking then s
  else if found.contains (.bedPll b) then (s.coreOff b 0x0401).ranTest 2 10
  else
    let s1 := if readings.length == 4 then s.crossCheck b readings else s
    if (s1.bed b).state == .waking then s1.wakeEnds b found else s1.ranTest 2 11

def execBedAwake (bed : Nat) (found : List Finding) (readings : List Int) (s : State) : Answer :=
  guardUnit (bedOk bed) (s.unlessHeld (s.switching 1 bed) (s.awaken bed found readings))

/-- BED_SLEEP: an AWAKE bed that no partition uses. -/
def State.fallAsleep (s : State) (b : Nat) : State :=
  if (s.bed b).state == .awake && s.bedFree b && !s.class0Beds.contains b then s.setBed b { s.bed b with state := .sleep, freq := 0 } else s

def execBedSleep (bed : Nat) (s : State) : Answer := guardUnit (bedOk bed) (s.unlessHeld (s.switching 1 bed) (s.fallAsleep bed))

/-! ## Clocks and power (R301, R304) -/

/-- One 25 MHz step towards a clock. -/
def stepTo (now target : Nat) : Nat := if now < target then min target (now + 25) else max target (now - 25)

def State.freqStep (s : State) (b : Nat) : State :=
  let d := s.bed b
  if d.state == .awake || d.state == .draining then s.setBed b { d with freq := stepTo d.freq (s.targetClock b) } else s

/-- A bed controller that switches its firmware holds its bed's clock and rail settings (R327). -/
def execBedFreqStep (bed : Nat) (s : State) : Answer := guardUnit (bedOk bed) (s.unlessHeld (s.switching 1 bed) (s.freqStep bed))

/-- POWER_CONTROL_PERIOD: a change of PROMISE by the coolant is logged (R329); the ceiling falls by 25 MHz above the cap, and rises after ten periods below it by more than a step's cost. -/
def State.powerPeriod (s : State) (now cost : Nat) (coolIn coolOut : Int) (flow : Nat) : State :=
  let m := { s.mgs with powerNow := now, coolIn := coolIn, coolOut := coolOut, coolFlow := flow }
  let cap := { s with mgs := m }.powerCap
  { s with mgs :=
      if cap < now then { m with ceiling := max 400 (m.ceiling - 25), below := 0 }
      else if cap ≤ now + cost then { m with below := 0 }
      else if m.below + 1 < 10 then { m with below := m.below + 1 }
      else { m with ceiling := min 1100 (m.ceiling + 25), below := 0 } }.noted s

def execPowerControlPeriod (powerNow stepCost : Nat) (coolIn coolOut : Int) (coolFlow : Nat) (s : State) : Answer :=
  guardUnit true (s.powerPeriod powerNow stepCost coolIn coolOut coolFlow)

/-! ## Heat (R306-R309) -/

/-- THERMAL_STEP: new readings; an AWAKE bed's thermal ceiling falls or rises, and stays at or below 0.7 GHz with one sensor. -/
def State.thermal (s : State) (b : Nat) (rs : List Int) : State :=
  if rs.length != 4 then s
  else
    let d := { s.bed b with sensors := rs }
    let top := if d.passing.length ≤ 1 then 700 else 1100
    let t := s.tune.throttleT * 10
    s.setBed b
      (if d.state != .awake then d
       else if t ≤ d.temp then { d with thermal := max 400 (d.thermal - 25) }
       else if d.temp ≤ t - 50 then { d with thermal := min top (d.thermal + 25) } else d)

def execThermalStep (bed : Nat) (readings : List Int) (s : State) : Answer := guardUnit (bedOk bed) (s.thermal bed readings)

/-- What a drain does with one partition of the bed (R309); one that must wait is met again by a later BED_DRAIN. -/
def State.drainPart (s : State) (b p : Nat) : State :=
  let q := s.part p
  match q.state with
  | .running => if q.commitPending then s else if s.canScan p then s.quiesce p true else s.bedLost p b true
  | .quiescing => s.setPart p { q with byDevice := true, suspDev := true }
  | .created => s.bedLost p b true
  | .ready => s.bedLost p b true
  | .placed => s.bedLost p b true
  | .resumable => s.bedLost p b true
  | .complete => s.stopNow p
  | _ => s

def State.drainParts (s : State) (b : Nat) : List Nat → State
  | [] => s
  | p :: ps => (s.drainPart b p).drainParts b ps

/-- BED_DRAIN: with the thermal ceiling at 0.4 GHz and BED_TEMP at DRAIN_T, the bed enters DRAINING. -/
def State.drain (s : State) (b : Nat) : State :=
  let d := s.bed b
  if d.state == .awake && d.thermal == 400 && decide (s.tune.drainT * 10 ≤ d.temp) then
    ((s.setBed b { d with state := .draining }).event 0x0402 b noPart b).drainParts b (s.bedParts b)
  else if d.state == .draining then s.drainParts b (s.bedParts b) else s

def execBedDrain (bed : Nat) (s : State) : Answer := guardUnit (bedOk bed) (s.drain bed)

/-- BED_DRAIN_DONE; the change of BEDS_FAILED is logged (R329). -/
def State.drained (s : State) (b : Nat) : State :=
  if (s.bed b).state == .draining && s.bedFree b then
    (s.setBed b { s.bed b with state := .offHeat, freq := 0 }).event 0x0402 b noPart b
  else s

def execBedDrainDone (bed : Nat) (s : State) : Answer := guardUnit (bedOk bed) (s.drained bed)

/-- BED_CRIT: at CRIT_T the core rail goes off and the bed's partitions end. -/
def State.crit (s : State) (b : Nat) (temp : Int) : State :=
  if (s.bed b).state.on && decide (1100 ≤ temp) then
    ((s.setBed b { s.bed b with state := .offHeat, freq := 0 }).event 0x0402 b noPart b).endBed b true (s.bedParts b)
  else s

def execBedCrit (bed : Nat) (temp : Int) (s : State) : Answer := guardUnit (bedOk bed) (s.crit bed temp)

/-- OFF_HEAT_RECOVER: at or below THROTTLE_T - 10 °C; the change of BEDS_FAILED is logged (R329). -/
def State.cooled (s : State) (b : Nat) : State :=
  let d := s.bed b
  if d.state == .offHeat && decide (d.temp ≤ s.tune.throttleT * 10 - 100) then
    ((s.setBed b { d with state := .sleep }).event 0x0402 b noPart b).startTest b
  else s

def execOffHeatRecover (bed : Nat) (s : State) : Answer := guardUnit (bedOk bed) (s.cooled bed)

end Sys2Proof.Machine
end

