-- ==== Sys2Proof/Machine/Gelokan.lean ====
section
/-!
DEFINITION. Gelokan frames and sessions, segmented transfers, the segments' PLCA and CSMA/CD, and the host's view over MCTP (R272-R294).
-/
namespace Sys2Proof.Machine

/-! ## Frames (R275-R277, R280) -/

/-- MGS answers the field network from the always-on domain. -/
def State.gelOn (s : State) : Bool := s.mgs.phase != .off

def broadcast : List Byte := List.replicate 6 0xFF

/-- A PDU up to its tag. -/
def gelPdu (verDir kind session seq len : Nat) (body : List Byte) : List Byte :=
  leBytes 1 verDir ++ leBytes 1 kind ++ leBytes 2 len ++ leBytes 4 session ++ leBytes 4 seq ++ body

/-- A frame from the destination address through the PDU's body: what the tag covers (R279). -/
def gelCovered (dst src : List Byte) (etherType : Nat) (pdu : List Byte) : List Byte := dst ++ src ++ beBytes 2 etherType ++ pdu

/-- The tag: AES-GMAC under the direction's key (R279). -/
def gelTag (key : List Byte) (seq session dir : Nat) (covered : List Byte) : List Byte :=
  gcmTag key (leBytes 12 (seq + 2 ^ 32 * session + 2 ^ 64 * dir)) covered []

/-- What a request's tag covers. -/
def frameCovered (f : Frame) (body : List Byte) : List Byte :=
  gelCovered f.dst f.src f.etherType (gelPdu f.pdu.verDir f.pdu.kind f.pdu.session f.pdu.seq f.pdu.len body)

/-- The frame of a response as it leaves: DIR 1, its tag unless it answers CERT or OPEN, padding to the least payload. -/
def State.frameBytes (s : State) (n : Nat) (x : TxFrame) : List Byte :=
  let body := leBytes 2 x.resp.abort ++ x.resp.body
  let all := gelCovered x.dst (macOf n) s.gel.etherType (gelPdu 0x11 x.kind x.session x.seq body.length body)
  let tagged := all ++ if x.key.isEmpty then [] else gelTag x.key x.seq x.session 1 all
  tagged ++ List.replicate (60 - tagged.length) 0

/-- A response is queued on a segment. -/
def State.queueFrame (s : State) (n : Nat) (x : TxFrame) : State := s.setSeg n { s.seg n with txq := (s.seg n).txq ++ [x] }

/-- The response to a frame, on the segment it came by, with its SEQ; `key`: the key of its tag. -/
def State.reply (s : State) (f : Frame) (key : List Byte) (r : DResp) (due : List (Nat × Nat × List Byte)) : State :=
  s.queueFrame f.seg ⟨f.pdu.session, f.pdu.seq, r, due, f.pdu.kind, f.src, key⟩

def State.countMalformed (s : State) (n : Nat) : State := s.setSeg n { s.seg n with malformed := sat32 (s.seg n).malformed 1 }
def State.countFcs (s : State) (n : Nat) : State := s.setSeg n { s.seg n with fcsErr := sat32 (s.seg n).fcsErr 1 }
def State.countStranger (s : State) : State := { s with gel := { s.gel with strangers := sat32 s.gel.strangers 1 } }
def State.countGmac (s : State) : State := { s with gel := { s.gel with gmacFail := sat32 s.gel.gmacFail 1 } }
def State.countReplay (s : State) : State := { s with gel := { s.gel with replays := sat32 s.gel.replays 1 } }

/-- The PDU is a request of the kind: version 1, reserved bits 0, LEN the body's length. -/
def pduGood (p : Pdu) (kind : Nat) (body : List Byte) : Bool :=
  p.verDir == 1 && p.kind == kind && p.len == body.length && decide (body.length ≤ 1400) && p.rsv == 0

/-- A frame that arrives: one with a frame check error is counted; one for another address, of another EtherType, or a response is ignored;
a malformed request is counted and dropped (R275, R276, R292). -/
def State.frameIn (s : State) (f : Frame) (kind : Nat) (body : List Byte) (t : State) : State :=
  if !s.gelOn then s
  else if !f.fcsOk then s.countFcs f.seg
  else if !(f.dst == broadcast || f.dst == macOf f.seg) || f.etherType != s.gel.etherType || f.pdu.verDir / 16 % 2 == 1 then s
  else if !pduGood f.pdu kind body then s.countMalformed f.seg
  else t

/-- SEQ is above H, or in the window and not yet accepted. -/
def Sess.fresh (c : Sess) (q : Nat) : Bool := decide (c.hi < q) || (decide (c.hi < q + 64) && !c.window.getLsbD (c.hi - q))

/-- H and the window after SEQ is accepted. -/
def Sess.accept (c : Sess) (q : Nat) : Sess :=
  if c.hi < q then { c with hi := q, window := if 64 ≤ q - c.hi then 1 else c.window <<< (q - c.hi) ||| 1 }
  else { c with window := c.window ||| 1#64 <<< (c.hi - q) }

/-- The response to a SEQ, among the 8 most recent. -/
def Sess.answered (c : Sess) (q : Nat) : Option DResp := (c.recent.find? fun r => r.1 == q).map (·.2)

/-- What a request does and answers. -/
abbrev Served := State × DResp × List (Nat × Nat × List Byte)

/-- The answer is kept for duplicates and queued on the segment the request came by; a session whose SEQ is spent closes. -/
def State.answerFrame (f : Frame) (key : List Byte) (r : Served) : State :=
  let k := f.pdu.session
  let c := r.1.sess k
  let s1 := if c.role == 0 then r.1 else r.1.setSess k { c with recent := ((f.pdu.seq, r.2.1) :: c.recent).take 8 }
  let s2 := s1.reply f key r.2.1 r.2.2
  if f.pdu.seq == 0xFFFFFFFF then s2.closeSess k else s2

/-- The fields that still wait for the response of SEQ `q` to leave, its frame having been dropped. -/
def Sess.unsentOf (c : Sess) (q : Nat) : List (Nat × Nat × List Byte) := (c.unsent.filter fun u => u.1 == q).flatMap Prod.snd

/-- Dictionary requests wait while a management controller switches its firmware (R327). -/
def State.requestsWait (s : State) : Bool := s.switchingKind 0

/-- A request of a session: dropped and counted, answered again, or executed. A pending handshake takes AUTH on its own segment
alone. -/
def State.request (s : State) (f : Frame) (kind : Nat) (body : List Byte) (act : State → Served) : State :=
  let k := f.pdu.session
  let q := f.pdu.seq
  let c := s.sess k
  s.unlessHeld s.requestsWait (s.frameIn f kind body
    (if !(c.role != 0 && (c.opened || (kind == 3 && c.seg == f.seg))) then s.countStranger
     else if f.tag != gelTag c.rqKey q k 0 (frameCovered f body) then s.countGmac
     else if c.fresh q then State.answerFrame f c.rsKey (act (s.setSess k (c.accept q)))
     else match c.answered q with
       | some r => (s.setSess k { c with unsent := c.unsent.filter fun u => u.1 != q }).reply f c.rsKey r (c.unsentOf q)
       | none => s.countReplay))

def zeros (n : Nat) : List Byte := List.replicate n 0

/-! ## CERT, OPEN, AUTH, CLOSE (R276, R278, R281-R283) -/

/-- CERT: up to 1,024 B of the chain. -/
def State.certFrame (s : State) (f : Frame) (offset : Nat) : State :=
  s.frameIn f 1 (leBytes 2 offset)
    (s.reply f [] ⟨0, leBytes 2 s.certChain.length ++ (s.certChain.drop offset).take 1024⟩ [])

def execCert (f : Frame) (offset : Nat) (s : State) : Answer := guardUnit (segOk f.seg) (s.certFrame f offset)

/-- The conditions of a commissioning session (R283). -/
def State.commissioning (s : State) : Bool := unset s.gel.maintAuth && s.mgs.commission

/-- The role cannot be granted now (R290). -/
def State.roleAway (s : State) (role : Nat) : Bool :=
  match role with
  | 1 => unset s.gel.operAuth
  | 2 => unset s.gel.maintAuth
  | 3 => !s.commissioning
  | _ => true

/-- Why an OPEN is refused: SESSION_FULL or ROLE_UNAVAILABLE; 0 where it is not. -/
def State.openAbort (s : State) (role : Nat) : Nat :=
  let k := s.nextSession
  if 16 ≤ s.gel.sessions.length || 0xFFFFFFFF < k || (k == 0xFFFFFFFF && role != 2) then 0x0C
  else if s.roleAway role then 0x0E
  else if s.mgs.drbgServe.isNone then 0x0C else 0

/-- The OPEN requests of the last second on a segment. -/
def State.recentOpens (s : State) (n : Nat) : List Nat := (s.seg n).opens.filter fun t => decide (s.mgs.tick < t + 25000000)

/-- The body of an OPEN request. -/
def openBody (f : Frame) (role : Nat) (nonceR qR : List Byte) : List Byte := leBytes 1 role ++ leBytes 3 f.pdu.rsv ++ nonceR ++ qR

/-- The session that an OPEN opens, `k` its identifier, and the response's body after ABORT (R278). -/
def State.handshake (s : State) (f : Frame) (role k : Nat) (nonceR qR : List Byte) : Sess × List Byte :=
  let d := scalarOf (Config.random (s.draws + 1))
  let nonceD := (Config.random s.draws).take 32
  let req := openBody f role nonceR qR
  let said := leBytes 2 0 ++ leBytes 4 k ++ nonceD ++ publicOf d
  let resp := said ++ s.sign (req ++ leBytes 2 0 ++ said)
  let key := fun label => kdf (ecdh d qR) (ascii label) (nonceR ++ nonceD ++ leBytes 4 k) 32
  ({ Sess.reset with seg := f.seg, role := role, gen := s.gel.sessGen, peer := f.src, rqKey := key "GLK-RQ", rsKey := key "GLK-RS"
                     bodies := req ++ leBytes 2 0 ++ resp }, resp)

/-- OPEN. A Q_R that is no point of the curve makes the body malformed (log entry 50). -/
def State.openFrame (s : State) (f : Frame) (role : Nat) (nonceR qR : List Byte) : State :=
  s.frameIn f 2 (openBody f role nonceR qR)
    (if nonceR.length != 32 || (pointOf qR).isNone then s.countMalformed f.seg
     else if 4 ≤ (s.recentOpens f.seg).length then { s with gel := { s.gel with openLimited := sat32 s.gel.openLimited 1 } }
     else
      let s1 := s.setSeg f.seg { s.seg f.seg with opens := s.recentOpens f.seg ++ [s.mgs.tick] }
      match s.openAbort role with
      | 0 =>
        let k := s.nextSession
        let x := s.handshake f role k nonceR qR
        let s2 := (s1.setSess k x.1).draw.draw
        let s3 := { s2 with gel := { s2.gel with sessNext := k + 1 }, mgs := (s2.mgs.drbgServe).getD s2.mgs }
        s3.reply f [] ⟨0, x.2⟩ []
      | a => (s1.sessEvent 0 role s.gel.sessGen).reply f [] ⟨a, zeros 231⟩ [])

def execOpenReq (f : Frame) (role : Nat) (nonceR qR : List Byte) (s : State) : Answer :=
  guardUnit (segOk f.seg) (s.openFrame f role nonceR qR)

/-- Does AUTH grant the role? `key`: the public key in the certificate; `signer`: SHA-384 of the key that signed it. In a commissioning
session there is no certificate and SIG is zero (R283). -/
def State.granted (s : State) (c : Sess) (cert key signer sig : List Byte) : Bool :=
  !c.opened && !s.roleAway c.role &&
    if c.role == 3 then cert.isEmpty && unset sig
    else signer == (if c.role == 1 then s.gel.operAuth else s.gel.maintAuth) && ecdsaVerify key (sha384 (c.bodies ++ cert)) sig

/-- AUTH: a session that fails it ends. -/
def State.authAct (s : State) (k : Nat) (cert key signer sig : List Byte) : Served :=
  let c := s.sess k
  if s.granted c cert key signer sig then ((s.setSess k { c with opened := true }).sessEvent k c.role c.gen, ⟨0, []⟩, [])
  else (s.closeSess k, ⟨0x0D, []⟩, [])

/-- The body of an AUTH request; a certificate or signature of a wrong length leaves none that fits. -/
def authBody (cert sig : List Byte) : List Byte :=
  if cert.length ≤ 1200 && sig.length == 96 then leBytes 2 cert.length ++ cert ++ sig else zeros 1401

def execAuth (f : Frame) (cert key signer sig : List Byte) (s : State) : Answer :=
  guardUnit (segOk f.seg) (s.request f 3 (authBody cert sig) fun s => s.authAct f.pdu.session cert key signer sig)

def execClose (f : Frame) (s : State) : Answer :=
  guardUnit (segOk f.seg) (s.request f 4 [] fun s => (s.closeSess f.pdu.session, ⟨0, []⟩, []))

/-! ## Transfers (R284, R285) -/

/-- EXP_READ: of an object of up to 8 bytes. A read of EVT_RECORDS moves the session's cursor. -/
def State.expReadBy (s : State) (c : Sess) (i sub : Nat) : DResp :=
  match s.readObject c i sub with
  | .error a => ⟨a, zeros 10⟩
  | .ok (ty, v) => if 8 < v.length then ⟨7, zeros 10⟩ else ⟨0, leBytes 1 ty ++ leBytes 1 v.length ++ (v ++ zeros 8).take 8⟩

def State.expReadAct (s : State) (k i sub : Nat) : Served :=
  let c := s.sess k
  let r := s.expReadBy c i sub
  (if r.abort == 0 then s.setSess k { c with cursor := s.gel.cursorAfter c i } else s, r, [])

def execExpRead (f : Frame) (index sub : Nat) (s : State) : Answer :=
  guardUnit (segOk f.seg)
    (s.request f 0x10 (leBytes 2 index ++ leBytes 1 sub ++ leBytes 1 f.pdu.rsv) fun s => s.expReadAct f.pdu.session index sub)

/-- EXP_WRITE: SIZE bytes of DATA. A SIZE above 8 is TYPE where the object cannot have it, else TOO_LONG (R284, R290). -/
def State.expWriteAct (s : State) (k i sub size : Nat) (data : List Byte) : Served :=
  let c := s.sess k
  if 8 < size && s.accessAbort c i sub == 0 then
    (s, ⟨if (s.object c i sub).any fun o => o.fits size then 7 else 5, []⟩, [])
  else s.writeObject k i sub (data.take size)

def execExpWrite (f : Frame) (index sub size : Nat) (data : List Byte) (s : State) : Answer :=
  guardUnit (segOk f.seg)
    (s.request f 0x11 (leBytes 2 index ++ leBytes 1 sub ++ leBytes 1 size ++ (data ++ zeros 8).take 8) fun s =>
      s.expWriteAct f.pdu.session index sub size ((data ++ zeros 8).take 8))

/-- The part of a snapshot that a SEG_READ answers with. -/
def segPart (ty : Nat) (x : Xfer) (offset count : Nat) : DResp :=
  ⟨0, leBytes 1 ty ++ leBytes 1 0 ++ leBytes 4 x.total ++ (x.bytes.drop offset).take count⟩

/-- SEG_READ with the transfer its requester holds: the transfer afterwards and the answer. -/
def State.segReadBy (s : State) (c : Sess) (x : Option Xfer) (i sub offset count : Nat) : Option Xfer × DResp :=
  if count == 0 || 1024 < count then (x, ⟨6, zeros 6⟩)
  else if offset == 0 then
    match s.readObject c i sub with
    | .error a => (x, ⟨a, zeros 6⟩)
    | .ok (ty, v) => let y : Xfer := ⟨false, i, sub, v.length, v, false⟩
      (some y, segPart ty y 0 count)
  else match x with
    | none => (x, ⟨0x0A, zeros 6⟩)
    | some y =>
      if y.timedOut then (x, ⟨0x0B, zeros 6⟩)
      else if y.wr || y.index != i || y.sub != sub then (none, ⟨0x0A, zeros 6⟩)
      else (x, segPart ((s.object c i sub).map Obj.ty |>.getD 0) y offset count)

def State.segReadAct (s : State) (k i sub offset count : Nat) : Served :=
  let c := s.sess k
  let r := s.segReadBy c c.xfer i sub offset count
  let cur := if r.2.abort == 0 && offset == 0 then s.gel.cursorAfter c i else c.cursor
  (s.setSess k { c with xfer := r.1, cursor := cur }, r.2, [])

def execSegRead (f : Frame) (index sub offset count : Nat) (s : State) : Answer :=
  guardUnit (segOk f.seg)
    (s.request f 0x12 (leBytes 2 index ++ leBytes 1 sub ++ leBytes 1 f.pdu.rsv ++ leBytes 4 offset ++ leBytes 2 count) fun s =>
      s.segReadAct f.pdu.session index sub offset count)

/-- A part of a write, added to its transfer; the last one writes the object. -/
def State.addPart (s : State) (k : Nat) (x : Xfer) (data : List Byte) : Served :=
  let c := s.sess k
  let all := x.bytes ++ data
  if all.length < x.total then (s.setSess k { c with xfer := some { x with bytes := all } }, ⟨0, []⟩, [])
  else (s.setSess k { c with xfer := none }).writeObject k x.index x.sub (all.take x.total)

def State.segWriteAct (s : State) (k i sub total offset : Nat) (data : List Byte) : Served :=
  let c := s.sess k
  if 1024 < data.length then (s, ⟨6, []⟩, [])
  else if offset == 0 then
    match s.accessAbort c i sub with
    | 0 => if 65536 < total then (s, ⟨7, []⟩, []) else s.addPart k ⟨true, i, sub, total, [], false⟩ data
    | a => (s, ⟨a, []⟩, [])
  else match c.xfer with
    | none => (s, ⟨0x0A, []⟩, [])
    | some x =>
      if x.timedOut then (s, ⟨0x0B, []⟩, [])
      else if x.wr && x.index == i && x.sub == sub && x.total == total && x.bytes.length == offset then s.addPart k x data
      else (s.setSess k { c with xfer := none }, ⟨0x0A, []⟩, [])

def execSegWrite (f : Frame) (index sub total offset : Nat) (data : List Byte) (s : State) : Answer :=
  guardUnit (segOk f.seg)
    (s.request f 0x13 (leBytes 2 index ++ leBytes 1 sub ++ leBytes 1 f.pdu.rsv ++ leBytes 4 total ++ leBytes 4 offset ++ data) fun s =>
      s.segWriteAct f.pdu.session index sub total offset data)

/-! ## Operations of an open session without their frame (log entry 37) -/

/-- A write by session `k`. Fields that wait for the answer to leave wait with a response on the session's segment. -/
def State.sessionWrite (s : State) (k i sub : Nat) (d : List Byte) : State :=
  let c := s.sess k
  if !c.opened || s.requestsWait then s
  else
    let r := s.writeObject k i sub d
    if r.2.2.isEmpty then r.1 else r.1.queueFrame c.seg ⟨k, c.hi, r.2.1, r.2.2, 0x11, c.peer, c.rsKey⟩

def execApply (session index : Nat) (s : State) : Answer := guardUnit true (s.sessionWrite session index 0xFF [1])
def execObjectWrite (session index sub : Nat) (data : List Byte) (s : State) : Answer :=
  guardUnit true (s.sessionWrite session index sub data)
def execRekey (session value : Nat) (s : State) : Answer := guardUnit true (s.sessionWrite session 0x1121 4 (leBytes 1 value))
def execSvnCommit (session value : Nat) (s : State) : Answer := guardUnit true (s.sessionWrite session 0x8002 3 (leBytes 4 value))
def execMaintAuth (session : Nat) (digest : List Byte) (s : State) : Answer := guardUnit true (s.sessionWrite session 0x8010 1 digest)
def execBedReenable (session bed value : Nat) (s : State) : Answer :=
  guardUnit (bedOk bed) (s.sessionWrite session (0x3000 + bed) 7 (leBytes 1 value))
def execBorderRestart (session value : Nat) (s : State) : Answer := guardUnit true (s.sessionWrite session 0x6000 4 (leBytes 1 value))
def execFullTest (session value : Nat) (s : State) : Answer := guardUnit true (s.sessionWrite session 0x6000 5 (leBytes 1 value))
def execFuseBurn (session value : Nat) (s : State) : Answer := guardUnit true (s.sessionWrite session 0x6020 4 (leBytes 1 value))
def execFwChunk (session : Nat) (data : List Byte) (s : State) : Answer := guardUnit true (s.sessionWrite session 0xF010 3 data)
def execFwVerify (session value : Nat) (s : State) : Answer := guardUnit true (s.sessionWrite session 0xF010 4 (leBytes 1 value))
def execFwSwitch (session value : Nat) (s : State) : Answer := guardUnit true (s.sessionWrite session 0xF010 6 (leBytes 1 value))

/-- DEBUG_TOKEN, with the verdict on the token and the ticks it is valid for, and the debug requests that come with it (log entry 10). -/
def execDebugToken (session : Nat) (valid : Bool) (validTicks : Nat) (reach : List DebugTarget) (s : State) : Answer :=
  guardUnit true
    (if (s.sess session).opened && !s.requestsWait && s.accessAbort (s.sess session) 0x8011 0 == 0 then
      reach.foldl State.debugRequest (s.takeToken (if valid then validTicks else 0)).1
     else s)

def execDebugTokenExpiry (s : State) : Answer := guardUnit true { s with mgs := { s.mgs with debugTicks := 0 } }

/-- EVT_RECORDS: the records are the session's snapshot. -/
def execEvtRecords (session : Nat) (s : State) : Answer :=
  guardUnit true (if (s.sess session).opened && !s.requestsWait then (s.segReadAct session 0x7001 0 0 1024).1 else s)

/-! ## Expiries (R278, R281, R285) -/

def execSessionIdleExpiry (session : Nat) (s : State) : Answer :=
  guardUnit true (if (s.sess session).opened then s.closeSess session else s)

def execSessionAuthTimeout (session : Nat) (s : State) : Answer :=
  guardUnit true (if (s.sess session).opened then s else s.closeSess session)

def Xfer.late (x : Xfer) : Xfer := { x with timedOut := true, bytes := [] }

def execSegTransferTimeout (session : Nat) (s : State) : Answer :=
  guardUnit true (let c := s.sess session
    s.setSess session { c with xfer := c.xfer.map Xfer.late })

/-! ## The segments (R273, R274) -/

/-- The first queued frame leaves; what waited for it takes effect. -/
def State.sendOne (s : State) (n : Nat) : State :=
  match (s.seg n).txq with
  | [] => s
  | f :: fs =>
    ((s.setSeg n { s.seg n with txq := fs, attempts := 0, backoff := false }).emit (.frame n f.session f.seq f.resp (s.frameBytes n f))).putFields f.due

def State.sendMany (s : State) (n : Nat) : Nat → State
  | 0 => s
  | k + 1 => (s.sendOne n).sendMany n k

/-- TRANSMIT_OPPORTUNITY: 1 + MAX_BURST frames in PLCA; in CSMA/CD the medium is free for one frame (log entry 38). -/
def State.transmit (s : State) (n : Nat) : State :=
  let g := s.seg n
  if !s.gelOn then s
  else if g.mode == 0 then s.sendMany n (1 + g.maxBurst)
  else if g.mode == 1 && !g.backoff then s.sendOne n else s

def execTransmitOpportunity (seg : Nat) (s : State) : Answer := guardUnit (segOk seg) (s.transmit seg)

/-- Back to PLCA (R274). -/
def Seg.toPlca (g : Seg) : Seg :=
  if g.mode == 1 && g.plcaEn then { g with mode := 0, modeChanges := sat32 g.modeChanges 1, attempts := 0, backoff := false } else g

def execPlcaBeacon (seg : Nat) (s : State) : Answer :=
  guardUnit (segOk seg) (if s.gelOn then s.setSeg seg (s.seg seg).toPlca else s)

/-- PLCA_LOSS_EXPIRY; a coordinator sees its own beacons. -/
def Seg.toCsma (g : Seg) : Seg :=
  if g.mode == 0 && g.node != 0 then { g with mode := 1, modeChanges := sat32 g.modeChanges 1 } else g

def execPlcaLossExpiry (seg : Nat) (s : State) : Answer :=
  guardUnit (segOk seg) (if s.gelOn then s.setSeg seg (s.seg seg).toCsma else s)

/-- A failed attempt in CSMA/CD: a backoff, or after 16 attempts the frame is dropped. -/
def Seg.collide (g : Seg) : Seg :=
  let h := { g with csmaColl := sat32 g.csmaColl 1 }
  if g.txq.isEmpty then h
  else if 16 ≤ g.attempts + 1 then { h with txq := h.txq.tail, attempts := 0, backoff := false, txDropped := sat32 h.txDropped 1 }
  else { h with attempts := g.attempts + 1, backoff := true }

/-- The fields that wait for a dropped frame wait for the response to be sent again (R280, R289). -/
def State.holdFields (s : State) (f : TxFrame) : State :=
  let c := s.sess f.session
  if f.due.isEmpty || !c.opened then s else s.setSess f.session { c with unsent := c.unsent ++ [(f.seq, f.due)] }

/-- A failed attempt on segment `n`. -/
def State.collide (s : State) (n : Nat) : State :=
  let g := s.seg n
  let s1 := s.setSeg n g.collide
  match g.txq with
  | f :: _ => if 16 ≤ g.attempts + 1 then s1.holdFields f else s1
  | [] => s1

/-- CSMA_BACKOFF_EXPIRY: the frame is tried again. -/
def State.backoffOver (s : State) (n : Nat) (collides : Bool) : State :=
  let g := s.seg n
  if !(g.mode == 1 && g.backoff) then s
  else if collides then s.collide n else s.sendOne n

def execCsmaBackoffExpiry (seg : Nat) (collides : Bool) (s : State) : Answer :=
  guardUnit (segOk seg) (if s.gelOn then s.backoffOver seg collides else s)

/-- PHYSICAL_COLLISION: in PLCA mode the frame waits for the next opportunity. -/
def State.collision (s : State) (n : Nat) : State :=
  let g := s.seg n
  match g.mode with
  | 0 => s.setSeg n { g with plcaColl := sat32 g.plcaColl 1 }
  | 1 => s.collide n
  | _ => s

def execPhysicalCollision (seg : Nat) (s : State) : Answer :=
  guardUnit (segOk seg) (if s.gelOn then s.collision seg else s)

/-- COORDINATOR_BEACON, with node ID 0: the beacon also brings the segment itself back to PLCA. -/
def State.beacon (s : State) (n : Nat) : State :=
  let g := s.seg n
  if s.gelOn && g.node == 0 && g.plcaEn then (s.setSeg n g.toPlca).emit (.beacon n) else s

def execCoordinatorBeacon (seg : Nat) (s : State) : Answer := guardUnit (segOk seg) (s.beacon seg)

/-! ## Hosts over MCTP (R294) -/

/-- The view of port `h`. -/
def State.inView (s : State) (h i sub : Nat) : Bool :=
  i == 0x1000 || (i == 0x4000 && sub == 4) || i == 0x5200 + h || (0x5100 ≤ i && i < 0x5140 && s.owns h (i - 0x5100))

/-- A host reads an object of its view; it has no access to RWM objects (R288). -/
def State.hostSees (s : State) (h i sub : Nat) : Bool :=
  s.inView h i sub && (s.object Sess.reset i sub).all fun o => o.acc != .rwm

/-- The body length of a read request. -/
def readLen (kind : Nat) : Nat := if kind == 0x10 then 4 else 10

/-- MCTP_GELOKAN_REQUEST: reads within the view; every other kind is answered with ROLE. A PDU of a reserved kind, with a reserved bit, a
SESSION or a LEN that does not fit is dropped; the segments' MALFORMED counts frames alone (log entry 49). -/
def State.mctpRequest (s : State) (h : Nat) (u : Pdu) (i sub offset count : Nat) : State :=
  let q := s.port h
  let say := fun (s : State) (r : DResp) => s.emit (.mctpGelokan h u.seq r)
  let isRead := u.kind == 0x10 || u.kind == 0x12
  if u.verDir != 1 || u.rsv != 0 || u.session != 0 || (isRead && u.len != readLen u.kind) then s
  else if u.kind == 0x10 then say s (if s.hostSees h i sub then s.expReadBy Sess.reset i sub else ⟨1, zeros 10⟩)
  else if u.kind == 0x12 then
    if s.hostSees h i sub then
      let r := s.segReadBy Sess.reset q.mctpXfer i sub offset count
      say (s.setPort h { q with mctpXfer := r.1 }) r.2
    else say s ⟨1, zeros 6⟩
  else if [1, 2, 3, 4, 0x11, 0x13].contains u.kind then say s ⟨4, []⟩ else s

def execMctpGelokanRequest (port : Nat) (pdu : Pdu) (index sub offset count : Nat) (fromRoot : Bool) (s : State) : Answer :=
  guardUnit (portOk port) (s.unlessHeld s.requestsWait (s.control port fromRoot (s.mctpRequest port pdu index sub offset count)))

end Sys2Proof.Machine
end

