-- ==== Sys2Proof/Machine/Elem.lean ====
section
/-!
DEFINITION. The correctly rounded functions of the element program (R84): exp, ln, 2^x, log2, tanh, erf. Each is enclosed
between two fixed-point numbers of `p` fraction bits; when both ends round to one FP32 word, that word is the correctly
rounded result, otherwise the precision is doubled (log entry 12).
-/
namespace Sys2Proof.Machine

/-- x · y / 2^p, rounded down. -/
def fxMul (p : Nat) (x y : Int) : Int := (x * y).fdiv (2 ^ p)

/-- Σ 1/((2k+1)·b^(2k+1)) for k below n, or alternating: atanh(1/b) or atan(1/b), with `p` fraction bits. -/
def invSeries (alt : Bool) (b : Nat) : Nat → Nat → Nat → Int → Int
  | 0, _, _, acc => acc
  | n + 1, k, pw, acc =>
    let t : Int := Int.ofNat (pw / (2 * k + 1))
    invSeries alt b n (k + 1) (pw / (b * b)) (if alt && k % 2 == 1 then acc - t else acc + t)

/-- ln 2. -/
def ln2Fx (p : Nat) : Int := 2 * invSeries false 3 (p / 3 + 8) 0 (2 ^ p / 3) 0

/-- π, by Machin's formula. -/
def piFx (p : Nat) : Int :=
  16 * invSeries true 5 (p / 4 + 8) 0 (2 ^ p / 5) 0 - 4 * invSeries true 239 (p / 15 + 8) 0 (2 ^ p / 239) 0

/-- e^r − 1 by its Taylor series, `n` terms from term k; `t` is the term r^(k−1)/(k−1)!. -/
def expm1Series (p : Nat) (r : Int) : Nat → Nat → Int → Int → Int
  | 0, _, _, acc => acc
  | n + 1, k, t, acc =>
    let t' := (fxMul p t r).fdiv (Int.ofNat k)
    expm1Series p r n (k + 1) t' (acc + t')

/-- atanh z = Σ z^(2k+1)/(2k+1), `n` terms. -/
def atanhSeries (p : Nat) (z2 : Int) : Nat → Nat → Int → Int → Int
  | 0, _, _, acc => acc
  | n + 1, k, t, acc => atanhSeries p z2 n (k + 1) (fxMul p t z2) (acc + t.fdiv (Int.ofNat (2 * k + 1)))

/-- Σ (−1)^k x^(2k+1)/(k!·(2k+1)), `n` terms; `t` is x^(2k+1)/k!. -/
def erfSeries (p : Nat) (x2 : Int) : Nat → Nat → Int → Int → Int
  | 0, _, _, acc => acc
  | n + 1, k, t, acc =>
    let u := t.fdiv (Int.ofNat (2 * k + 1))
    erfSeries p x2 n (k + 1) ((fxMul p t x2).fdiv (Int.ofNat (k + 1))) (if k % 2 == 0 then acc + u else acc - u)

/-- A finite value as a fixed-point number, rounded down. -/
def toFx (p : Nat) (neg : Bool) (m : Nat) (e : Int) : Int :=
  let a : Int := if e + Int.ofNat p ≥ 0 then Int.ofNat (m * pow2 (e + Int.ofNat p)) else Int.ofNat (m / pow2 (-(e + Int.ofNat p)))
  if neg then -a else a

/-- An enclosure: lo · 2^e ≤ f ≤ hi · 2^e. -/
structure Encl where
  lo : Int
  hi : Int
  e : Int
  deriving DecidableEq, Repr

/-- v ± the error of the series, which is below 2^24 units (every series has fewer than 2^20 truncations of at most a few
units). -/
def encl (p : Nat) (v : Int) (e : Int) : Encl := ⟨v - 2 ^ 24, v + 2 ^ 24, e - Int.ofNat p⟩

/-- e^x from fixed point: 2^k · (1 + s) with s = e^r − 1, r = x − k·ln 2 in [0, ln 2]. -/
def expFx (p : Nat) (x : Int) : Int × Int :=
  let l := ln2Fx p
  let k := x.fdiv l
  let r := x - k * l
  (expm1Series p r (p / 2 + 24) 1 (2 ^ p) 0, k)

def expEncl (p : Nat) (neg : Bool) (m : Nat) (e : Int) : Encl :=
  let r := expFx p (toFx p neg m e)
  encl p (2 ^ p + r.1) r.2

def exp2Encl (p : Nat) (neg : Bool) (m : Nat) (e : Int) : Encl :=
  let x := toFx p neg m e
  let k := x.fdiv (2 ^ p)
  let r := fxMul p (x - k * 2 ^ p) (ln2Fx p)
  encl p (2 ^ p + expm1Series p r (p / 2 + 24) 1 (2 ^ p) 0) k

/-- ln of f · 2^k with f in [1, 2) as f = m / 2^log2 m; f is halved above √2 ≈ 1.4. -/
def lnFx (p : Nat) (m : Nat) (e : Int) : Int :=
  let n := Nat.log2 m
  let f := Int.ofNat (m * 2 ^ p / 2 ^ n)
  let k := e + Int.ofNat n
  let big := decide (f * 5 > 7 * 2 ^ p)
  let f' := if big then f.fdiv 2 else f
  let k' := if big then k + 1 else k
  let z := ((f' - 2 ^ p) * 2 ^ p).fdiv (f' + 2 ^ p)
  2 * atanhSeries p (fxMul p z z) (p / 4 + 16) 0 z 0 + k' * ln2Fx p

def lnEncl (p : Nat) (_neg : Bool) (m : Nat) (e : Int) : Encl := encl p (lnFx p m e) 0

def log2Encl (p : Nat) (_neg : Bool) (m : Nat) (e : Int) : Encl :=
  let l := ln2Fx p
  ⟨((lnFx p m e - 2 ^ 24) * 2 ^ p).fdiv l - 2 ^ 36, ((lnFx p m e + 2 ^ 24) * 2 ^ p).fdiv l + 2 ^ 36, -Int.ofNat p⟩

/-- tanh of a magnitude: (E − 1)/(E + 1) with E = e^(2x). -/
def tanhEncl (p : Nat) (neg : Bool) (m : Nat) (e : Int) : Encl :=
  if magGe m e 32 0 then
    if neg then ⟨1 - 2 ^ p, 2 ^ (p - 60) - 2 ^ p, -Int.ofNat p⟩ else ⟨2 ^ p - 2 ^ (p - 60), 2 ^ p - 1, -Int.ofNat p⟩
  else
    let r := expFx p (toFx p false m (e + 1))
    let num := (2 ^ p + r.1) * 2 ^ r.2.toNat - 2 ^ p
    let t := (num * 2 ^ p).fdiv (num + 2 * 2 ^ p)
    let w : Int := 2 ^ 26
    if neg then ⟨-(t + w), -(t - w), -Int.ofNat p⟩ else ⟨t - w, t + w, -Int.ofNat p⟩

/-- erf of a magnitude: 2/√π times its series; beyond 8 it lies within 2^-60 of 1. -/
def erfEncl (p : Nat) (neg : Bool) (m : Nat) (e : Int) : Encl :=
  if magGe m e 8 0 then
    if neg then ⟨1 - 2 ^ p, 2 ^ (p - 60) - 2 ^ p, -Int.ofNat p⟩ else ⟨2 ^ p - 2 ^ (p - 60), 2 ^ p - 1, -Int.ofNat p⟩
  else
    let g := p + 128
    let x := toFx g false m e
    let s := erfSeries g (fxMul g x x) (g / 2 + 240) 0 x 0
    let rootPi := Int.ofNat (isqrt ((piFx g).toNat * 2 ^ g))
    let t := (2 * s * 2 ^ g).fdiv rootPi
    let w : Int := 2 ^ 120
    if neg then ⟨-(t + w), -(t - w), -Int.ofNat g⟩ else ⟨t - w, t + w, -Int.ofNat g⟩

/-- Round an end of an enclosure to FP32. -/
def roundEnd (v : Int) (e : Int) : W32 × Flags :=
  round32 (decide (v < 0)) v.natAbs e

/-- Double the precision until both ends round to one word; after `n` doublings take the lower end (log entry 12). -/
def settle (f : Nat → Encl) : Nat → Nat → W32 × Flags
  | 0, p => roundEnd (f p).lo (f p).e
  | n + 1, p =>
    let c := f p
    let a := roundEnd c.lo c.e
    let b := roundEnd c.hi c.e
    if a == b then a else settle f n (2 * p)

/-- Bits to start from: more for arguments near 0. -/
def startBits (m : Nat) (e : Int) : Nat :=
  let t := e + Int.ofNat (Nat.log2 m)
  128 + 2 * (if t < 0 then (-t).toNat else 0)

/-- e^a (R84). -/
def exp32 (a : W32) : W32 × Flags :=
  match val32 a with
  | .nan => (nan32, 0)
  | .inf neg => (if neg then 0 else inf32 false, 0)
  | .fin neg m e =>
    if m == 0 then (0x3F800000, 0)
    else if magGe m e 256 0 then (if neg then (0, fUnderflow ||| fInexact) else (inf32 false, fOverflow ||| fInexact))
    else settle (fun p => expEncl p neg m e) 8 (startBits m e)

/-- 2^a (R84). -/
def exp232 (a : W32) : W32 × Flags :=
  match val32 a with
  | .nan => (nan32, 0)
  | .inf neg => (if neg then 0 else inf32 false, 0)
  | .fin neg m e =>
    if m == 0 then (0x3F800000, 0)
    else if magGe m e 256 0 then (if neg then (0, fUnderflow ||| fInexact) else (inf32 false, fOverflow ||| fInexact))
    else if e ≥ 0 || m % pow2 (-e) == 0 then
      round32 false 1 (let k := toFx 0 false m e; if neg then -k else k)
    else settle (fun p => exp2Encl p neg m e) 8 (startBits m e)

/-- ln a (R84): ln ±0 is −infinity with DIVZERO, a negative argument INVALID (IEEE 754-2019). -/
def log32 (a : W32) : W32 × Flags :=
  match val32 a with
  | .nan => (nan32, 0)
  | .inf neg => if neg then (nan32, fInvalid) else (inf32 false, 0)
  | .fin neg m e =>
    if m == 0 then (inf32 true, fDivZero)
    else if neg then (nan32, fInvalid)
    else if a == 0x3F800000 then (0, 0)
    else settle (fun p => lnEncl p neg m e) 8 128

/-- log2 a (R84). -/
def log232 (a : W32) : W32 × Flags :=
  match val32 a with
  | .nan => (nan32, 0)
  | .inf neg => if neg then (nan32, fInvalid) else (inf32 false, 0)
  | .fin neg m e =>
    if m == 0 then (inf32 true, fDivZero)
    else if neg then (nan32, fInvalid)
    else if m == 2 ^ Nat.log2 m then
      let k := e + Int.ofNat (Nat.log2 m)
      round32 (decide (k < 0)) k.natAbs 0
    else settle (fun p => log2Encl p neg m e) 8 128

/-- tanh a (R84). -/
def tanh32 (a : W32) : W32 × Flags :=
  match val32 a with
  | .nan => (nan32, 0)
  | .inf neg => (if neg then 0xBF800000 else 0x3F800000, 0)
  | .fin neg m e =>
    if m == 0 then (zero32 neg, 0) else settle (fun p => tanhEncl p neg m e) 8 (startBits m e)

/-- erf a (R84). -/
def erf32 (a : W32) : W32 × Flags :=
  match val32 a with
  | .nan => (nan32, 0)
  | .inf neg => (if neg then 0xBF800000 else 0x3F800000, 0)
  | .fin neg m e =>
    if m == 0 then (zero32 neg, 0) else settle (fun p => erfEncl p neg m e) 8 (startBits m e)

/-- 1 / a (R84). -/
def rcp32 (a : W32) : W32 × Flags := div32 0x3F800000 a

/-- An element operation's result and exception bits from its EOP and operands a, b, c (R84). -/
def elemOp (eop : Nat) (a b c : W32) : W32 × Flags :=
  match eop with
  | 0x00 => (if isNan32 a then nan32 else a, 0)
  | 0x01 => add32 a b
  | 0x02 => sub32 a b
  | 0x03 => mul32 a b
  | 0x04 => fma32 a b c
  | 0x05 => div32 a b
  | 0x06 => (max32 a b, 0)
  | 0x07 => (min32 a b, 0)
  | 0x08 => (if isNan32 a then nan32 else abs32 a, 0)
  | 0x09 => (if isNan32 a then nan32 else neg32 a, 0)
  | 0x0A => exp32 a
  | 0x0B => log32 a
  | 0x0C => exp232 a
  | 0x0D => log232 a
  | 0x0E => rcp32 a
  | 0x0F => sqrt32 a
  | 0x10 => rsqrt32 a
  | 0x11 => tanh32 a
  | 0x12 => erf32 a
  | 0x13 => (if lt32 a b then 0x3F800000 else 0, 0)
  | 0x14 => (if eq32 a b then 0x3F800000 else 0, 0)
  | 0x15 =>
    let v := if eq32 c 0 then b else a
    (if isNan32 v then nan32 else v, 0)
  | _ => (0, 0)

end Sys2Proof.Machine
end

