-- ==== Sys2Proof/Machine/Matrix.lean ====
section
/-!
DEFINITION. The MATRIX and MOVE slots and the insertion of an MMA's leaves (R48, R67-R81, R89, R22, R26, R42).
-/
namespace Sys2Proof.Machine

/-! ## Checks -/

/-- A MATRIX slot finds the matrix engine busy, or a VACC running (R51, R81). -/
def Core.matrixBusy (c : Core) (d : Nat) : Bool := decide (d < c.matrixFree) || decide (d < c.vaccFree)

/-- Cause codes of R60. -/
def unitBusy : Nat := 1
def ringEmpty : Nat := 4
def nodeMismatch : Nat := 9

/-- The source range of a slot read: its units and the ring it retires, or the cause that stops it. -/
def Core.source (c : Core) (d per a n : Nat) : Core × List Nat × Option Nat × Nat :=
  match c.readRange a n with
  | none => (c, [], none, ringEmpty)
  | some r =>
    match c.claim d per r.1 with
    | none => (c, [], none, unitBusy)
    | some c1 => (c1, r.1, r.2, 0)

/-! ## MLOAD (R70) -/

def State.mload (s : State) (sa x y : Nat) (c : Core) (w : W64) (d : Nat) (ecc : ReadEcc) : State :=
  let a := c.eff (fld w 47 36) (fld w 35 26)
  if c.matrixBusy d then slotFault s sa x y c unitBusy d
  else
    match c.source d 16 a 256 with
    | (c1, us, ring, 0) =>
      match eccFails ecc us with
      | some u => (s.fire sa x y d c).scratchUe sa x y c.slot d u
      | none =>
        let img := unitBytes c.scratch us
        (s.fire sa x y d ({ c1 with resident := SMap.putAll 0 [] 0 img, matrixFree := d + 16 }.noteRetire (d + 15) ring)).scratchCe
          sa x y (eccFixes ecc us)
    | (_, _, _, cause) => slotFault s sa x y c cause d

def execMload (sa x y : Nat) (ecc : ReadEcc) (s : State) : Answer :=
  guardUnit (coreOk sa x y) (s.withSlot sa x y 2 0 fun s c w d => s.mload sa x y c w d ecc)

/-! ## MMA (R71, R73, R74) -/

/-- Occupancy of an MMA (R48). -/
def Prof.occupancy (p : Prof) : Nat := ceilDiv p.klen (macRate p.fmtA)
/-- Units of the moving image, and of the scale area (R71). -/
def Prof.moveUnits (p : Prof) : Nat := ceilDiv (16 * p.klen * fmtBits p.fmtA) 128
def Prof.scaleUnits (p : Prof) : Nat :=
  2 * ceilDiv p.klen 16 * (bit (scFmt p.scaleA != 0) + bit (scFmt p.scaleB != 0))
/-- Units of the moving image read a cycle (R67). -/
def readRate (f : Nat) : Nat := if f == 5 || f == 6 then 3 else 2

/-- The scale area's units an MMA reads (R71): none when neither operand is scaled. -/
def Core.scaleRange (c : Core) (a : Nat) (p : Prof) : Option (List Nat × Option Nat) :=
  if p.scaleUnits == 0 then some ([], none) else c.readRange a p.scaleUnits

/-- Claims of an MMA's scale reads, issued in `d`: the slots of a granule in the fire cycle that handles its first k (DESIGN CHOICE,
log entry 57: R71 says "during the MMA"). -/
def scaleClaims (p : Prof) (d : Nat) (us : List Nat) : List Claim :=
  let g := ceilDiv p.klen 16
  (List.range g).map fun q =>
    ⟨d + 16 * q / macRate p.fmtA, 4, (us.drop (2 * q)).take 2 ++ (us.drop (2 * g + 2 * q)).take 2⟩

/-- Is the scale of output (i, n) for the block that begins at `k` a NaN scale, on either side (R22)? -/
def nanScaleAt (p : Prof) (scl : Nat → Byte) (i n k : Nat) : Bool :=
  let skip := if scFmt p.scaleA == 0 then 0 else 32 * ceilDiv p.klen 16
  (scaleAt p.scaleA scl i k).isNone || (scaleAt p.scaleB (fun b => scl (skip + b)) n k).isNone

/-- The leaves of all outputs (R24-R27). -/
def allLeaves (p : Prof) (mov res scl : Nat → Byte) : List (List (W32 × Flags × Nat)) :=
  positions.map fun q => outputLeaves p mov res scl q.1 q.2

/-- Fire cycle in which a leaf with last index `k` is formed, for an MMA issued in `d` (R74). -/
def leafCycle (p : Prof) (d k : Nat) : Nat := d + ceilDiv (k + 1) (macRate p.fmtA) - 1

/-- The trapping events of an MMA's leaves (R42, R43): a leaf that raises INVALID, in the fire cycle in which it is formed; source
4 where a NaN scale was decoded, else 0. -/
def leafEvents (c : Core) (p : Prof) (scl : Nat → Byte) (tens it slot d : Nat) (ls : List (List (W32 × Flags × Nat))) :
    List TrapEvent :=
  (positions.zip ls).flatMap fun q =>
    (q.2.zipIdx.filter fun l => isInvalid l.1.2.1).map fun l =>
      let k0 := l.2 * blockLen p.fmtA p.scaleA p.scaleB
      let src := if nanScaleAt p scl q.1.1 q.1.2 k0 then 4 else 0
      c.eventAt tens it (leafCycle p d l.1.2.2) src 0 slot q.1.1 q.1.2

def State.mma (s : State) (sa x y : Nat) (c : Core) (w : W64) (d : Nat) (ecc : ReadEcc) : State :=
  let p := profOf (c.profW (fld w 23 22))
  let occ := p.occupancy
  let tens := fld w 4 0
  if c.matrixBusy d then slotFault s sa x y c unitBusy d
  else
    match c.readRange (c.eff (fld w 47 36) (fld w 19 10)) p.moveUnits, c.scaleRange (c.eff (fld w 35 24) (2 * fld w 9 5)) p with
    | some mv, some sc =>
      match c.claimAll d (⟨d, readRate p.fmtA, mv.1⟩ :: scaleClaims p d sc.1) with
      | none => slotFault s sa x y c unitBusy d
      | some c1 =>
        match eccFails ecc (mv.1 ++ sc.1) with
        | some u => (s.fire sa x y d c).scratchUe sa x y c.slot d u
        | none =>
          let scl := imageByte c.scratch sc.1
          let ls := allLeaves p (imageByte c.scratch mv.1) (fun b => SMap.look 0 c.resident b) scl
          let fl := orFlags (ls.map fun l => orFlags (l.map fun v => v.2.1))
          let pend : MmaPend :=
            { due := d + occ + 5, issued := d, slot := c.slot, tens := tens, it := c.it, start := fld w 21 20 == 1,
              leaves := ls.map fun l => l.map (·.1),
              cycles := (nth [] ls 0).map fun v => leafCycle p d v.2.2 + 6
              profile := c.profW (fld w 23 22), moving := unitBytes c.scratch mv.1 }
          let c2 := ({ c1 with mmaPend := c.mmaPend ++ [pend], matrixFree := d + occ, accOpenTo := d + occ + 5 }.raise fl)
          let c3 := (c2.noteRetire (d + occ - 1) mv.2).noteRetire (d + occ - 1) sc.2
          let s1 := (s.fire sa x y d c3).scratchCe sa x y (eccFixes ecc (mv.1 ++ sc.1))
          if s.trapMode sa == 0 then s1 else s1.trap sa x y d (leafEvents c p scl tens c.it c.slot d ls)
    | _, _ => slotFault s sa x y c ringEmpty d

def execMma (sa x y : Nat) (ecc : ReadEcc) (s : State) : Answer :=
  guardUnit (coreOk sa x y) (s.withSlot sa x y 2 1 fun s c w d => s.mma sa x y c w d ecc)

/-! ## The accumulator store -/

/-- What a read of the store in fire cycle `d` finds (R51): within 6 fire cycles after an MMA's occupancy the values read are
undefined, so entries and pending maps are free values (log entry 7). -/
def State.accColumns (s : State) (c : Core) (d : Nat) : List Column :=
  if d ≤ c.accOpenTo ∧ c.accOpenTo ≠ 0 then
    (List.range 256).map fun o =>
      ⟨(List.range 16).map fun m => Config.freeValue (s.draws + 17 * o + m),
       (Config.freeValue (s.draws + 17 * o + 16)).setWidth 16⟩
  else (List.range 256).map c.column

/-- The draws that read made. -/
def State.accDraws (s : State) (c : Core) (d : Nat) : Nat :=
  if d ≤ c.accOpenTo ∧ c.accOpenTo ≠ 0 then s.draws + 4352 else s.draws

/-- A result due in fire cycle `due` can come: the array fires that cycle, and no older result of it comes first. -/
def State.resultReady (s : State) (sa due : Nat) : Bool := (s.arr sa).runs due && s.reachable sa due

def execMmaLeafInsert (sa x y : Nat) (s : State) : Answer :=
  guardUnit (coreOk sa x y)
    (match (s.core (coreKey sa x y)).mmaPend with
     | [] => s
     | m :: _ =>
       if s.resultReady sa m.due then
         let s1 := s.pass sa m.due
         if (s1.arr sa).runs m.due then
           match (s1.core (coreKey sa x y)).mmaPend with
           | m1 :: rest => (s1.insertMma sa x y m1 rest m1.cycles.length).latch sa
           | [] => s1
         else s1
       else s)

/-! ## MDRAIN, MNODE (R77, R78) -/

/-- The trapping events of 256 folded results (R42): nodes that raise INVALID, source 1; in mode 2 NaN words written, source 5.
Row i of the tile is handled in fire cycle d + i. -/
def foldEvents (c : Core) (mode tens it slot d : Nat) (rs : List (W32 × Flags)) : List TrapEvent :=
  (positions.zip rs).filterMap fun q =>
    let e := fun src => some (c.eventAt tens it (d + q.1.1) src 0 slot q.1.1 q.1.2)
    if isInvalid q.2.2 then e 1 else if mode == 2 && isNan32 q.2.1 then e 5 else none

def State.mdrain (s : State) (sa x y : Nat) (c : Core) (w : W64) (d : Nat) : State :=
  let toScratch := bitOf w 47
  let treg := fld w 46 44
  let a := c.eff (fld w 43 32) (fld w 31 22)
  if c.matrixBusy d || (!toScratch && c.tileBusy d [treg]) then slotFault s sa x y c unitBusy d
  else
    match (if toScratch then c.claim d 4 ((List.range 64).map fun i => (a + i) % 4096) else some c) with
    | none => slotFault s sa x y c unitBusy d
    | some c1 =>
      let rs := (s.accColumns c d).map foldColumn
      let ws := rs.map (·.1)
      let c2 := if toScratch then { c1 with scratch := writeUnits c1.scratch a (ws.flatMap fun v => leBytes 4 v.toNat) }
        else ({ c1 with tiles := writeTiles c1.tiles (tileWrites treg ws) }.holdTiles (d + 16) [treg])
      let c3 := Core.raise { c2 with pend := [], matrixFree := d + 16 } (orFlags (rs.map Prod.snd))
      let s1 := { s with draws := s.accDraws c d }.fire sa x y d c3
      let mode := s.trapMode sa
      if mode == 0 then s1 else s1.trap sa x y d (foldEvents c mode (fld w 21 17) c.it c.slot d rs)

def execMdrain (sa x y : Nat) (s : State) : Answer :=
  guardUnit (coreOk sa x y) (s.withSlot sa x y 2 2 fun s c w d => s.mdrain sa x y c w d)

def State.mnode (s : State) (sa x y : Nat) (c : Core) (w : W64) (d : Nat) : State :=
  let treg := fld w 47 45
  let level := fld w 44 41
  if c.matrixBusy d || c.tileBusy d [treg] then slotFault s sa x y c unitBusy d
  else
    let cols := s.accColumns c d
    if cols.any fun v => v.pend.toNat % 2 ^ level != 0 then
      slotFault { s with draws := s.accDraws c d } sa x y c nodeMismatch d
    else
      let rs := (positions.zip cols).map fun q => insertNode q.2 (tileWord c.tiles treg q.1.1 q.1.2) level (16 - level)
      let c1 := (Core.setColumns { c with matrixFree := d + 16 } (rs.map Prod.fst)).holdTiles (d + 16) [treg]
      let s1 := { s with draws := s.accDraws c d }.fire sa x y d (c1.raise (orFlags (rs.map Prod.snd)))
      if s.trapMode sa == 0 then s1
      else s1.trap sa x y d ((positions.zip rs).filterMap fun q =>
        if isInvalid q.2.2 then some (c.eventAt (fld w 40 36) c.it (d + q.1.1) 1 0 c.slot q.1.1 q.1.2) else none)

def execMnode (sa x y : Nat) (s : State) : Answer :=
  guardUnit (coreOk sa x y) (s.withSlot sa x y 2 3 fun s c w d => s.mnode sa x y c w d)

/-! ## MOVE (R48) -/

def State.tload (s : State) (sa x y : Nat) (c : Core) (w : W64) (d : Nat) (ecc : ReadEcc) : State :=
  let treg := fld w 47 45
  if decide (d < c.moveFree) || c.tileBusy d [treg] then slotFault s sa x y c unitBusy d
  else
    match c.source d 4 (fld w 44 33) 64 with
    | (c1, us, ring, 0) =>
      match eccFails ecc us with
      | some u => (s.fire sa x y d c).scratchUe sa x y c.slot d u
      | none =>
        let ws := (unitBytes c.scratch us).zipIdx.map fun p => (1024 * treg + p.2, p.1)
        (s.fire sa x y d
          (({ c1 with tiles := writeTiles c.tiles ws, moveFree := d + 16 }.holdTiles (d + 16) [treg]).noteRetire (d + 15)
            ring)).scratchCe sa x y (eccFixes ecc us)
    | (_, _, _, cause) => slotFault s sa x y c cause d

def execTload (sa x y : Nat) (ecc : ReadEcc) (s : State) : Answer :=
  guardUnit (coreOk sa x y) (s.withSlot sa x y 3 0 fun s c w d => s.tload sa x y c w d ecc)

def State.tstore (s : State) (sa x y : Nat) (c : Core) (w : W64) (d : Nat) : State :=
  let treg := fld w 47 45
  let a := fld w 44 33
  if decide (d < c.moveFree) || c.tileBusy d [treg] then slotFault s sa x y c unitBusy d
  else
    match c.claim d 4 ((List.range 64).map fun i => (a + i) % 4096) with
    | none => slotFault s sa x y c unitBusy d
    | some c1 =>
      s.fire sa x y d
        ({ c1 with scratch := writeUnits c.scratch a (SMap.span 0 c.tiles (1024 * treg) 1024), moveFree := d + 16 }.holdTiles
          (d + 16) [treg])

def execTstore (sa x y : Nat) (s : State) : Answer :=
  guardUnit (coreOk sa x y) (s.withSlot sa x y 3 1 fun s c w d => s.tstore sa x y c w d)

end Sys2Proof.Machine
end

