-- ==== Sys2Proof/Machine/Startup.lean ====
section
/-!
DEFINITION. Power-up, feeds, references, periodic checks, losses inside MGS and at the border, live firmware switchover (R17, R258, R267,
R270, R295-R300, R312-R322, R325, R327, R336, R339).
-/
namespace Sys2Proof.Machine

/-! ## The border without power (R295, R314) -/

def Ms.cold (m : Ms) : Ms :=
  { Ms.reset with state := m.state, ce := m.ce, ue := m.ue, innerCe := m.innerCe, class0Late := m.class0Late
                  rowsRepaired := m.rowsRepaired, lanesRepaired := m.lanesRepaired, image := m.image }

def Router.cold (r : Router) : Router :=
  { Router.reset with dead := r.dead, failed := r.failed, deadDirs := r.deadDirs, spared := r.spared }

def Arr.cold (a : Arr) : Arr :=
  { Arr.reset with lastCheck := a.lastCheck, failedOnce := a.failedOnce, mappedOut := a.mappedOut, mapNext := a.mapNext, remap := a.remap }

/-- JOB_COUNT is kept (R234); registers, link, queues and what was under way are gone. -/
def Port.cold (q : Port) : Port := { Port.reset with lost := q.lost, badLanes := q.badLanes, started := q.started, completed := q.completed, image := q.image }

/-- Latched beds stay latched (R298). -/
def Bed.cold (d : Bed) : Bed :=
  if d.state == .failedCore || d.state == .failedTransit then d else { d with state := .sleep, freq := 0, fullTest := false, testing := false }

/-- Dirty slow-tier blocks are lost: their volumes hold blocks of different steps (R185). -/
def State.loseBlocks (s : State) : List (Nat × Ms) → State
  | [] => s
  | m :: ms => (s.dirtyLost m.2.dir).loseBlocks ms

/-- Beds, routers and border stations hold nothing any more. -/
def State.coldBorder (s : State) : State :=
  let s1 := s.loseBlocks s.ms
  { s1 with
    cores := SMap.mapV Core.reset (fun _ c => c.zeroised) s1.cores, net := []
    arrays := SMap.mapV Arr.reset (fun _ a => a.cold) s1.arrays
    routers := SMap.mapV Router.reset (fun _ r => r.cold) s1.routers
    ms := SMap.mapV Ms.reset (fun _ m => m.cold) s1.ms
    ports := SMap.mapV Port.reset (fun _ q => q.cold) s1.ports
    beds := SMap.mapV Bed.reset (fun _ d => d.cold) s1.beds
    fs := SMap.mapV Fs.reset (fun _ f => { f with keys := [] }) s1.fs
    mgs := { s1.mgs with commitQueue := [] }
    fw := { s1.fw with pending := [] } }

/-- Every partition ends with BED_LOST, and nothing is left of it but identifier and records. -/
def State.dropParts (s : State) : List Nat → State
  | [] => s
  | p :: ps =>
    let q := s.part p
    (if q.state == .none || q.state == .ended then s
     else (s.bedLost p ((s.bedsOf q.sas).headD 0) false).bindOff p).dropParts ps

/-- Beds and border stations lose power. -/
def State.dropBorder (s : State) : State := (s.dropParts (List.range 64)).coldBorder

/-! ## Standby power (R258, R296, R312, R314) -/

/-- The first-stage image that passes: A, then B, then golden. -/
def firstStage (a b g : Bool) : Option Nat := if a then some 0 else if b then some 1 else if g then some 2 else none

/-- An image carries an SVN not below SVN_MIN (R258). -/
def Fw.svnOk (f : Fw) (i : Nat) : Bool := f.svnFuse == 0 || decide (f.svnMin ≤ Config.fwSvn i (f.version i))

/-- Of the images whose signatures verify, the first stage that runs. -/
def State.firstPassing (s : State) (a b g : Bool) : Option Nat :=
  firstStage (a && s.fw.svnOk 0) (b && s.fw.svnOk 1) (g && s.fw.svnOk 2)

/-- An element's image enters the measurement log (R258, R259). -/
def Fw.measured (f : Fw) (element i : Nat) : Fw :=
  { f with log := f.log ++ [LogEntry.image element i (Config.fwDigest element i (f.version i))] }

/-- Steps 2 to 5 of R258 for the first stage `i`: CDI, alias key and certificate; DIK and UDS are sealed. -/
def State.layer (s : State) (i : Nat) : State :=
  let f := s.fw
  let v := f.version i
  let d := Config.fwDigest mgsElement i v
  let m := { s.mgs with cdi := hmac384 Config.uds d, sealed := true }
  { s with
    mgs := { m with aliasCert := m.certify d }
    fw := { f with first := i, firstVer := v, active := i, mgsImage := f.code i, runningSvn := Config.fwSvn i v, log := [] }.measured
      mgsElement i }

/-- Entropy sources that fail their start-up tests are counted and logged (R270, R271, R324). -/
def State.sourcesTested (s : State) (bad : List Nat) : State :=
  bad.foldl (fun s n =>
    { s with tally := { s.tally with entropyFails := sat32 s.tally.entropyFails 1 } }.event 0x0502 0x01FF noPart n) s

/-- Controllers that fail their own test are out of service (R317). -/
def State.controllersTested (s : State) (bad : List Nat) : State := bad.foldl (fun s n => s.event 0x0501 0x01FF noPart n) s

/-- Of the sources that pass, the two in service and the spare: 0 and 1, source 2 in the place of one that fails (R270). -/
def sourcesOf (good : List Nat) : List Nat × Option Nat :=
  let g := (List.range 3).filter good.contains
  (g.take 2, (g.drop 2).head?)

/-- Steps S1 to S4: tests 0 to 2, fuses, entropy sources, the first stage. Without a controller, the fuses of identity or keys, or a
passing image, the border is held in reset; where trim or options fail, MGS applies safe defaults (R317). -/
def State.powerUp (s : State) (img : Option Nat) (mgcs sources : List Nat) (fuses : Fuses) : State :=
  let m := s.mgs
  let up := (List.range 3).filter mgcs.contains
  let src := sourcesOf sources
  let s0 := { s with
    mgs := { m with phase := if img.isSome && !up.isEmpty && fuses != Fuses.identityBad then .standby else .held
                    tick := 0, releasedAt := 0, bordered := false, restartWaits := false, mgcs := up
                    entropy := src.1, spareSource := src.2, drbg := 0
                    cdi := [], aliasCert := [], sealed := false, safeDefaults := fuses == Fuses.trimBad }
    fw := { s.fw with log := [] } }
  let s1 := match img with
    | some i => s0.layer i
    | none => s0
  let s2 := ((s1.ranTest (if up.length == 3 then 0 else 2) 0).ranTest (if fuses == Fuses.good then 0 else 2) 1).ranTest
    (match src.1.length, src.2 with
      | 2, some _ => 0
      | 2, none => 1
      | _, _ => 2) 2
  ((s2.controllersTested ((List.range 3).filter fun k => !up.contains k)).sourcesTested
    ((List.range 3).filter fun k => !sources.contains k)).noted s

def addTo (n : Nat) (l : List Nat) : List Nat := if l.contains n then l else sortBy id (l ++ [n])

def State.standbyGood (s : State) (feed : Nat) (img : Option Nat) (mgcs sources : List Nat) (fuses : Fuses) : State :=
  let s1 := { s with mgs := { s.mgs with standby := addTo feed s.mgs.standby } }
  if s.mgs.phase == .off then s1.powerUp img mgcs sources fuses else s1

/-- STANDBY_POWER_GOOD: of the images whose signatures verify, the controllers and the entropy sources that pass their tests. -/
def execStandbyPowerGood (feed : Nat) (imageA imageB golden : Bool) (mgcs sources : List Nat) (fuses : Fuses) (s : State) : Answer :=
  guardUnit (decide (feed < 2)) (s.standbyGood feed (s.firstPassing imageA imageB golden) mgcs sources fuses)

/-- STANDBY_FEED_DROP: the other feed carries the always-on domain. -/
def State.standbyDrop (s : State) (feed : Nat) : State :=
  let m := s.mgs
  if m.standby.contains feed && 2 ≤ m.standby.length then
    { s with mgs := { m with standby := m.standby.filter (· != feed) } }.event 0x0404 0x01FF noPart feed
  else s

def execStandbyFeedDrop (feed : Nat) (s : State) : Answer := guardUnit (decide (feed < 2)) (s.standbyDrop feed)

/-- A segment after power-up: no frame, no OPEN; configuration and counters are in flash (log entry 41). -/
def Seg.cold (g : Seg) : Seg := { g with mode := if g.plcaEn then 0 else 1, txq := [], attempts := 0, backoff := false, opens := [] }

/-- A volume without the partition that had it: a confidential one is lost with its keys. -/
def Volume.cold (v : Volume) : Option Volume := if v.conf.isSome then none else some { v with bound := none }

/-- A re-enable before the loss of TICK counts no longer for the 24 h of R298 (DESIGN CHOICE, log entry 41). -/
def Bed.undated (d : Bed) : Bed := { d with reenabledAt := 0 }

/-- STANDBY_LOSS: the always-on domain and the device stop; what module flash and fuses hold is kept, the key store is lost. -/
def State.blackout (s : State) : State :=
  let s1 := s.coldBorder
  let m := s1.mgs
  { s1 with
    parts := []
    beds := SMap.mapV Bed.reset (fun _ d => d.undated) s1.beds
    volumes := SMap.mapV none (fun _ v => v.bind Volume.cold) s1.volumes
    gel := { s1.gel with sessions := [], segA := s1.gel.segA.cold, segB := s1.gel.segB.cold }
    mgs := { m with phase := .off, tick := 0, releasedAt := 0, standby := [], restartWaits := false, bordered := false, baseRoutes := false, debugTicks := 0
                    debugSessions := 0, drbg := 0, banks := [0, 1], cdi := [], aliasCert := [], sealed := false }
    fw := { s1.fw with result := 0, log := [] } }

def execStandbyLoss (s : State) : Answer := guardUnit true s.blackout

/-! ## The border phase (R312-R318) -/

/-- A station's image at this start-up. -/
def State.setImage (s : State) (st i : Nat) : State :=
  let c := s.fw.code i
  if st < 40 then s.setMem st { s.mem st with image := c }
  else if st < 48 then s.setFlash (st - 40) { s.flash (st - 40) with image := c }
  else if st < 80 then s.setPort (st - 48) { s.port (st - 48) with image := c } else s

/-- The image that a station loads: the first whose signature verified, or a later one where its SVN is too low; none passes. -/
def State.imageFound (s : State) (images : List (Nat × Nat)) (st : Nat) : Option Nat :=
  let from0 := match images.find? fun e => e.1 == st with
    | some e => e.2
    | none => 0
  [0, 1, 2].find? fun i => decide (from0 ≤ i) && s.fw.svnOk i

/-- Every station in service loads its image, which enters the measurement log; one with no passing image stays in reset (R258). -/
def State.loadImages (s : State) (images : List (Nat × Nat)) : State :=
  (List.range 80).foldl (fun t st =>
    if !t.stationUp st then t
    else match t.imageFound images st with
      | some i => let u := t.setImage st i
        { u with fw := u.fw.measured st i }
      | none => t.loseStation st) s

/-- A bed that failed a test is held in FAILED_CORE (R317). -/
def State.holdBed (s : State) (b : Nat) : State :=
  if b < 36 then
    (s.setBed b { s.bed b with state := if (s.bed b).state == .failedTransit then .failedTransit else .failedCore }).event 0x0401 b noPart b
  else s

/-- Another channel of the stripe group is out already: channel `c` of another station, or the station itself (log entry 51). -/
def State.channelSpent (s : State) (n c : Nat) : Bool :=
  (List.range 8).any fun m => m != n && ((s.flash m).badChannels.contains c || (s.flash m).state == 2)

/-- NAND_CHANNEL_FAIL: the channel's stripes are read by rebuild; a second channel of the same stripe group takes its station out of
service. -/
def State.channelFails (s : State) (n c : Nat) : State :=
  let f := s.flash n
  if f.badChannels.contains c then s
  else
    let s1 := (s.setFlash n { f with badChannels := f.badChannels ++ [c] }).event 0x0303 (0x0140 + n) noPart c
    if s.channelSpent n c then s1.loseFs n else s1


/-- A lane that fails test 6 moves onto its spare at once (R120, R317). -/
def State.laneFound (s : State) (site dir lane : Nat) : State :=
  if site < 1296 && dir < 7 && dir != 4 && (lane < 8 || wideLink site dir) && lane < 16 && !(s.router site).spared.contains (32 * dir + lane) then
    (s.setRouter site { s.router site with marked := (s.router site).marked ++ [32 * dir + lane] }).spareLane site dir lane
  else s

/-- A host port's lane fails test 12: the link downtrains, and the lane is logged. -/
def State.serdesFound (s : State) (h lane : Nat) : State :=
  if h < 32 && lane < 16 && !(s.port h).badLanes.contains lane then
    (s.setPort h { s.port h with badLanes := (s.port h).badLanes ++ [lane] }).event Config.serdesCode (0x0180 + h) noPart lane
  else s

/-- A stack lane or row is repaired through the stack's test port, by a soft entry; with a full soft map the station is lost (R317, R318). -/
def State.stackFound (s : State) (st : Nat) (repair : Ms → Ms) (param : Nat) : State :=
  if 40 ≤ st then s
  else if 65536 ≤ s.mgs.softEntries then s.loseMs st
  else ((s.updMem st repair).addSoft).event 0x0302 (0x0100 + st) noPart param

/-- What a test of the border phase found takes effect (R317). -/
def State.borderFinding (s : State) (f : Finding) : State :=
  match f with
  | .trellisPll n => { s with mgs := { s.mgs with tpll := if n == 0 then 2 else s.mgs.tpll } }.event 0x0405 0x01FF noPart 2
  | .stationPll st => if st < 80 then s.loseStation st else s
  | .bedMonitor b => (if b < 36 then s.setBed b { s.bed b with monitor := false } else s).holdBed b
  | .stationMonitor st => if st < 80 then s.loseStation st else s
  | .router n => if n < 1296 then (s.loseRouters true [] [n]).leaveSite n (s.arrayAt n).toList else s
  | .lane n d l => s.laneFound n d l
  | .bedPll b => s.holdBed b
  | .serdes h l => s.serdesFound h l
  | .stackLane st l => s.stackFound st (fun m => { m with lanesRepaired := m.lanesRepaired.filter (· != l) ++ [l] }) l
  | .stackRow st r => s.stackFound st (fun m => { m with rowsRepaired := m.rowsRepaired.filter (· != r) ++ [r] }) r
  | .stack st _ => if st < 40 then s.loseMs st else s
  | .nand n c => if n < 8 && c < 4 then s.channelFails n c else s
  | .station st => if st < 80 then s.loseStation st else s
  | _ => s.bedFinding f

/-- TEST_RESULT of it: 1 repaired, 2 safe state. -/
def State.borderResult (s : State) (f : Finding) : Nat :=
  match f with
  | .trellisPll _ => 1
  | .lane n d _ => if (s.router n).spared.any (fun k => k / 32 == d) || 65536 ≤ s.mgs.softEntries then 2 else 1
  | .serdes _ _ => 1
  | .stackLane _ _ => if 65536 ≤ s.mgs.softEntries then 2 else 1
  | .stackRow _ _ => if 65536 ≤ s.mgs.softEntries then 2 else 1
  | .nand n c => if s.channelSpent n c then 2 else 1
  | _ => s.bedResult f

/-- Findings of the border phase in order, with the worst result of each test so far. -/
def State.borderFindings (s : State) (site : Nat → Nat) (res : SMap Nat) : List Finding → State × SMap Nat
  | [] => (s, res)
  | f :: fs =>
    let res1 := SMap.put 0 res (testOf f) (max (SMap.look 0 res (testOf f)) (s.borderResult f))
    if s.stillThere site f then (s.borderFinding f).borderFindings site res1 fs else s.borderFindings site res fs

/-- The thermal sensors of the beds are cross-checked (test 11). -/
def State.crossChecks (s : State) : List (Nat × List Int) → State
  | [] => s
  | c :: cs => (if c.1 < 36 && c.2.length == 4 then s.crossCheck c.1 c.2 else s).crossChecks cs

/-- Every bed whose core rail ramped has had its full self-test: its sites without an array are spares (R319). -/
def State.allSpares (s : State) : State :=
  (List.range 36).foldl (fun s b => if (s.bed b).state.failed then s else s.newSpares b) s

/-- Steps B1 to B5: the stations in service load their images, and what the tests found takes effect (R312, R315, R317). Of the soft map
whose copies both fail their CRC-32, only what the fuses hold is left (R318). With both trellis PLLs failed the border is held in
reset. -/
def State.tested (s : State) (f : SelfTest) : State :=
  let s0 := if f.mapBad.contains 0 && f.mapBad.contains 1 then s.forgetSoft else s
  let s1 := { s0 with mgs := { s0.mgs with mapBad := f.mapBad.filter (· < 2) } }
  let s2 := (s1.loadImages f.images).crossChecks f.sensors
  let hot := (List.range 36).any fun b => !(s2.bed b).excluded.isEmpty
  let r := s2.borderFindings s1.siteOf [(11, if hot then 2 else 0)] f.found
  let s3 := (r.1.allSpares).ranWith r.2 [3, 4, 5, 6, 7, 8, 9, 10, 11, 12, 14, 15, 16, 17, 18]
  if f.found.contains (.trellisPll 0) && f.found.contains (.trellisPll 1) then
    { s3.ranTest 2 3 with mgs := { (s3.ranTest 2 3).mgs with phase := .held } }
  else s3

/-- Every partition has ended. -/
def State.allEnded (s : State) : Bool := s.parts.all fun q => q.2.state == .none || q.2.state == .ended

/-- BORDER_PHASE_START: after the standby phase, or as a restart that the maintenance role asked for. -/
def State.startBorder (s : State) (f : SelfTest) : State :=
  let m := s.mgs
  if 2 ≤ m.feeds.length && (m.phase == .standby || (m.phase == .released && m.restartWaits && s.allEnded)) then
    let s1 := s.coldBorder
    let s2 := { s1 with
      mgs := { s1.mgs with phase := .border, restartWaits := false, bordered := true, baseRoutes := false }
      tally := { s1.tally with borderRestarts := if m.bordered then sat32 s1.tally.borderRestarts 1 else s1.tally.borderRestarts } }
    (s2.tested f).respine
  else s

def execBorderPhaseStart (found : SelfTest) (s : State) : Answer := guardUnit true (s.startBorder found)

/-- BORDER_RELEASE: step B6 and release. Both copies of the merged repair map are written, and the base routes are loaded (R312, R318). -/
def State.release (s : State) : State :=
  let m := s.mgs
  if m.phase == .border then
    { s with mgs := { m with phase := .released, releasedAt := if m.releasedAt == 0 then m.tick else m.releasedAt, baseRoutes := true, mapBad := [] } }
  else s

def execBorderRelease (s : State) : Answer := guardUnit true s.release

/-! ## 54 V feeds (R295) -/

/-- FEED_DROP: with no feed left the border loses power; fewer than two in the border phase end it. -/
def State.dropFeed (s : State) (feed : Nat) : State :=
  let m := s.mgs
  if !m.feeds.contains feed then s
  else
    let left := m.feeds.filter (· != feed)
    let s1 := { s with mgs := { m with feeds := left }, tally := { s.tally with feedDrops := sat32 s.tally.feedDrops 1 } }
    let s2 := s1.event 0x0403 0x01FF noPart feed
    if (m.phase == .released && left.isEmpty) || (m.phase == .border && left.length < 2) then
      let s3 := s2.dropBorder
      { s3 with mgs := { s3.mgs with phase := .standby } }
    else s2

def execFeedDrop (feed : Nat) (s : State) : Answer := guardUnit (decide (feed < 3)) (s.dropFeed feed)

/-- FEED_RECONNECT; a change of PROMISE is logged (R329). -/
def execFeedReconnect (feed : Nat) (s : State) : Answer :=
  guardUnit (decide (feed < 3)) ({ s with mgs := { s.mgs with feeds := addTo feed s.mgs.feeds } }.noted s)

/-! ## Clock references and trellis PLLs (R299, R300) -/

/-- The reference in use after a change: the other one where the one in use is lost and the other is good. -/
def Mgs.pickRef (m : Mgs) : Mgs :=
  { m with refBInUse := if m.refBInUse then m.refB || !m.refA else !m.refA && m.refB }

def Mgs.setRef (m : Mgs) (ref : Nat) (good : Bool) : Mgs :=
  (if ref == 0 then { m with refA := good } else { m with refB := good }).pickRef

/-- REF_LOSS and REFERENCE_RESTORED: every change is logged. -/
def State.setRef (s : State) (ref : Nat) (good : Bool) : State :=
  if (if ref == 0 then s.mgs.refA else s.mgs.refB) == good then s
  else { s with mgs := s.mgs.setRef ref good }.event 0x0405 0x01FF noPart ref

def execRefLoss (ref : Nat) (s : State) : Answer := guardUnit (decide (ref < 2)) (s.setRef ref false)
def execReferenceRestored (ref : Nat) (s : State) : Answer := guardUnit (decide (ref < 2)) (s.setRef ref true)

/-- TRELLIS_PLL_FAILOVER. -/
def execTrellisPllFailover (failed : Bool) (s : State) : Answer :=
  guardUnit true ({ s with mgs := { s.mgs with tpll := if failed then 2 else 1 } }.event 0x0405 0x01FF noPart 2)

/-! ## Pins (R336, R339) -/

def execCoolLeak (water : Bool) (s : State) : Answer :=
  guardUnit true
    (let t := { s with mgs := { s.mgs with coolLeak := water } }
     if water then t.event Config.leakCode 0x01FF noPart 0 else t)

def execCommissionInput (asserted : Bool) (s : State) : Answer :=
  guardUnit true { s with mgs := { s.mgs with commission := asserted } }

/-! ## The periodic check pair (R321, R322) -/

/-- The idle array of a bed that is checked next: at once the one whose check has failed, else the one whose last check is oldest. -/
def State.nextCheck (s : State) (n : Nat) : Bool :=
  s.idleArr n && ((s.arr n).failedOnce || (List.range 1200).all fun m =>
    !(s.idleArr m && s.bedOfArr m == s.bedOfArr n) || (!(s.arr m).failedOnce && decide ((s.arr n).lastCheck ≤ (s.arr m).lastCheck)))

/-- Cores that fail a check are mapped out while the array keeps its site; each enters the event log with array, core, format and pattern
(log entry 43). -/
def State.checkFailed (s : State) (n site : Nat) (again : Bool) : List CheckFail → State
  | [] => s
  | c :: cs =>
    let f := 25 * (c.core / 24) + (s.arr n).column (c.core % 24) (c.core / 24)
    let s1 := s.event 0x0201 (0x0200 + n) noPart (n + 2 ^ 16 * f + 2 ^ 32 * c.fmt + 2 ^ 40 * c.pattern)
    (if again || s1.siteOf n != site then s1 else s1.mapOutAt n (f / 25) (f % 25)).checkFailed n site again cs

/-- PERIODIC_CHECK: station firmware loads its check skein on an array, casts it on, which puts soft entries into effect, compares the results,
and zeroises the array. A second failure in a row takes the site out of service (the run is one command: DESIGN CHOICE, log entry 87). -/
def State.check (s : State) (n : Nat) (skein : List Byte) (failing : List CheckFail) : State :=
  if !s.nextCheck n || !s.acceptsMarked n skein then s
  else
    let bad := failing.filter fun c => c.core < 576
    let a := s.arr n
    let s0 := mapCores s [n] Core.zeroised
    let s1 := (s0.setArr n { a.repaired with lastCheck := s.mgs.tick, failedOnce := !bad.isEmpty }).ranTest
      (if bad.isEmpty then 0 else if a.failedOnce && s.spareSite.isNone then 2 else 1) 9
    let s2 := { s1 with tally := { s1.tally with checkRuns := sat32 s1.tally.checkRuns 1
                                                 checkFails := sat32 s1.tally.checkFails (bit (!bad.isEmpty)) } }
    let s3 := s2.checkFailed n (s.siteOf n) a.failedOnce bad
    if a.failedOnce && !bad.isEmpty then s3.leaveSite (s.siteOf n) [n] else s3

def execPeriodicCheck (sa : Nat) (skein : List Byte) (failing : List CheckFail) (s : State) : Answer :=
  guardUnit (saOk sa) (s.check sa skein failing)

/-! ## MGS (R267, R270, R317) -/

/-- ENTROPY_TEST_FAIL: the spare replaces a source in service. -/
def State.sourceFails (s : State) (n : Nat) : State :=
  let m := s.mgs
  let count := fun (m : Mgs) => ({ s with mgs := m, tally := { s.tally with entropyFails := sat32 s.tally.entropyFails 1 } } : State).event
    0x0502 0x01FF noPart n
  if m.entropy.contains n then
    count { m with entropy := m.entropy.filter (· != n) ++ m.spareSource.toList, spareSource := none }
  else if m.spareSource == some n then count { m with spareSource := none } else s

/-- A source comes back after a passing start-up test that the maintenance role asked for: into service, or as the spare (R270). -/
def State.sourceBack (s : State) (n : Nat) : State :=
  let m := s.mgs
  if m.phase == .off || m.entropy.contains n || m.spareSource == some n then s
  else if m.entropy.length < 2 then { s with mgs := { m with entropy := addTo n m.entropy } }
  else { s with mgs := { m with spareSource := some n } }

def execEntropyTestFail (source : Nat) (restored : Bool) (s : State) : Answer :=
  guardUnit (decide (source < 3)) (if restored then s.sourceBack source else s.sourceFails source)

/-- Confidential partitions end. -/
def State.endConf (s : State) : List Nat → State
  | [] => s
  | p :: ps =>
    (if (s.part p).conf && (s.part p).state.live then s.bedLost p ((s.bedsOf (s.part p).sas).headD 0) false else s).endConf ps

/-- KEY_STORE_BANK_FAIL: the other bank serves; with none the keys are lost. -/
def State.bankFails (s : State) (n : Nat) : State :=
  let m := s.mgs
  if !m.banks.contains n then s
  else
    let s1 := { s with mgs := { m with banks := m.banks.filter (· != n) } }.event 0x0502 0x01FF noPart (3 + n)
    if s1.mgs.banks.isEmpty then mapParts (s1.endConf (List.range 64)) fun _ q => { q with prk := [] } else s1

def execKeyStoreBankFail (bank : Nat) (s : State) : Answer := guardUnit (decide (bank < 2)) (s.bankFails bank)

/-- The controllers that vote: those in service but for one that switches its firmware, which rejoins after (R325, R327). -/
def State.voting (s : State) : List Nat := s.mgs.mgcs.filter fun n => !s.switching 0 n

/-- MGC_FAIL: a controller that votes is outvoted; with none left the border is held in reset. It has no firmware left to switch. -/
def State.controllerFails (s : State) (n : Nat) : State :=
  let m := s.mgs
  if !s.voting.contains n then s
  else
    let s1 := { s with mgs := { m with mgcs := m.mgcs.filter (· != n) }
                       fw := { s.fw with pending := s.fw.pending.filter (· != (0, n)) } }.event 0x0501 0x01FF noPart n
    if s1.mgs.mgcs.isEmpty && m.phase != .off then
      let s2 := s1.dropBorder
      { s2 with mgs := { s2.mgs with phase := .held } }
    else s1

def execMgcFail (mgc : Nat) (s : State) : Answer := guardUnit (decide (mgc < 3)) (s.controllerFails mgc)

/-! ## Border stations (R17, R317) -/

/-- ATTACH_ROUTER_FAIL: station and site leave service; users of the station end as its loss says, other partitions with a route there with
ROUTE_LOST. So does one that only holds the site's array (DESIGN CHOICE, log entry 80: R324 0x0204 gives no END code). MGS itself needs no
trellis route (log entry 24). -/
def State.attachFails (s : State) (site : Nat) : State :=
  if !(s.railsUp && ((stationAt site).isSome || site == 0)) || (s.router site).failed then s
  else
    let mine := (s.arrayAt site).toList
    let told := ((s.router site).owners fun _ => true) ++ s.stationsTell [site]
    let s1 := s.loseRouters true [] [site]
    let s2 := s1.routeLostAt site ((mine.filterMap fun n => (s.arr n).part).filter fun p => !told.contains p)
    s2.leaveSite site mine

def execAttachRouterFail (site : Nat) (s : State) : Answer := guardUnit (siteOk site) (s.attachFails site)

def execNandChannelFail (fs channel : Nat) (s : State) : Answer :=
  guardUnit (fsOk fs && decide (channel < 4)) (s.channelFails fs channel)

/-! ## Live firmware switchover (R259, R325, R327) -/

/-- FW_VERIFY_DONE: the SVN is the one that the image in the slot carries (R258, R259). -/
def State.verified (s : State) (sigOk : Bool) : State :=
  let f := s.fw
  if f.result != 4 then s
  else { s with fw := { f with result := if !sigOk then 2 else if f.svnOk f.slot then 1 else 3, svn := Config.fwSvn f.slot (f.version f.slot) } }

def execFwVerifyDone (sigOk : Bool) (s : State) : Answer := guardUnit true (s.verified sigOk)

/-- Class-0 requests that wait at a memory station while it switches are counted as late, those that are not yet, and have no bound (R325). -/
def State.countLate (s : State) (n : Nat) : State :=
  let m := s.mem n
  let late := m.waiting.filter fun r => r.cls == 0 && !r.late
  let s1 := s.setMem n { m with class0Late := sat32 m.class0Late late.length
                                waiting := m.waiting.map fun r => if r.cls == 0 then { r with late := true } else r }
  late.foldl (fun s r => s.setPart r.part { s.part r.part with class0Late := true }) s1

/-- The element number of bed controller `b` among the elements that run firmware. -/
def bedElement (b : Nat) : Nat := mgsElement + 1 + b

/-- One element runs the new image, which enters the measurement log. -/
def State.switchElement (s : State) (e : Nat × Nat) : State :=
  let i := s.fw.slot
  let run := fun (t : State) (element : Nat) => { t with fw := t.fw.measured element i }
  match e.1 with
  | 0 => run { s with fw := { s.fw with runningSvn := s.fw.svn, mgsImage := s.fw.code i } } mgsElement
  | 1 => run s (bedElement e.2)
  | 2 => run (s.setImage (40 + e.2) i) (40 + e.2)
  | 3 => run ((s.countLate e.2).setImage e.2 i) e.2
  | 4 => run (s.setImage (48 + e.2) i) (48 + e.2)
  | _ => s

/-- FW_ELEMENT_SWITCH_DONE. -/
def State.elementDone (s : State) : State :=
  match s.fw.pending with
  | [] => s
  | e :: es =>
    let s1 := s.switchElement e
    let s2 := { s1 with fw := { s1.fw with pending := es } }
    if es.isEmpty then { s2 with fw := { s2.fw with active := s2.fw.slot } }.event 0x0601 0x01FF noPart 0 else s2

def execFwElementSwitchDone (s : State) : Answer := guardUnit true s.elementDone

end Sys2Proof.Machine
end

