-- ==== Sys2Proof/Machine/Steer.lean ====
section
/-!
DEFINITION. Steering units (R57-R60, R115): STOK slots, arrivals and the skew fault.
-/
namespace Sys2Proof.Machine

/-- A control token with the tag (R58), and the data item with it. -/
def itemTag : SteerItem → BitVec 6
  | .token t _ => t
  | .data t _ _ _ => t

def isToken : SteerItem → Bool
  | .token _ _ => true
  | .data _ _ _ _ => false

/-- The stored entry of the other kind with the item's tag (R59). -/
def Steer.mate (u : Steer) (i : SteerItem) : Option SteerEntry :=
  u.entries.find? fun e => isToken e.item != isToken i && itemTag e.item == itemTag i

/-- The mesh port in direction `dir` of core (x, y) leads out of the array (R114): it is unconnected, or connected to a gateway (R117),
which takes elastic items only. A steering item sent there is lost without a fault, and none arrives there: R114 gives the item no
other end (DESIGN CHOICE, log entry 76). -/
def edgePort (x y dir : Nat) : Bool :=
  match dir with
  | 0 => y == 0
  | 1 => x == 23
  | 2 => y == 23
  | _ => x == 0

/-- A data item leaves core (x, y) in direction `dir` in fire cycle `d` (R58, R115): the core, or the cause of its fault. Through an
unconnected port nothing leaves (R114). -/
def Core.steerOut (c : Core) (x y d dir : Nat) (item : SteerItem) : Core × Nat :=
  match item with
  | .token _ _ => (c, 0)
  | .data _ v _ unit =>
    if dir < 4 then
      if edgePort x y dir then (c, 0)
      else if SMap.look 0 c.meshClaim dir == d + 1 then (c, 1)
      else ({ c with meshClaim := SMap.put 0 c.meshClaim dir (d + 1), meshOut := SMap.put none c.meshOut dir (some item) }, 0)
    else if dir == 4 then ({ c with scratch := writeUnits c.scratch unit.toNat (leBytes 32 v.toNat) }, 0)
    else if dir == 5 then (c, 0)
    else (c, 8)

/-- DIR of a token, and the data item, of a pair. -/
def pairOf (a b : SteerItem) : Nat × SteerItem :=
  match a with
  | .token _ dir => (dir.toNat, b)
  | .data _ _ _ _ =>
    match b with
    | .token _ dir => (dir.toNat, a)
    | .data _ _ _ _ => (5, a)

/-- An item reaches a unit in fire cycle `d` (R59): the core, and the cause of the fault it raises, 0 none. -/
def Core.steerIn (c : Core) (x y u d : Nat) (item : SteerItem) : Core × Nat :=
  let v := c.steer u
  match v.mate item with
  | some e =>
    let pr := pairOf item e.item
    (c.setSteer u { v with entries := v.entries.filter (· != e) }).steerOut x y d pr.1 pr.2
  | none =>
    if 2 ≤ v.entries.length then (c, 5)
    else
      let c1 := c.setSteer u { v with entries := v.entries ++ [⟨item, d, false⟩] }
      (c1, if v.entries.any fun e => isToken e.item != isToken item then 6 else 0)

/-- Store the core and raise its fault. -/
def State.steerDone (s : State) (sa x y slot d : Nat) (r : Core × Nat) : State :=
  let s1 := s.setCore (coreKey sa x y) r.1
  if r.2 == 0 then s1 else schedFault s1 sa x y slot r.2 d

/-- STOK (R58): a token with DIR_T if the flag is 1, else DIR_F, tagged with the unit's next control tag. -/
def State.stok (s : State) (sa x y : Nat) (c : Core) (w : W64) (d : Nat) : State :=
  let u := bit (bitOf w 47)
  let v := c.steer u
  let dir := if c.flag (fld w 46 41) then fld w 40 38 else fld w 37 35
  let c1 := (c.advance d 0).setSteer u { v with nextCtl := v.nextCtl + 1 }
  s.steerDone sa x y c.slot d (c1.steerIn x y u d (.token v.nextCtl (BitVec.ofNat 3 dir)))

def execStok (sa x y : Nat) (s : State) : Answer :=
  guardUnit (coreOk sa x y) (s.withSlot sa x y 7 0 fun s c w d => s.stok sa x y c w d)

/-- The array still fires cycle `d` (R49): not once it is at rest. -/
def State.firesAt (s : State) (sa d : Nat) : Bool :=
  (s.arr sa).runs d && (!s.allHalted sa || decide (d ≤ s.restAt sa))

/-- An item may arrive in fire cycle `d`: the array fires it, no hold point due in it is still to pass, and no older slot, result or
steering fault of the array comes first. -/
def State.arrivalReady (s : State) (sa d : Nat) : Bool :=
  s.firesAt sa d && decide ((s.arr sa).fireCycle ≤ d)
    && s.cores.all fun kc => keyArr kc.1 != sa || (!kc.2.resultDue d && kc.2.letsFire d)

/-- Does an item on mesh port `mport` reach a unit of this configuration (R57): a data item by DATA_IN, a token by CTRL_IN, which 4
keeps to the core's own STOK slots? -/
def steerInput (w : W64) (mport : Nat) (item : SteerItem) : Bool :=
  if isToken item then fld w 13 11 == mport else fld w 10 8 == mport

/-- STEER_ITEM_ARRIVAL (R59) at an enabled unit. The unit's next expected tag of that input moves on. The record of a fault names
the core's next slot to fire (DESIGN CHOICE, log entry 60). -/
def State.steerArrive (s : State) (sa x y u d : Nat) (item : SteerItem) : State :=
  let c := s.core (coreKey sa x y)
  let v := c.steer u
  let c1 := c.setSteer u (if isToken item then { v with nextCtl := v.nextCtl + 1 } else { v with nextData := v.nextData + 1 })
  s.steerDone sa x y c.slot d (c1.steerIn x y u d item)

def execSteerItemArrival (sa x y unit mport cycle : Nat) (item : SteerItem) (s : State) : Answer :=
  guardUnit (coreOk sa x y && decide (unit < 2) && decide (mport < 4))
    (let w := (s.core (coreKey sa x y)).steerCfg unit
     if steerSkewMax w != 0 && steerInput w mport item && !edgePort x y mport && s.arrivalReady sa cycle then
      let s1 := s.pass sa cycle
      if (s1.arr sa).runs cycle then (s1.steerArrive sa x y unit cycle item).latch sa else s1
     else s)

/-- STEER_SKEW (R59): the oldest entry of the unit exceeds SKEW_MAX in fire cycle `d`, which the array fires. -/
def State.skewReady (s : State) (sa d : Nat) : Bool := s.firesAt sa d && s.reachable sa d

/-- The oldest entry whose fault has not been raised has raised it. -/
def Steer.raiseSkew (u : Steer) : Steer :=
  { u with entries := u.entries.takeWhile (·.late) ++ (u.entries.dropWhile (·.late)).modifyHead fun e => { e with late := true } }

def execSteerSkew (sa x y unit : Nat) (s : State) : Answer :=
  guardUnit (coreOk sa x y && decide (unit < 2))
    (let c := s.core (coreKey sa x y)
     match c.skewAt unit with
     | some d =>
       if s.skewReady sa d then
         let s1 := s.pass sa d
         if (s1.arr sa).runs d then
           let c1 := s1.core (coreKey sa x y)
           (schedFault (s1.setCore (coreKey sa x y) (c1.setSteer unit (c1.steer unit).raiseSkew)) sa x y c.slot 7 d).latch sa
         else s1
       else s
     | none => s)

end Sys2Proof.Machine
end

