-- ==== Sys2Proof/Machine/Vector.lean ====
section
/-!
DEFINITION. The VECTOR slots, the landing of their results, and the check pair (R33-R37, R80-R90).
-/
namespace Sys2Proof.Machine

/-! ## What a VECTOR operation leaves -/

/-- The outcome of a VECTOR operation: byte writes to tile registers, exception bits, and the events of its elements in order, one an
element: INVALID, or else a NaN written (source 5, an event in mode 2 alone, R42). -/
structure VecOut where
  writes : List (Nat × Byte)
  flags : Flags
  events : List TrapEvent

/-- Issue of a VECTOR operation of occupancy `occ` on tile registers `regs` (R48, R81): the result lands 4 fire cycles after the
occupancy ends. When it traps, its result is written (R42; log entry 17). -/
def State.vectorDone (s : State) (sa x y : Nat) (c : Core) (d occ : Nat) (regs : List Nat) (v : VecOut) : State :=
  let c1 := (Core.raise { c with vectorFree := d + occ } v.flags).holdTiles (d + occ + 4) regs
  let mode := s.trapMode sa
  let es := if mode == 2 then v.events else v.events.filter fun e => e.src != 5
  if mode != 0 && !es.isEmpty then
    (s.fire sa x y d { c1 with tiles := writeTiles c1.tiles v.writes }).trap sa x y d es
  else
    s.fire sa x y d { c1 with vecPend := c1.vecPend ++ [⟨d + occ + 3, v.writes⟩] }

/-- VECTOR_RESULT_WRITE: the oldest result lands (R48). -/
def State.landVector (s : State) (sa x y : Nat) (v : VecPend) (rest : List VecPend) : State :=
  let k := coreKey sa x y
  let c := s.core k
  s.setCore k { c with tiles := writeTiles c.tiles v.writes, vecPend := rest }

def execVectorResultWrite (sa x y : Nat) (s : State) : Answer :=
  guardUnit (coreOk sa x y)
    (match (s.core (coreKey sa x y)).vecPend with
     | [] => s
     | v :: rest =>
       if s.resultReady sa v.due then
         let s1 := s.pass sa v.due
         if (s1.arr sa).runs v.due then (s1.landVector sa x y v rest).latch sa else s1
       else s)

/-! ## VRUN (R83-R85) -/

/-- Fields of an element-program step (R83). -/
def stepField (w : W32) (hi lo : Nat) : Nat := bits w.toNat hi lo
def stepEop (w : W32) : Nat := stepField w 31 26
def stepDst (w : W32) : Nat := stepField w 25 23
def stepImm (w : W32) : Bool := stepField w 13 13 == 1

/-- Does the operation use operand b, operand c (R84)? -/
def usesB (eop : Nat) : Bool := (decide (1 ≤ eop) && decide (eop ≤ 7)) || (decide (0x13 ≤ eop) && decide (eop ≤ 0x15))
def usesC (eop : Nat) : Bool := eop == 4 || eop == 0x15

/-- Tile registers a step reads or writes. -/
def stepRegs (w : W32) : List Nat :=
  [stepDst w, stepField w 22 20]
    ++ (if usesB (stepEop w) && !stepImm w then [stepField w 19 17] else [])
    ++ (if usesC (stepEop w) then [stepField w 16 14] else [])

/-- Results of one step, element by element in row order. -/
def runStep (c : Core) (tiles : SMap Byte) (w : W32) : List (W32 × Flags) :=
  positions.map fun q =>
    let sb := stepField w 19 17
    let b := if stepImm w then c.econst (stepField w 12 8)
      else match stepField w 7 6 with
        | 1 => tileWord tiles sb q.1 0
        | 2 => tileWord tiles sb 0 q.2
        | _ => tileWord tiles sb q.1 q.2
    elemOp (stepEop w) (tileWord tiles (stepField w 22 20) q.1 q.2) b (tileWord tiles (stepField w 16 14) q.1 q.2)

/-- Events of 256 results, row i handled in fire cycle d + i: INVALID with source `src`, else a NaN written (R42). -/
def rowEvents (c : Core) (tens it slot d src : Nat) (rs : List (W32 × Flags)) : List TrapEvent :=
  (positions.zip rs).filterMap fun q =>
    let e := fun src => some (c.eventAt tens it (d + q.1.1) src 0 slot q.1.1 q.1.2)
    if isInvalid q.2.2 then e src else if isNan32 q.2.1 then e 5 else none

/-- Run steps `i`, i + 1, … of EPROG, `n` of them, from fire cycle `d`: each sees the results of those before it. -/
def runSteps (c : Core) (tens it slot : Nat) : Nat → Nat → Nat → SMap Byte → VecOut
  | 0, _, _, _ => ⟨[], 0, []⟩
  | n + 1, i, d, tiles =>
    let w := c.eprog i
    let rs := runStep c tiles w
    let ws := tileWrites (stepDst w) (rs.map Prod.fst)
    let t := runSteps c tens it slot n (i + 1) (d + 16) (writeTiles tiles ws)
    ⟨ws ++ t.writes, orFlags (rs.map Prod.snd) ||| t.flags, rowEvents c tens it slot d 2 rs ++ t.events⟩

def State.vrun (s : State) (sa x y : Nat) (c : Core) (w : W64) (d : Nat) : State :=
  let start := fld w 47 42
  let n := fld w 41 36 + 1
  let tens := fld w 35 31
  let regs := (List.range n).flatMap fun i => stepRegs (c.eprog (start + i))
  if decide (d < c.vectorFree) || c.tileBusy d regs then slotFault s sa x y c unitBusy d
  else s.vectorDone sa x y c d (16 * n) regs (runSteps c tens c.it c.slot n start d c.tiles)

def execVrun (sa x y : Nat) (s : State) : Answer :=
  guardUnit (coreOk sa x y) (s.withSlot sa x y 8 0 fun s c w d => s.vrun sa x y c w d)

/-! ## VROW (R32, R40, R86) -/

def isInf32 (w : W32) : Bool := (w &&& 0x7FFFFFFF) == 0x7F800000

/-- One of the row operations on the columns of a row (R86). -/
def rowOp (rop : Nat) (xs : List W32) : W32 × Flags :=
  match rop with
  | 0 => treeRoot 4 xs
  | 1 =>
    let ls := xs.map fun v => mul32 v v
    let r := treeRoot 4 (ls.map Prod.fst)
    (r.1, orFlags (ls.map Prod.snd) ||| r.2)
  | 2 => (xs.tail.foldl max32 (max32 (nth 0 xs 0) (nth 0 xs 0)), 0)
  | 3 => (xs.tail.foldl min32 (min32 (nth 0 xs 0) (nth 0 xs 0)), 0)
  | _ => (if xs.any fun v => isNan32 v || isInf32 v then 0x7F800000 else xs.foldl (fun m v => max32 m (abs32 v)) 0, 0)

/-- A row of a tile register. -/
def tileRow (m : SMap Byte) (t i cols : Nat) : List W32 := (List.range cols).map fun j => tileWord m t i j

/-- The words of a tile whose column 0 holds row results and whose other columns hold +0. -/
def rowTile (rs : List (W32 × Flags)) : List (W32 × Flags) :=
  rs.flatMap fun r => r :: List.replicate 15 (0, 0)

def State.vrow (s : State) (sa x y : Nat) (c : Core) (w : W64) (d : Nat) : State :=
  let dst := fld w 47 45
  let src := fld w 44 42
  let tens := fld w 34 30
  if decide (d < c.vectorFree) || c.tileBusy d [dst, src] then slotFault s sa x y c unitBusy d
  else
    let rs := rowTile ((List.range 16).map fun i => rowOp (fld w 41 39) (tileRow c.tiles src i (fld w 38 35 + 1)))
    s.vectorDone sa x y c d 20 [dst, src]
      ⟨tileWrites dst (rs.map Prod.fst), orFlags (rs.map Prod.snd), rowEvents c tens c.it c.slot d 2 rs⟩

def execVrow (sa x y : Nat) (s : State) : Answer :=
  guardUnit (coreOk sa x y) (s.withSlot sa x y 8 1 fun s c w d => s.vrow sa x y c w d)

/-! ## VCVT (R33-R37, R87) -/

/-- Operands of a VCVT (R87). -/
structure Cvt where
  dst : Nat
  src : Nat
  fmt : Nat
  scale : Nat
  rnd : Bool
  decode : Bool
  trans : Bool
  ofs : Nat
  sreg : Nat
  sofs : Nat
  areg : Nat
  tens : Nat
  deriving DecidableEq, Repr

def cvtOf (w : W64) : Cvt :=
  { dst := fld w 47 45, src := fld w 44 42, fmt := fld w 41 38, scale := fld w 37 30, rnd := bitOf w 29,
    decode := bitOf w 28, trans := bitOf w 27, ofs := fld w 26 25, sreg := fld w 24 22, sofs := fld w 21 17,
    areg := fld w 16 14, tens := fld w 13 9 }

def Cvt.scaled (v : Cvt) : Bool := scFmt v.scale != 0
/-- Tile element at packed position `p`. -/
def Cvt.at (v : Cvt) (p : Nat) : Nat × Nat := if v.trans then (p % 16, p / 16) else (p / 16, p % 16)
/-- Packed position of tile element (i, j). -/
def Cvt.pos (v : Cvt) (q : Nat × Nat) : Nat := if v.trans then 16 * q.2 + q.1 else 16 * q.1 + q.2

/-- The tile elements of the block that holds (i, j) (R21, R87). -/
def Cvt.block (v : Cvt) (q : Nat × Nat) : List (Nat × Nat) :=
  let b := min (scBlock v.scale) 16
  (List.range b).map fun k => if scDir v.scale == 0 then (q.1, q.2 / b * b + k) else (q.1 / b * b + k, q.2)

/-- The block's amax word and whether it holds a NaN or an infinity, or its source reads +infinity (R35, R87). -/
def Cvt.amax (v : Cvt) (tiles : SMap Byte) (q : Nat × Nat) : W32 × Bool :=
  let xs := (v.block q).map fun e => tileWord tiles v.src e.1 e.2
  let special := xs.any fun a => isNan32 a || isInf32 a
  if scBlock v.scale ≤ 16 then (xs.foldl (fun m a => max32 m (abs32 a)) 0, special)
  else
    let a := if scDir v.scale == 0 then tileWord tiles v.areg q.1 0 else tileWord tiles v.areg 0 q.2
    (a, special || a == 0x7F800000)

/-- The scale byte of the block that holds (i, j): none is the NaN scale. -/
def Cvt.scaleOf (v : Cvt) (tiles : SMap Byte) (q : Nat × Nat) : Option Byte :=
  let m := v.amax tiles q
  blockScale (scFmt v.scale) v.fmt m.1 m.2

/-- One element encoded (R33-R36): its code and exception bits. `rnd` its word of R37. -/
def Cvt.encode1 (v : Cvt) (tiles : SMap Byte) (rnd : Nat) (q : Nat × Nat) : Nat × Flags :=
  let a := tileWord tiles v.src q.1 q.2
  let mode := if v.rnd then Round.stochastic rnd else Round.nearestEven
  if v.scaled then
    match v.scaleOf tiles q with
    | none => let r := convert mode v.fmt true nan32
      (r.1, r.2 ||| fInvalid)
    | some b =>
      match decodeScale (scFmt v.scale) b with
      | none => (0, fInvalid)
      | some sc => convertScaled mode v.fmt a sc
  else convert mode v.fmt false a

/-- The 32 bytes of the scale slot an encoding writes (R71, R87). -/
def Cvt.slotBytes (v : Cvt) (tiles : SMap Byte) : List Byte :=
  positions.foldl
    (fun l q => l.set (slotByte v.scale q.1 q.2)
      (match v.scaleOf tiles q with
        | some b => b
        | none => nanScale (scFmt v.scale)))
    (List.replicate 32 0)

def isNanCode (f w : Nat) : Bool := decodeVal f w == .nan

/-- FP32 to packed (R87). Where the scale slot overlaps the packed region, the slot's bytes stand (DESIGN CHOICE, log entry 58). -/
def State.encodeTile (s : State) (sa : Nat) (c : Core) (v : Cvt) (d : Nat) : VecOut :=
  let seed := match (s.arr sa).part with
    | some p => (s.part p).set.jobSeed
    | none => 0
  let step := c.stepNum.toNat
  let code := fun q : Nat × Nat =>
    v.encode1 c.tiles (if v.rnd then philox seed (c.tensIndex v.tens c.it q.1 q.2) (c.tensId v.tens) step else 0) q
  let rs := positions.map code
  let n := fmtBits v.fmt
  let packed := leBytes (32 * n)
    ((positions.zip rs).foldl (fun t q => t + q.2.1 * 2 ^ (n * v.pos q.1)) 0)
  let data := packed.zipIdx.map fun p => (1024 * v.dst + 256 * v.ofs + p.2, p.1)
  let slot := if v.scaled then (v.slotBytes c.tiles).zipIdx.map fun p => (1024 * v.sreg + 32 * v.sofs + p.2, p.1) else []
  let qs := positions.zip rs
  ⟨data ++ slot, orFlags (rs.map Prod.snd), qs.filterMap fun q =>
    let e := fun src => some (c.eventAt v.tens c.it (d + q.1.1) src v.fmt c.slot q.1.1 q.1.2)
    if isInvalid q.2.2 then e 3 else if isNanCode v.fmt q.2.1 then e 5 else none⟩

/-- Packed to FP32 (R22, R87): each element with its exception bits and the source of its INVALID. -/
def Core.decodeTile (c : Core) (v : Cvt) (d : Nat) : VecOut :=
  let reg := fun b => SMap.look 0 c.tiles (1024 * v.src + 256 * v.ofs + b)
  let slot := fun b => SMap.look 0 c.tiles (1024 * v.sreg + 32 * v.sofs + b)
  let rs := positions.map fun q =>
    let w := packedElem v.fmt reg (v.pos q)
    if v.scaled then
      match decodeScale (scFmt v.scale) (slot (slotByte v.scale q.1 q.2)) with
      | none => (nan32, fInvalid, 4)
      | some sc => let r := decodeMul v.fmt w sc
        (r.1, r.2, 3)
    else let r := decodeMul v.fmt w (1, 0)
      (r.1, r.2, 3)
  let qs := positions.zip rs
  ⟨tileWrites v.dst (rs.map fun r => r.1), orFlags (rs.map fun r => r.2.1), qs.filterMap fun q =>
    let e := fun src => some (c.eventAt v.tens c.it (d + q.1.1) src 0 c.slot q.1.1 q.1.2)
    if isInvalid q.2.2.1 then e q.2.2.2 else if isNan32 q.2.1 then e 5 else none⟩

def State.vcvt (s : State) (sa x y : Nat) (c : Core) (w : W64) (d : Nat) : State :=
  let v := cvtOf w
  let regs := [v.dst, v.src] ++ (if v.scaled then [v.sreg] else [])
    ++ (if v.scaled && !v.decode && decide (16 < scBlock v.scale) then [v.areg] else [])
  if decide (d < c.vectorFree) || c.tileBusy d regs then slotFault s sa x y c unitBusy d
  else if v.decode then s.vectorDone sa x y c d 16 regs (c.decodeTile v d)
  else s.vectorDone sa x y c d 16 regs (s.encodeTile sa c v d)

def execVcvt (sa x y : Nat) (s : State) : Answer :=
  guardUnit (coreOk sa x y) (s.withSlot sa x y 8 2 fun s c w d => s.vcvt sa x y c w d)

/-! ## VACC (R88) -/

def State.vacc (s : State) (sa x y : Nat) (c : Core) (w : W64) (d : Nat) : State :=
  let dst := fld w 47 45
  let tens := fld w 39 35
  if decide (d < c.vectorFree) || decide (d < c.matrixFree) || c.tileBusy d [dst] then
    slotFault s sa x y c unitBusy d
  else
    let cols := s.accColumns c d
    let s1 := { s with draws := s.accDraws c d }
    let c1 := { c with vaccFree := d + 16 }
    if bitOf w 44 then
      let rs := cols.map foldColumn
      s1.vectorDone sa x y c1 d 16 [dst]
        ⟨tileWrites dst (rs.map Prod.fst), orFlags (rs.map Prod.snd), rowEvents c tens c.it c.slot d 1 rs⟩
    else
      let lv := fld w 43 40
      let ws := cols.map fun v => if v.pend.getLsbD lv then nth 0 v.entry lv else 0
      s1.vectorDone sa x y c1 d 16 [dst]
        ⟨tileWrites dst ws, 0, []⟩

def execVacc (sa x y : Nat) (s : State) : Answer :=
  guardUnit (coreOk sa x y) (s.withSlot sa x y 8 3 fun s c w d => s.vacc sa x y c w d)

/-! ## MCHECK (R89) -/

/-- FUNC on one row of 16 elements (R89): softmax, RMS normalisation, identity. Each element with its exception bits; those of what
the row forms once, its sum and root, come before those of its elements and count at its first (log entry 44). -/
def checkRow (func : Nat) (xs : List W32) : List (W32 × Flags) :=
  let first := fun (fl : Flags) (l : List (W32 × Flags)) => l.modifyHead fun v => (v.1, fl ||| v.2)
  match func with
  | 0 =>
    let m := (rowOp 2 xs).1
    let ds := xs.map fun v => sub32 v m
    let es := ds.map fun v => exp32 v.1
    let t := treeRoot 4 (es.map Prod.fst)
    first t.2 ((ds.zip es).map fun v => let e := div32 v.2.1 t.1
      (e.1, v.1.2 ||| v.2.2 ||| e.2))
  | 1 =>
    let q := rowOp 1 xs
    let t := mul32 q.1 0x3D800000
    let u := add32 t.1 0x35800000
    let r := rsqrt32 u.1
    first (orFlags [q.2, t.2, u.2, r.2]) (xs.map fun v => mul32 v r.1)
  | _ => xs.map fun v => (v, 0)

/-- A product with START into a cleared column, of one output: the column, the exception bits, and for each leaf its last k, whether
it raised INVALID, and whether its insertion did. -/
def startProduct (p : Prof) (mov res : Nat → Byte) : List (Column × Flags × List (Nat × Bool × Bool)) :=
  positions.map fun q =>
    let ls := outputLeaves p mov res (fun _ => 0) q.1 q.2
    let r := insertLeaves ⟨List.replicate 16 0, 0⟩ (ls.map fun l => l.1)
    (r.1, orFlags (ls.map fun l => l.2.1) ||| r.2.1, (ls.zip r.2.2).map fun l => (l.1.2.2, isInvalid l.1.2.1, l.2))

/-- Fire cycle in which the second product of an MCHECK issued in `d` begins (log entry 57): its last leaf is in when the occupancy
ends. -/
def checkSecond (p : Prof) (d : Nat) : Nat := d + p.occupancy + 90

/-- MCHECK's claims of its two operands, issued in `d` (DESIGN CHOICE, log entry 57). -/
def checkClaims (p : Prof) (d : Nat) (mov b2 : List Nat) : List Claim :=
  [⟨d, readRate p.fmtA, mov⟩, ⟨checkSecond p d, readRate p.fmtA, b2⟩]

/-- The trapping events of a product of MCHECK that begins in fire cycle `b`: as an MMA's, a leaf when it is formed and a node six
fire cycles later (R43, R89). -/
def productEvents (c : Core) (p : Prof) (tens b : Nat) (rs : List (Column × Flags × List (Nat × Bool × Bool))) : List TrapEvent :=
  (positions.zip rs).flatMap fun q => q.2.2.2.flatMap fun l =>
    let e := fun (src f : Nat) => c.eventAt tens c.it f src 0 c.slot q.1.1 q.1.2
    (if l.2.1 then [e 0 (leafCycle p b l.1)] else []) ++ if l.2.2 then [e 1 (leafCycle p b l.1 + 6)] else []

/-- The trapping events of steps 2 to 4 of MCHECK, of results with exception bits: row i of the fold 16 + i fire cycles after the
first product's occupancy, of the row function 48 + i, of the conversion 74 + i (DESIGN CHOICE, log entry 57). -/
def checkEvents (c : Core) (p : Prof) (tens d src fmt at0 : Nat) (fls : List Flags) : List TrapEvent :=
  ((positions.zip fls).filter fun q => isInvalid q.2).map fun q =>
    c.eventAt tens c.it (d + p.occupancy + at0 + q.1.1) src fmt c.slot q.1.1 q.1.2

/-- TREG keeps the FP32 row results: the codes of step 4 go on into step 5 alone (DESIGN CHOICE, log entry 59). A profile whose scale
controls are not none, which R89 excludes and for which it names no rejection, computes as if they were (DESIGN CHOICE, log
entry 59). -/
def State.mcheck (s : State) (sa x y : Nat) (c : Core) (w : W64) (d : Nat) (ecc : ReadEcc) : State :=
  let p := profOf (c.profW (fld w 23 22))
  let treg := fld w 19 17
  let tens := fld w 16 12
  let p2 : Prof := { p with klen := 16, scaleA := 0, scaleB := 0, last := true }
  let occ := p.occupancy + ceilDiv 16 (macRate p.fmtA) + 96
  if c.matrixBusy d || decide (d < c.vectorFree) || c.tileBusy d [treg] then slotFault s sa x y c unitBusy d
  else
    match c.readRange (fld w 47 36) p.moveUnits, c.readRange (fld w 35 24) p2.moveUnits with
    | some a, some b =>
      match c.claimAll d (checkClaims p d a.1 b.1) with
      | none => slotFault s sa x y c unitBusy d
      | some _ =>
        match eccFails ecc (a.1 ++ b.1) with
        | some u => (s.fire sa x y d c).scratchUe sa x y c.slot d u
        | none =>
          -- leaves of an MMA before it are in before the START of step 1 clears the store
          let s0 := s.insertBefore sa x y (d + 6) c.mmaPend
          let c0 := s0.core (coreKey sa x y)
          let p1 : Prof := { p with scaleA := 0, scaleB := 0 }
          let one := startProduct p1 (imageByte c.scratch a.1) (fun k => SMap.look 0 c.resident k)
          let folded := one.map fun r => foldColumn r.1
          let rows := (List.range 16).flatMap fun i => checkRow (fld w 21 20) (((folded.map Prod.fst).drop (16 * i)).take 16)
          let work := rows.map Prod.fst
          let codes := work.map fun v => convertOut p.fmtA v
          let n := fmtBits p.fmtA
          -- the moving image is k-major: element (i, k) at packed position 16·k + i (R71)
          let img := leBytes (32 * n) ((positions.zip codes).foldl (fun t q => t + q.2.1 * 2 ^ (n * (16 * q.1.2 + q.1.1))) 0)
          let two := startProduct p2 (fun k => nth 0 img k) (imageByte c.scratch b.1)
          let fl := orFlags (one.map (fun r => r.2.1) ++ folded.map Prod.snd ++ rows.map Prod.snd ++ codes.map Prod.snd
            ++ two.map fun r => r.2.1)
          let c1 := Core.setColumns
            { c0 with claims := checkClaims p d a.1 b.1 ++ liveClaims c.claims d, mmaPend := [],
                      tiles := writeTiles c.tiles (tileWrites treg work), matrixFree := d + occ, vectorFree := d + occ }
            (two.map fun r => r.1)
          let c2 := ((c1.raise fl).holdTiles (d + occ) [treg]).noteRetire (d + occ - 1) a.2
          let s1 := (s0.fire sa x y d (c2.noteRetire (d + occ - 1) b.2)).scratchCe sa x y (eccFixes ecc (a.1 ++ b.1))
          if s.trapMode sa == 0 then s1
          else
            s1.trap sa x y d
              (productEvents c p1 tens d one ++ checkEvents c p tens d 1 0 16 (folded.map Prod.snd)
                ++ checkEvents c p tens d 2 0 48 (rows.map Prod.snd) ++ checkEvents c p tens d 3 p.fmtA 74 (codes.map Prod.snd)
                ++ productEvents c p2 tens (checkSecond p d) two)
    | _, _ => slotFault s sa x y c ringEmpty d

def execMcheck (sa x y : Nat) (ecc : ReadEcc) (s : State) : Answer :=
  guardUnit (coreOk sa x y) (s.withSlot sa x y 2 4 fun s c w d => s.mcheck sa x y c w d ecc)

end Sys2Proof.Machine
end

