-- ==== Sys2Proof/Machine/Dispatch.lean ====
section
/-!
DEFINITION. Which meaning each command has: one arm per constructor.
-/
namespace Sys2Proof.Machine

def exec (i : Instr) (s : State) : Host.Outcome State Fault Refusal :=
  match i with
  | .nop sa x y => Sys2Proof.Machine.execNop sa x y s
  | .wait sa x y => Sys2Proof.Machine.execWait sa x y s
  | .loop sa x y => Sys2Proof.Machine.execLoop sa x y s
  | .halt sa x y => Sys2Proof.Machine.execHalt sa x y s
  | .hold sa => Sys2Proof.Machine.execHold sa s
  | .mload sa x y ecc => Sys2Proof.Machine.execMload sa x y ecc s
  | .mma sa x y ecc => Sys2Proof.Machine.execMma sa x y ecc s
  | .mmaLeafInsert sa x y => Sys2Proof.Machine.execMmaLeafInsert sa x y s
  | .mdrain sa x y => Sys2Proof.Machine.execMdrain sa x y s
  | .mnode sa x y => Sys2Proof.Machine.execMnode sa x y s
  | .mcheck sa x y ecc => Sys2Proof.Machine.execMcheck sa x y ecc s
  | .tload sa x y ecc => Sys2Proof.Machine.execTload sa x y ecc s
  | .tstore sa x y => Sys2Proof.Machine.execTstore sa x y s
  | .vrun sa x y => Sys2Proof.Machine.execVrun sa x y s
  | .vrow sa x y => Sys2Proof.Machine.execVrow sa x y s
  | .vcvt sa x y => Sys2Proof.Machine.execVcvt sa x y s
  | .vacc sa x y => Sys2Proof.Machine.execVacc sa x y s
  | .vectorResultWrite sa x y => Sys2Proof.Machine.execVectorResultWrite sa x y s
  | .send sa x y => Sys2Proof.Machine.execSend sa x y s
  | .rwrite sa x y => Sys2Proof.Machine.execRwrite sa x y s
  | .sendDrained sa x y port ecc => Sys2Proof.Machine.execSendDrained sa x y port ecc s
  | .fset sa x y => Sys2Proof.Machine.execFset sa x y s
  | .fclr sa x y => Sys2Proof.Machine.execFclr sa x y s
  | .cinc sa x y => Sys2Proof.Machine.execCinc sa x y s
  | .cdec sa x y => Sys2Proof.Machine.execCdec sa x y s
  | .cclr sa x y => Sys2Proof.Machine.execCclr sa x y s
  | .sfetch sa x y ecc => Sys2Proof.Machine.execSfetch sa x y ecc s
  | .srel sa x y ecc => Sys2Proof.Machine.execSrel sa x y ecc s
  | .stok sa x y => Sys2Proof.Machine.execStok sa x y s
  | .steerItemArrival sa x y unit mport cycle item => Sys2Proof.Machine.execSteerItemArrival sa x y unit mport cycle item s
  | .steerSkew sa x y unit => Sys2Proof.Machine.execSteerSkew sa x y unit s
  | .ringMessageArrival tok mport => Sys2Proof.Machine.execRingMessageArrival tok mport s
  | .directWriteArrival tok mport => Sys2Proof.Machine.execDirectWriteArrival tok mport s
  | .creditReturn sa x y port => Sys2Proof.Machine.execCreditReturn sa x y port s
  | .deadlock part => Sys2Proof.Machine.execDeadlock part s
  | .dlCtlWrite port part value => Sys2Proof.Machine.execDlCtlWrite port part value s
  | .routerMessage tok ecc => Sys2Proof.Machine.execRouterMessage tok ecc s
  | .laneSpare site dir lane => Sys2Proof.Machine.execLaneSpare site dir lane s
  | .releaseToken tok ecc => Sys2Proof.Machine.execReleaseToken tok ecc s
  | .reductionInput tok => Sys2Proof.Machine.execReductionInput tok s
  | .reductionAdd site slot => Sys2Proof.Machine.execReductionAdd site slot s
  | .stationRedInput tok => Sys2Proof.Machine.execStationRedInput tok s
  | .stationRedAdd ms slot => Sys2Proof.Machine.execStationRedAdd ms slot s
  | .streamRequestArrival tok => Sys2Proof.Machine.execStreamRequestArrival tok s
  | .streamRequestAdmit ms => Sys2Proof.Machine.execStreamRequestAdmit ms s
  | .stackAccessComplete ms rid errs => Sys2Proof.Machine.execStackAccessComplete ms rid errs s
  | .tileResponse ms rid => Sys2Proof.Machine.execTileResponse ms rid s
  | .tileLanding tok => Sys2Proof.Machine.execTileLanding tok s
  | .writeAck tok => Sys2Proof.Machine.execWriteAck tok s
  | .pseThreadReturn ms thread errs => Sys2Proof.Machine.execPseThreadReturn ms thread errs s
  | .updatePartArrival tok => Sys2Proof.Machine.execUpdatePartArrival tok s
  | .updateApply ms errs => Sys2Proof.Machine.execUpdateApply ms errs s
  | .divRereadDone part errs => Sys2Proof.Machine.execDivRereadDone part errs s
  | .divRecomputeDone part checkOk errs => Sys2Proof.Machine.execDivRecomputeDone part checkOk errs s
  | .divRecomputeTimeout part errs => Sys2Proof.Machine.execDivRecomputeTimeout part errs s
  | .flashStageComplete ms slot pages => Sys2Proof.Machine.execFlashStageComplete ms slot pages s
  | .writebackComplete ms slot errs => Sys2Proof.Machine.execWritebackComplete ms slot errs s
  | .pendingApply ms entry errs => Sys2Proof.Machine.execPendingApply ms entry errs s
  | .slowStarved ms rid => Sys2Proof.Machine.execSlowStarved ms rid s
  | .scrubRead ms errs innerCe => Sys2Proof.Machine.execScrubRead ms errs innerCe s
  | .softRowRepair ms row => Sys2Proof.Machine.execSoftRowRepair ms row s
  | .zeroWriteDone ms => Sys2Proof.Machine.execZeroWriteDone ms s
  | .skeinStart port part => Sys2Proof.Machine.execSkeinStart port part s
  | .skeinEnd port => Sys2Proof.Machine.execSkeinEnd port s
  | .skeinAbort port => Sys2Proof.Machine.execSkeinAbort port s
  | .skeinWinWrite port data => Sys2Proof.Machine.execSkeinWinWrite port data s
  | .skeinVerifyDone port => Sys2Proof.Machine.execSkeinVerifyDone port s
  | .skeinDeadlineExpiry port => Sys2Proof.Machine.execSkeinDeadlineExpiry port s
  | .commit port flush drainUs => Sys2Proof.Machine.execCommit port flush drainUs s
  | .commitHaltDone port => Sys2Proof.Machine.execCommitHaltDone port s
  | .commitAllocate port => Sys2Proof.Machine.execCommitAllocate port s
  | .drainComplete port => Sys2Proof.Machine.execDrainComplete port s
  | .drainTimeout port => Sys2Proof.Machine.execDrainTimeout port s
  | .partCreate port saCount cls conf => Sys2Proof.Machine.execPartCreate port saCount cls conf s
  | .partStart port part => Sys2Proof.Machine.execPartStart port part s
  | .castLockDone part => Sys2Proof.Machine.execCastLockDone part s
  | .castLockTimeout part => Sys2Proof.Machine.execCastLockTimeout part s
  | .partStop port part scan => Sys2Proof.Machine.execPartStop port part scan s
  | .bindOffDone part => Sys2Proof.Machine.execBindOffDone part s
  | .partSuspend port part => Sys2Proof.Machine.execPartSuspend port part s
  | .quiesceDone part => Sys2Proof.Machine.execQuiesceDone part s
  | .quiesceTimeout part errs => Sys2Proof.Machine.execQuiesceTimeout part errs s
  | .scanOutDone part errs tail => Sys2Proof.Machine.execScanOutDone part errs tail s
  | .partPlace port part => Sys2Proof.Machine.execPartPlace port part s
  | .placeDone part => Sys2Proof.Machine.execPlaceDone part s
  | .partResume port part => Sys2Proof.Machine.execPartResume port part s
  | .resumeDone part errs => Sys2Proof.Machine.execResumeDone part errs s
  | .partRelease port part => Sys2Proof.Machine.execPartRelease port part s
  | .warnClr port part => Sys2Proof.Machine.execWarnClr port part s
  | .partComplete part => Sys2Proof.Machine.execPartComplete part s
  | .statusGather part => Sys2Proof.Machine.execStatusGather part s
  | .portReset port kind => Sys2Proof.Machine.execPortReset port kind s
  | .linkUp port speed width flit => Sys2Proof.Machine.execLinkUp port speed width flit s
  | .portReady port => Sys2Proof.Machine.execPortReady port s
  | .configRequest port reg write cmds => Sys2Proof.Machine.execConfigRequest port reg write cmds s
  | .registerWrite port offset size value cmds => Sys2Proof.Machine.execRegisterWrite port offset size value cmds s
  | .winMapWrite port slot value => Sys2Proof.Machine.execWinMapWrite port slot value s
  | .windowRead port addr len ide errs => Sys2Proof.Machine.execWindowRead port addr len ide errs s
  | .windowWrite port addr data ide => Sys2Proof.Machine.execWindowWrite port addr data ide s
  | .partDb port part value ide => Sys2Proof.Machine.execPartDb port part value ide s
  | .doorbellRelease port => Sys2Proof.Machine.execDoorbellRelease port s
  | .doorbellLand tok mport => Sys2Proof.Machine.execDoorbellLand tok mport s
  | .sqTailWrite port q tail cmds => Sys2Proof.Machine.execSqTailWrite port q tail cmds s
  | .cqHeadWrite port q head cmds => Sys2Proof.Machine.execCqHeadWrite port q head cmds s
  | .queueEnable port q value => Sys2Proof.Machine.execQueueEnable port q value s
  | .queueDisable port q => Sys2Proof.Machine.execQueueDisable port q s
  | .skeinFetch port q cid data => Sys2Proof.Machine.execSkeinFetch port q cid data s
  | .winRead port q cid ide errs => Sys2Proof.Machine.execWinRead port q cid ide errs s
  | .winWrite port q cid data ide => Sys2Proof.Machine.execWinWrite port q cid data ide s
  | .volCreate port q cid => Sys2Proof.Machine.execVolCreate port q cid s
  | .volDelete port q cid => Sys2Proof.Machine.execVolDelete port q cid s
  | .volBind port q cid => Sys2Proof.Machine.execVolBind port q cid s
  | .volInfo port q cid => Sys2Proof.Machine.execVolInfo port q cid s
  | .volRead port q cid pages => Sys2Proof.Machine.execVolRead port q cid pages s
  | .volWrite port q cid data ide => Sys2Proof.Machine.execVolWrite port q cid data ide s
  | .completionPost port q => Sys2Proof.Machine.execCompletionPost port q s
  | .ideIntegrityFail port stream => Sys2Proof.Machine.execIdeIntegrityFail port stream s
  | .doeDiscovery port index => Sys2Proof.Machine.execDoeDiscovery port index s
  | .getVersion port => Sys2Proof.Machine.execGetVersion port s
  | .getCapabilities port => Sys2Proof.Machine.execGetCapabilities port s
  | .negotiateAlgorithms port => Sys2Proof.Machine.execNegotiateAlgorithms port s
  | .getDigests port => Sys2Proof.Machine.execGetDigests port s
  | .getCertificate port offset len => Sys2Proof.Machine.execGetCertificate port offset len s
  | .challenge port nonce => Sys2Proof.Machine.execChallenge port nonce s
  | .getMeasurements port index sign nonce => Sys2Proof.Machine.execGetMeasurements port index sign nonce s
  | .keyExchange port => Sys2Proof.Machine.execKeyExchange port s
  | .finish port sess ok => Sys2Proof.Machine.execFinish port sess ok s
  | .keyUpdate port sess => Sys2Proof.Machine.execKeyUpdate port sess s
  | .heartbeat port sess => Sys2Proof.Machine.execHeartbeat port sess s
  | .endSession port sess => Sys2Proof.Machine.execEndSession port sess s
  | .hostKey port sess key sigOk => Sys2Proof.Machine.execHostKey port sess key sigOk s
  | .query port sess => Sys2Proof.Machine.execQuery port sess s
  | .keyProg port sess stream set => Sys2Proof.Machine.execKeyProg port sess stream set s
  | .kSetGo port sess stream set => Sys2Proof.Machine.execKSetGo port sess stream set s
  | .kSetStop port sess stream set => Sys2Proof.Machine.execKSetStop port sess stream set s
  | .setEndpointId port eid fromRoot => Sys2Proof.Machine.execSetEndpointId port eid fromRoot s
  | .getEndpointId port fromRoot => Sys2Proof.Machine.execGetEndpointId port fromRoot s
  | .getEndpointUuid port fromRoot => Sys2Proof.Machine.execGetEndpointUuid port fromRoot s
  | .getMctpVersionSupport port fromRoot => Sys2Proof.Machine.execGetMctpVersionSupport port fromRoot s
  | .getMessageTypeSupport port fromRoot => Sys2Proof.Machine.execGetMessageTypeSupport port fromRoot s
  | .getVendorDefinedMessageSupport port fromRoot => Sys2Proof.Machine.execGetVendorDefinedMessageSupport port fromRoot s
  | .mctpGelokanRequest port pdu index sub offset count fromRoot => Sys2Proof.Machine.execMctpGelokanRequest port pdu index sub offset count fromRoot s
  | .cert f offset => Sys2Proof.Machine.execCert f offset s
  | .openReq f role nonceR qR => Sys2Proof.Machine.execOpenReq f role nonceR qR s
  | .auth f cert key signer sig => Sys2Proof.Machine.execAuth f cert key signer sig s
  | .close f => Sys2Proof.Machine.execClose f s
  | .expRead f index sub => Sys2Proof.Machine.execExpRead f index sub s
  | .expWrite f index sub size data => Sys2Proof.Machine.execExpWrite f index sub size data s
  | .segRead f index sub offset count => Sys2Proof.Machine.execSegRead f index sub offset count s
  | .segWrite f index sub total offset data => Sys2Proof.Machine.execSegWrite f index sub total offset data s
  | .apply session index => Sys2Proof.Machine.execApply session index s
  | .objectWrite session index sub data => Sys2Proof.Machine.execObjectWrite session index sub data s
  | .sessionIdleExpiry session => Sys2Proof.Machine.execSessionIdleExpiry session s
  | .sessionAuthTimeout session => Sys2Proof.Machine.execSessionAuthTimeout session s
  | .segTransferTimeout session => Sys2Proof.Machine.execSegTransferTimeout session s
  | .transmitOpportunity seg => Sys2Proof.Machine.execTransmitOpportunity seg s
  | .plcaBeacon seg => Sys2Proof.Machine.execPlcaBeacon seg s
  | .plcaLossExpiry seg => Sys2Proof.Machine.execPlcaLossExpiry seg s
  | .csmaBackoffExpiry seg collides => Sys2Proof.Machine.execCsmaBackoffExpiry seg collides s
  | .rekey session value => Sys2Proof.Machine.execRekey session value s
  | .svnCommit session value => Sys2Proof.Machine.execSvnCommit session value s
  | .maintAuth session digest => Sys2Proof.Machine.execMaintAuth session digest s
  | .debugToken session valid validTicks reach => Sys2Proof.Machine.execDebugToken session valid validTicks reach s
  | .debugTokenExpiry => Sys2Proof.Machine.execDebugTokenExpiry s
  | .evtRecords session => Sys2Proof.Machine.execEvtRecords session s
  | .bedReenable session bed value => Sys2Proof.Machine.execBedReenable session bed value s
  | .borderRestart session value => Sys2Proof.Machine.execBorderRestart session value s
  | .fullTest session value => Sys2Proof.Machine.execFullTest session value s
  | .fuseBurn session value => Sys2Proof.Machine.execFuseBurn session value s
  | .fwChunk session data => Sys2Proof.Machine.execFwChunk session data s
  | .fwVerify session value => Sys2Proof.Machine.execFwVerify session value s
  | .fwVerifyDone sigOk => Sys2Proof.Machine.execFwVerifyDone sigOk s
  | .fwSwitch session value => Sys2Proof.Machine.execFwSwitch session value s
  | .fwElementSwitchDone => Sys2Proof.Machine.execFwElementSwitchDone s
  | .standbyPowerGood feed imageA imageB golden mgcs sources fuses => Sys2Proof.Machine.execStandbyPowerGood feed imageA imageB golden mgcs sources fuses s
  | .borderPhaseStart found => Sys2Proof.Machine.execBorderPhaseStart found s
  | .borderRelease => Sys2Proof.Machine.execBorderRelease s
  | .standbyLoss => Sys2Proof.Machine.execStandbyLoss s
  | .feedDrop feed => Sys2Proof.Machine.execFeedDrop feed s
  | .feedReconnect feed => Sys2Proof.Machine.execFeedReconnect feed s
  | .branchFault bed blown => Sys2Proof.Machine.execBranchFault bed blown s
  | .coreRailFault bed => Sys2Proof.Machine.execCoreRailFault bed s
  | .transitRailShort bed => Sys2Proof.Machine.execTransitRailShort bed s
  | .transitConverterFail bed => Sys2Proof.Machine.execTransitConverterFail bed s
  | .bedPllLockLoss bed => Sys2Proof.Machine.execBedPllLockLoss bed s
  | .voltageMonitorCheck failed => Sys2Proof.Machine.execVoltageMonitorCheck failed s
  | .refLoss ref => Sys2Proof.Machine.execRefLoss ref s
  | .trellisPllFailover failed => Sys2Proof.Machine.execTrellisPllFailover failed s
  | .bedFreqStep bed => Sys2Proof.Machine.execBedFreqStep bed s
  | .powerControlPeriod powerNow stepCost coolIn coolOut coolFlow => Sys2Proof.Machine.execPowerControlPeriod powerNow stepCost coolIn coolOut coolFlow s
  | .thermalStep bed readings => Sys2Proof.Machine.execThermalStep bed readings s
  | .bedDrain bed => Sys2Proof.Machine.execBedDrain bed s
  | .bedDrainDone bed => Sys2Proof.Machine.execBedDrainDone bed s
  | .bedCrit bed temp => Sys2Proof.Machine.execBedCrit bed temp s
  | .offHeatRecover bed => Sys2Proof.Machine.execOffHeatRecover bed s
  | .bedWake bed => Sys2Proof.Machine.execBedWake bed s
  | .bedAwake bed found readings => Sys2Proof.Machine.execBedAwake bed found readings s
  | .bedSleep bed => Sys2Proof.Machine.execBedSleep bed s
  | .thermalSensorCheck bed readings => Sys2Proof.Machine.execThermalSensorCheck bed readings s
  | .coolLeak water => Sys2Proof.Machine.execCoolLeak water s
  | .commissionInput asserted => Sys2Proof.Machine.execCommissionInput asserted s
  | .periodicCheck sa skein failing => Sys2Proof.Machine.execPeriodicCheck sa skein failing s
  | .entropyTestFail source restored => Sys2Proof.Machine.execEntropyTestFail source restored s
  | .keyStoreBankFail bank => Sys2Proof.Machine.execKeyStoreBankFail bank s
  | .mgcFail mgc => Sys2Proof.Machine.execMgcFail mgc s
  | .attachRouterFail site => Sys2Proof.Machine.execAttachRouterFail site s
  | .referenceRestored ref => Sys2Proof.Machine.execReferenceRestored ref s
  | .standbyFeedDrop feed => Sys2Proof.Machine.execStandbyFeedDrop feed s
  | .completionTimeout port q cid ide => Sys2Proof.Machine.execCompletionTimeout port q cid ide s
  | .physicalCollision seg => Sys2Proof.Machine.execPhysicalCollision seg s
  | .coordinatorBeacon seg => Sys2Proof.Machine.execCoordinatorBeacon seg s
  | .nandChannelFail fs channel => Sys2Proof.Machine.execNandChannelFail fs channel s

end Sys2Proof.Machine
end

