-- ==== Sys2Proof/Safety.lean ====
section
/-!
DEFINITION. What counts as a safe run of the device, in the terms the statements use: a step that answers a next state, a
queue of commands that name units the device has, an event log within its bound (R293), and what no command writes (R257).
-/
namespace Sys2Proof.Machine

/-- The answer is a next state: the device went on. -/
def Goes (a : Answer) : Prop := ∃ t, a = .next t

/-- The answer is the next state `t`, and `t` has the property. -/
def Yields (a : Answer) (P : State → Prop) : Prop := ∃ t, a = .next t ∧ P t

/-- Every waiting command names units the device has. -/
def State.QueueOk (s : State) : Prop := ∀ c ∈ s.pending, c.wf = true

/-- The event log holds at most 65,536 records (R293). -/
def State.LogOk (s : State) : Prop := s.gel.log.length ≤ 65536

/-- The tables of the device's units are in canonical form (log entry 9). -/
def State.TablesOk (s : State) : Prop :=
  SMap.wf Core.reset s.cores = true ∧ SMap.wf Arr.reset s.arrays = true ∧ SMap.wf Router.reset s.routers = true
    ∧ SMap.wf Ms.reset s.ms = true ∧ SMap.wf Fs.reset s.fs = true ∧ SMap.wf none s.volumes = true
    ∧ SMap.wf Part.reset s.parts = true ∧ SMap.wf Port.reset s.ports = true ∧ SMap.wf Bed.reset s.beds = true

/-- What a safe run keeps of every state: the queue, the log and the tables. -/
def State.Safe (s : State) : Prop := s.QueueOk ∧ s.LogOk ∧ s.TablesOk

/-- What manufacture fixed and no command writes: the DEBUG_LOCK and MAINT_DEBUG fuses and the stepping (R257). -/
abbrev Mgs.fuses (m : Mgs) : Bool × Bool × Nat := (m.debugLock, m.maintDebug, m.stepping)

/-! ## A slot that fires (R42, R45, R47) -/

/-- Fire cycle of the slot of core (x, y) of array `sa`. -/
def State.dueAt (s : State) (sa x y : Nat) : Nat := (s.core (coreKey sa x y)).due

/-- The state the slot finds: the array has fired every earlier cycle, and a trap of one of them has been taken. -/
def State.atSlot (s : State) (sa x y : Nat) : State := s.pass sa (s.dueAt sa x y)

/-- The slot of core (x, y) of array `sa` is operation `op` of class `cls`, is due, and is the next of its array. -/
def State.Due (s : State) (sa x y cls op : Nat) : Prop :=
  coreOk sa x y = true ∧ s.slotReady sa (coreKey sa x y) cls op = true

/-- The slot fires: it is due, and no trap of an earlier cycle stopped the array before it. -/
def State.Fires (s : State) (sa x y cls op : Nat) : Prop :=
  s.Due sa x y cls op ∧ ((s.atSlot sa x y).arr sa).runs (s.dueAt sa x y) = true

/-- The core the slot finds. -/
def State.slotCore (s : State) (sa x y : Nat) : Core := (s.atSlot sa x y).core (coreKey sa x y)

/-- The state after a slot that left `t`: the array takes the trap of a fire cycle that it has finished. -/
def State.slotEnds (t : State) (sa : Nat) : State := t.latch sa

/-- The state after the slot when it changes only its core, to `c`. -/
def State.slotDone (s : State) (sa x y : Nat) (c : Core) : State :=
  ((s.atSlot sa x y).setCore (coreKey sa x y) c).slotEnds sa

/-- No trapping event of the array waits for the end of its fire cycle. -/
def State.NoTrapWaits (s : State) (sa x y : Nat) : Prop := ((s.atSlot sa x y).arr sa).notes = []

end Sys2Proof.Machine
end

