-- ==== Sys2Proof/Certificates/Slice0/Obligations.lean ====
section
/-!
DEFINITION. The statements about the device that the provers are to prove. `Yields a P`: the answer is a next state with property P
(Safety).
-/
open Sys2Proof Sys2Proof.Machine

/-- One step of the state with command `c` at the front of its queue is `exec c` on the state with the rest of the queue. -/
def Obligations.StepRunsFrontCommand : Prop :=
  ∀ (c : Instr) (rest : List Instr) (s : State),
    step { s with pending := c :: rest } = exec c { s with pending := rest }

/-- On an empty queue one tick passes (log entry 3): TICK (R293), JOB_TIME of the partitions that run or are complete (R233), the debug
token's validity (R269); nothing else changes. -/
def Obligations.IdleStepIsOneTick : Prop :=
  ∀ s : State, s.pending = [] → s.TablesOk →
    Yields (step s) fun t =>
      t.mgs = { s.mgs with tick := if s.mgs.phase = .off then 0 else (s.mgs.tick + 1) % 2 ^ 64,
                           debugTicks := s.mgs.debugTicks - 1 }
      ∧ (∀ p, t.part p = if (s.part p).state = .running ∨ (s.part p).state = .complete
          then { s.part p with elapsedTicks := (s.part p).elapsedTicks + 1 }
          else if (s.part p).state = .quiescing then { s.part p with quiesceTicks := (s.part p).quiesceTicks + 1 } else s.part p)
      ∧ t = { s with mgs := t.mgs, parts := t.parts }

/-- Reset satisfies the invariant that every step keeps, and holds the values of R222, R244, R293, R312 before any power-up. That reset is
the module without power, so that its phase is off, is the model's choice (log entry 4). -/
def Obligations.ResetIsSafe : Prop :=
  State.reset.Safe ∧ State.reset.pending = [] ∧ State.reset.gel.log = [] ∧ State.reset.gel.evtNext = 0
    ∧ State.reset.mgs.tick = 0 ∧ State.reset.mgs.phase = .off
    ∧ (∀ p, (State.reset.part p).state = .none) ∧ ∀ h, (State.reset.port h).ready = false

/-- No command stops on ordinary data: it goes on exactly when it names units the device has (log entry 2). -/
def Obligations.CommandsCompleteExactlyOnUnitsOfTheDevice : Prop :=
  ∀ (c : Instr) (s : State),
    (c.wf = true → Goes (exec c s)) ∧ (c.wf = false → exec c s = .fault .absentUnit)

/-- The invariant of the whole device: a step from a safe state answers a safe state (Safety: the queue, the log's bound of R293, the
canonical form of log entry 9). -/
def Obligations.EveryStepStaysSafe : Prop :=
  ∀ s : State, s.Safe → Yields (step s) State.Safe

/-- The fuses that manufacture writes (R257) are the same after every step, and a command does what it does to everything but the
queue. -/
def Obligations.NoCommandWritesFusesOrTheQueue : Prop :=
  (∀ (c : Instr) (s t : State), exec c s = .next t → t.pending = s.pending ∧ t.mgs.fuses = s.mgs.fuses)
  ∧ ∀ s t : State, step s = .next t → t.mgs.fuses = s.mgs.fuses

/-- What reaching a fire cycle can do (R45, R74, R103, R105, R110): it is the frame of everything a slot command does before its slot
acts. -/
def Obligations.EarlierCyclesOnlyRetireMessages : Prop :=
  ∀ (s : State) (sa d : Nat), let u := s.reach sa d
    u.arr sa = { s.arr sa with fireCycle := max (s.arr sa).fireCycle d, notes := (u.arr sa).notes }
    ∧ (s.trapMode sa = 0 → (u.arr sa).notes = (s.arr sa).notes)
    ∧ (∀ n, n ≠ sa → u.arr n = s.arr n)
    ∧ (∀ k, u.core k = { s.core k with
        rings := (u.core k).rings, retires := (u.core k).retires, acc := (u.core k).acc, pend := (u.core k).pend,
        mmaPend := (u.core k).mmaPend, fpStatus := (u.core k).fpStatus })
    ∧ (∀ k, k < 1200 * 576 → (s.core k).mmaPend = [] →
        u.core k = { s.core k with rings := (u.core k).rings, retires := (u.core k).retires })
    ∧ (∀ k, keyArr k ≠ sa → u.core k = s.core k)
    ∧ (∀ p, u.part p = { s.part p with dlFrom := (u.part p).dlFrom })
    ∧ (∀ n, u.router n = { s.router n with bufs := (u.router n).bufs })
    ∧ (∀ n, u.mem n = { s.mem n with bufs := (u.mem n).bufs })
    ∧ u = { s with cores := u.cores, arrays := u.arrays, parts := u.parts, net := u.net, nextId := u.nextId, routers := u.routers,
                   ms := u.ms }

/-- NOP, WAIT (R48), LOOP (R49). The equations give the whole next state, so they are the frame too. -/
def Obligations.ControlSlotsMoveTheSequencer : Prop :=
  ∀ (s : State) (sa x y : Nat), let c := s.slotCore sa x y; let d := s.dueAt sa x y
    (s.Fires sa x y 0 0 → exec (.nop sa x y) s = .next (s.slotDone sa x y
      { c with slot := (loopNext c.loops c.slot).1 % 1024, loops := (loopNext c.loops c.slot).2, lastFire := d, extra := 0 }))
    ∧ (s.Fires sa x y 0 1 → exec (.wait sa x y) s = .next (s.slotDone sa x y
      { c with slot := (loopNext c.loops c.slot).1 % 1024, loops := (loopNext c.loops c.slot).2, lastFire := d,
               extra := fld c.word 23 0 }))
    ∧ (s.Fires sa x y 0 2 → exec (.loop sa x y) s = .next (s.slotDone sa x y
      { c with slot := (c.slot + 1) % 1024, lastFire := d, extra := 0,
               loops := ⟨c.slot + 1, fld c.word 47 38, fld c.word 37 22, 0⟩ :: c.loops }))
    ∧ (((s.atSlot sa x y).arr sa).runs d = false →
        (s.Due sa x y 0 0 → exec (.nop sa x y) s = .next (s.atSlot sa x y))
        ∧ (s.Due sa x y 0 1 → exec (.wait sa x y) s = .next (s.atSlot sa x y))
        ∧ (s.Due sa x y 0 2 → exec (.loop sa x y) s = .next (s.atSlot sa x y)))

/-- The loop rule (R49, R72) as a NOP slot shows it. -/
def Obligations.LoopBodyRunsCountTimes : Prop :=
  ∀ (s : State) (sa x y : Nat) (f : LoopFrame) (fs : List LoopFrame), s.Fires sa x y 0 0 →
    (s.slotCore sa x y).loops = f :: fs →
    let c := s.slotCore sa x y
    Yields (exec (.nop sa x y) s) fun t => let e := t.core (coreKey sa x y)
      (f.last = c.slot → f.left ≠ 0 →
        e.slot = f.first % 1024 ∧ e.loops = { f with left := f.left - 1, it := f.it + 1 } :: fs)
      ∧ (f.last = c.slot → f.left = 0 → (∀ g ∈ fs, g.last ≠ c.slot) → e.slot = (c.slot + 1) % 1024 ∧ e.loops = fs)
      ∧ (f.last ≠ c.slot → e.slot = (c.slot + 1) % 1024 ∧ e.loops = f :: fs)

/-- HALT, and how an array comes to rest (R49). -/
def Obligations.HaltStopsTheCoreAndRestsTheArray : Prop :=
  ∀ (s : State) (sa x y : Nat),
    (s.Fires sa x y 0 3 → exec (.halt sa x y) s = .next (s.slotDone sa x y
      { s.slotCore sa x y with halted := true, lastFire := s.dueAt sa x y, extra := 0 }))
    ∧ (let e := s.restAt sa
       s.TablesOk → s.allHalted sa = true → (s.arr sa).runs e = true → (s.arr sa).fireCycle < e → s.doneTo sa e = true →
       (s.arr sa).notes = [] →
        ((s.runOut sa).arr sa).fireCycle = e ∧ (s.runOut sa).atRest sa = true)

/-- HOLD (R52, R53). -/
def Obligations.HoldPassesOnlyTogether : Prop :=
  ∀ (s : State) (sa : Nat), saOk sa = true → s.TablesOk → s.holdReady sa (s.nextDue sa) = true →
    let d := s.nextDue sa; let u := ((s.settle sa d).fireTo sa (d - 1)).latch sa; let hs := u.dueHolds sa d
    let pass := (u.arr sa).runs d && hs.all fun kc => kc.2.holdTrue kc.2.word
    (pass = true → ∃ v : State, exec (.hold sa) s = .next (v.slotEnds sa)
      ∧ (∀ k, v.core k = if (hs.any fun kc => kc.1 == k) = true
          then ((u.core k).holdConsume (u.core k).word).advance d 0 else u.core k)
      ∧ (v.arr sa).fireCycle = max (u.arr sa).fireCycle d
      ∧ v = { u with cores := v.cores, arrays := v.arrays, parts := v.parts })
    ∧ (pass = false → exec (.hold sa) s = .next u)

/-- R106: the SYNC class, its changes of a counter by R107, and the loader's check of its slots. -/
def Obligations.SyncSlotsChangeOneFlagOrCounter : Prop :=
  ∀ (s : State) (sa x y : Nat), let c := s.slotCore sa x y; let d := s.dueAt sa x y
    let i := syncSel c.word; let v := syncValue c.word; let n := c.counter i
    (s.Fires sa x y 5 0 → exec (.fset sa x y) s = .next (s.slotDone sa x y
      ({ c with flags := c.flags ||| (1#48 <<< i) }.advance d 0)))
    ∧ (s.Fires sa x y 5 1 → exec (.fclr sa x y) s = .next (s.slotDone sa x y
      ({ c with flags := c.flags &&& ~~~(1#48 <<< i) }.advance d 0)))
    ∧ (s.Fires sa x y 5 2 → (n + v ≤ 0xFFFF ∨ (s.atSlot sa x y).strict sa = false) →
      exec (.cinc sa x y) s = .next (s.slotDone sa x y
        ({ c with counters := SMap.put 0 c.counters i (BitVec.ofNat 16 (min 0xFFFF (n + v))),
                  stickies := if n + v ≤ 0xFFFF then c.stickies else c.stickies ||| (1#16 <<< i) }.advance d 0)))
    ∧ (s.Fires sa x y 5 3 → (v ≤ n ∨ (s.atSlot sa x y).strict sa = false) →
      exec (.cdec sa x y) s = .next (s.slotDone sa x y
        ({ c with counters := SMap.put 0 c.counters i (BitVec.ofNat 16 (n - v)),
                  stickies := if v ≤ n then c.stickies else c.stickies ||| (1#16 <<< i) }.advance d 0)))
    ∧ (s.Fires sa x y 5 4 → exec (.cclr sa x y) s = .next (s.slotDone sa x y
      ({ c with counters := SMap.put 0 c.counters i 0 }.advance d 0)))
    ∧ (s.Fires sa x y 5 2 → 0xFFFF < n + v → Yields (exec (.cinc sa x y) s) fun t => let e := t.core (coreKey sa x y)
        e.counter i = 0xFFFF ∧ e.stickies = c.stickies ||| (1#16 <<< i))
    ∧ (s.Fires sa x y 5 3 → n < v → Yields (exec (.cdec sa x y) s) fun t => let e := t.core (coreKey sa x y)
        e.counter i = 0 ∧ e.stickies = c.stickies ||| (1#16 <<< i))
    ∧ ∀ (w : W64) ts, slotClass w = 5 → slotOp w ≤ 4 → ((∃ b ∈ slotBreaches w ts, b.1 = 0xC) ↔
        slotOp w ≤ 1 ∧ (47 < syncSel w ∨ syncValue w ≠ 0) ∨ 2 ≤ slotOp w ∧ 15 < syncSel w ∨ slotOp w = 4 ∧ syncValue w ≠ 0)

/-- The strict mode of R107, and its record (R228): slots, direct writes (R104), tiles and acknowledgements (R151), doorbells (R247). -/
def Obligations.CounterRangeFaultInStrictMode : Prop :=
  ∀ (s : State) (sa x y p : Nat), let k := coreKey sa x y; let c := s.slotCore sa x y; let d := s.dueAt sa x y
    let i := syncSel c.word; let v := syncValue c.word; let n := c.counter i; let q := (s.atSlot sa x y).part p
    ((s.atSlot sa x y).arr sa).part = some p → q.strictMode = true → q.state.live = true →
    bitOf q.fault.w0 63 = false →
    let rec4 := (counterFault sa x y i 0 0 0 c.slot d).words
    (s.Fires sa x y 5 2 → 0xFFFF < n + v → Yields (exec (.cinc sa x y) s) fun t =>
      (t.core k).counter i = 0xFFFF ∧ (t.core k).stickies = c.stickies ||| (1#16 <<< i)
      ∧ (t.part p).fault = rec4 ∧ (t.part p).state = .binding ∧ (q.endCode ≤ 1 → s.NoTrapWaits sa x y → (t.part p).endCode = 5))
    ∧ (s.Fires sa x y 5 3 → n < v → Yields (exec (.cdec sa x y) s) fun t =>
      (t.core k).counter i = 0 ∧ (t.core k).stickies = c.stickies ||| (1#16 <<< i)
      ∧ (t.part p).fault = rec4 ∧ (t.part p).state = .binding ∧ (q.endCode ≤ 1 → s.NoTrapWaits sa x y → (t.part p).endCode = 5))
    ∧ ∀ (tok : Nat) (tk : Token), s.token tok = some tk → tk.loc = .core sa x y → (s.arr sa).part = some p →
      (s.part p).strictMode = true → (s.part p).state.live = true → bitOf (s.part p).fault.w0 63 = false →
      let e := s.core k
      let raised := fun (i csrc mport desc : Nat) (a : Answer) => Yields a fun t =>
        (t.core k).counter i = 0xFFFF ∧ (t.core k).stickies = e.stickies ||| (1#16 <<< i)
        ∧ (t.part p).fault = (counterFault sa x y i csrc mport desc 0 (s.arr sa).fireCycle).words ∧ (t.part p).state = .binding
        ∧ ((s.part p).endCode ≤ 1 → (t.part p).endCode = 5)
      (∀ mport m, mport < 4 → tk.body = .msg m → hdrType m.header = 3 → (arrivalPorts x y).contains mport = true →
        s.inOrder tok (sameChannel m) = true → SMap.look 0 e.seqs m.src = hdrSeq m.header → e.counter (hdrCnt m.header) = 0xFFFF →
        raised (hdrCnt m.header) 1 mport 0 (exec (.directWriteArrival tok mport) s))
      ∧ (∀ mport a b cc cnt amount, mport < 4 → tk.body = .doorbell a b cc cnt amount → (arrivalPorts x y).contains mport = true →
        0xFFFF < e.counter cnt + amount → raised cnt 3 mport 0 (exec (.doorbellLand tok mport) s))
      ∧ (∀ src raddr tile data n, let g := e.descCfg n
        tk.body = .tile src raddr tile (e.desc n).seq data → e.landingDesc raddr tile = some (n, false) →
        (s.inOrder tok fun o => match o.body with
          | .tile src2 _ _ _ _ => src2 == src && (o.loc == tk.loc || (match o.loc with
            | .router _ => true
            | _ => false))
          | _ => false) = true →
        16 * (raddr - g.buffer tile) + data.length = g.tbytes → g.lcntEn = true → e.counter g.lcnt = 0xFFFF →
        raised g.lcnt 2 0 n (exec (.tileLanding tok) s))
      ∧ ∀ n tile, let g := e.descCfg n
        tk.body = .ack n tile → (e.desc n).opened = true → g.lcntEn = true → e.counter g.lcnt = 0xFFFF →
        raised g.lcnt 2 0 n (exec (.writeAck tok) s)

/-- R76's accumulator store computes the node of R28 for every leaf count. -/
def Obligations.TreeInsertionGivesTheReferenceSum : Prop :=
  ∀ (es leaves : List W32), es.length = 16 → leaves.length ≤ 65536 →
    let r := insertLeaves ⟨es, 0⟩ leaves
    (foldColumn r.1).1 = (treeRoot 16 leaves).1 ∧ r.2.1 ||| (foldColumn r.1).2 = (treeRoot 16 leaves).2

/-- MLOAD (R70), TLOAD, TSTORE (R48, R94): results and frame, byte by byte. -/
def Obligations.MoveSlotsCopyRawBytes : Prop :=
  ∀ (s : State) (sa x y : Nat), let c := s.slotCore sa x y; let d := s.dueAt sa x y; let w := c.word
    let k := coreKey sa x y; let tr := fld w 47 45; let a := fld w 44 33; let u := s.atSlot sa x y
    (∀ us ring ecc, s.Fires sa x y 2 0 → c.matrixBusy d = false →
      c.readRange (c.eff (fld w 47 36) (fld w 35 26)) 256 = some (us, ring) → (c.claim d 16 us).isSome = true →
      eccFails ecc us = none →
      ∃ e : Core, exec (.mload sa x y ecc) s = .next (((u.setCore k e).scratchCe sa x y (eccFixes ecc us)).slotEnds sa)
        ∧ (∀ b, b < 4096 → SMap.look 0 e.resident b = imageByte c.scratch us b)
        ∧ e = { c.advance d 0 with resident := e.resident, matrixFree := d + 16, claims := e.claims, retires := e.retires })
    ∧ (∀ us ring ecc, s.Fires sa x y 3 0 → c.moveFree ≤ d → c.tileBusy d [tr] = false →
      c.readRange a 64 = some (us, ring) → (c.claim d 4 us).isSome = true → eccFails ecc us = none →
      ∃ e : Core, exec (.tload sa x y ecc) s = .next (((u.setCore k e).scratchCe sa x y (eccFixes ecc us)).slotEnds sa)
        ∧ (∀ b, b < 1024 → SMap.look 0 e.tiles (1024 * tr + b) = imageByte c.scratch us b)
        ∧ (∀ b, b < 1024 * tr ∨ 1024 * tr + 1024 ≤ b → SMap.look 0 e.tiles b = SMap.look 0 c.tiles b)
        ∧ e = { c.advance d 0 with tiles := e.tiles, moveFree := d + 16, tileFree := e.tileFree, claims := e.claims,
                                   retires := e.retires })
    ∧ (s.Fires sa x y 3 1 → c.moveFree ≤ d → c.tileBusy d [tr] = false →
      (c.claim d 4 ((List.range 64).map fun i => (a + i) % 4096)).isSome = true →
      ∃ e : Core, exec (.tstore sa x y) s = .next (s.slotDone sa x y e)
        ∧ (∀ b, b < 1024 → SMap.look 0 e.scratch ((16 * a + b) % 65536) = SMap.look 0 c.tiles (1024 * tr + b))
        ∧ (∀ o, (∀ b, b < 1024 → o ≠ (16 * a + b) % 65536) → SMap.look 0 e.scratch o = SMap.look 0 c.scratch o)
        ∧ e = { c.advance d 0 with scratch := e.scratch, moveFree := d + 16, tileFree := e.tileFree, claims := e.claims })

/-- MMA and the insertion of its leaves (R48, R71, R73, R74, R76), with traps off (R42, mode 0), and what a leaf is (R25-R27; log entry
56 for the sign of a sum that rounds to zero). -/
def Obligations.MmaFormsLeavesAndInsertsThemLater : Prop :=
  ∀ (s : State) (sa x y : Nat), let k := coreKey sa x y
    (let c := s.slotCore sa x y; let d := s.dueAt sa x y; let w := c.word; let p := profOf (c.profW (fld w 23 22))
     ∀ us ring sc ecc, s.Fires sa x y 2 1 → (s.atSlot sa x y).trapMode sa = 0 → c.matrixBusy d = false →
      c.readRange (c.eff (fld w 47 36) (fld w 19 10)) p.moveUnits = some (us, ring) →
      c.scaleRange (c.eff (fld w 35 24) (2 * fld w 9 5)) p = some sc →
      (c.claimAll d (⟨d, readRate p.fmtA, us⟩ :: scaleClaims p d sc.1)).isSome = true → eccFails ecc (us ++ sc.1) = none →
      let ls := allLeaves p (imageByte c.scratch us) (fun b => SMap.look 0 c.resident b) (imageByte c.scratch sc.1)
      ∃ e : Core, ∃ m : MmaPend,
        exec (.mma sa x y ecc) s
          = .next ((((s.atSlot sa x y).setCore k e).scratchCe sa x y (eccFixes ecc (us ++ sc.1))).slotEnds sa)
        ∧ e.mmaPend = c.mmaPend ++ [m] ∧ m.due = d + p.occupancy + 5 ∧ m.start = (fld w 21 20 == 1)
        ∧ m.leaves = ls.map (fun l => l.map (·.1))
        ∧ e = { c.advance d 0 with
                mmaPend := e.mmaPend, matrixFree := d + p.occupancy, accOpenTo := d + p.occupancy + 5,
                fpStatus := c.fpStatus ||| orFlags (ls.map fun l => orFlags (l.map fun v => v.2.1)),
                claims := e.claims, retires := e.retires })
    ∧ (let into := fun (c e : Core) (m : MmaPend) (n : Nat) (left : List MmaPend) =>
         let r := fun o => insertLeaves (if m.start then { c.column o with pend := 0 } else c.column o)
           ((nth [] m.leaves o).take n)
         (∀ o, o < 256 → e.column o = (r o).1)
         ∧ e = { c with acc := e.acc, pend := e.pend, mmaPend := left,
                        fpStatus := c.fpStatus ||| orFlags ((List.range 256).map fun o => (r o).2.1) }
       coreOk sa x y = true →
       (∀ d m, (s.core k).mmaPend = [m] → m.leaves.length = 256 → s.trapMode sa = 0 → 0 < m.before d →
          ∃ e : Core, s.settleStore d k = s.setCore k e
            ∧ into (s.core k) e m (m.before d) (if m.before d < m.cycles.length then [m.drop (m.before d)] else []))
       ∧ ∀ m m1 rest, (s.core k).mmaPend.head? = some m → s.resultReady sa m.due = true →
          let u := s.pass sa m.due
          (u.arr sa).runs m.due = true → u.trapMode sa = 0 → (u.core k).mmaPend = m1 :: rest → m1.leaves.length = 256 →
          ∃ e : Core, exec (.mmaLeafInsert sa x y) s = .next ((u.setCore k e).slotEnds sa)
            ∧ into (u.core k) e m1 m1.cycles.length rest)
    ∧ (∀ (p : Prof) (mov res scl : Nat → Byte) (i n : Nat),
       let span := fun c => if scFmt c = 0 then 128 else if scDir c = 0 then scBlock c else 1
       let len := if p.fmtA = 1 ∨ p.fmtA = 2 then 16 else min 128 (min (span p.scaleA) (span p.scaleB))
       let ls := outputLeaves p mov res scl i n
       let skip := if scFmt p.scaleA = 0 then 0 else 32 * ceilDiv p.klen 16
       ls.length = ceilDiv p.klen len
       ∧ ∀ q, q < ls.length → ∃ ps : List Prod, ps.length = min len (p.klen - q * len)
         ∧ (∀ j, j < ps.length → let k := q * len + j
              nth .nan ps j = intProd p.fmtA (mulVal (flushIn p.fmtA (decodeVal p.fmtA (packedElem p.fmtA mov (16 * k + i))))
                (flushIn p.fmtB (decodeVal p.fmtB (packedElem p.fmtB res (16 * k + n))))))
         ∧ (nth (0, 0, 0) ls q).2.2 = q * len + ps.length - 1
         ∧ ((nth (0, 0, 0) ls q).1, (nth (0, 0, 0) ls q).2.1)
             = blockLeaf ps (scaleAt p.scaleA scl i (q * len)) (scaleAt p.scaleB (fun b => scl (skip + b)) n (q * len)))
    ∧ ∀ ps : List Prod,
      (∀ sc, blockLeaf ps none sc = (nan32, fInvalid) ∧ blockLeaf ps sc none = (nan32, fInvalid))
      ∧ ∀ a b : Nat × Int, let leaf := blockLeaf ps (some a) (some b)
        let infs := fun neg => Prod.inf neg ∈ ps; let zero := a.1 = 0 ∨ b.1 = 0
        (Prod.nan ∈ ps → leaf = (nan32, 0))
        ∧ (Prod.nan ∉ ps → Prod.invalid ∈ ps ∨ infs true ∧ infs false ∨ (infs true ∨ infs false) ∧ zero → leaf = (nan32, fInvalid))
        ∧ (∀ neg, Prod.nan ∉ ps → Prod.invalid ∉ ps → infs neg → ¬infs (!neg) → ¬zero → leaf = (inf32 neg, 0))
        ∧ ((∀ pr ∈ ps, ∃ neg m e, pr = .fin neg m e) →
          let value : Prod → ℚ := fun pr => match pr with
            | .fin neg m e => (if neg then -1 else 1) * (m : ℚ) * 2 ^ e
            | _ => 0
          let sum : ℚ := (ps.map value).sum
          (sum = 0 ∨ zero →
            leaf = (zero32 (!ps.isEmpty && ps.all isNegZero), 0))
          ∧ (sum ≠ 0 → ¬zero → ∃ m e, leaf = round32 (decide (sum < 0)) m e
              ∧ (m : ℚ) * 2 ^ e = |sum| * (a.1 * 2 ^ a.2) * (b.1 * 2 ^ b.2)))

/-- MDRAIN (R77) and MNODE (R78), with traps off; the store is settled (R51), so no value is free. MDRAIN in trap modes 1 and 2, and
the taking of a trap (R42, R43). -/
def Obligations.DrainFoldsAndNodeInsertsTheStore : Prop :=
  ∀ (s : State) (sa x y : Nat), let u := s.atSlot sa x y
    let c := s.slotCore sa x y; let d := s.dueAt sa x y; let w := c.word
    (∀ t : State, match firstNote (t.arr sa).notes with
      | none => t.slotEnds sa = t
      | some n => (t.arr sa).freeze = none →
        (t.doneTo sa n.cycle = false → t.slotEnds sa = t)
        ∧ (t.doneTo sa n.cycle = true → let v := t.settle sa (n.cycle + 1)
          ∀ p o, (t.arr sa).part = some p → (t.part p).state.live = true → bitOf (t.part p).trap.w0 63 = false →
            firstNote (v.arr sa).notes = some o → let r := t.slotEnds sa
            (r.part p).trap = o.event.words sa (o.core % 24) (o.core / 24) (decide (1 < (v.arr sa).notes.length))
            ∧ (r.part p).state = .binding ∧ ((t.part p).endCode ≤ 1 → (r.part p).endCode = 3) ∧ (r.arr sa).freeze.isSome = true
            ∧ (r.arr sa).notes = []))
    ∧ (c.matrixBusy d = false → (c.accOpenTo = 0 ∨ c.accOpenTo < d) → u.trapMode sa ≠ 0 →
      s.Fires sa x y 2 2 → bitOf w 47 = false → c.tileBusy d [fld w 46 44] = false →
      let tr := fld w 46 44; let te := fld w 21 17; let bad := fun o => isInvalid (foldColumn (c.column o)).2
      let nan := fun o => isNan32 (foldColumn (c.column o)).1
      let noted := (List.range 256).filter fun o => bad o || (decide (u.trapMode sa = 2) && nan o)
      ∃ e : Core, exec (.mdrain sa x y) s = .next (((u.setCore (coreKey sa x y) e).note sa (noted.map fun o =>
          ⟨d + o / 16, 24 * y + x, false, d, ⟨d + o / 16, if bad o then 1 else 5, 0, c.slot, c.tensId te, c.tensRow te c.it (o / 16),
            c.tensCol te c.it (o % 16), c.tensBatch te, o⟩⟩)).slotEnds sa)
        ∧ (∀ i j, i < 16 → j < 16 → tileWord e.tiles tr i j = (foldColumn (c.column (16 * i + j))).1)
        ∧ e = { c.advance d 0 with
                tiles := e.tiles, pend := [], matrixFree := d + 16, tileFree := e.tileFree,
                fpStatus := c.fpStatus ||| orFlags ((List.range 256).map fun o => (foldColumn (c.column o)).2) })
    ∧ (c.matrixBusy d = false → (c.accOpenTo = 0 ∨ c.accOpenTo < d) → u.trapMode sa = 0 →
    (let a := c.eff (fld w 43 32) (fld w 31 22); let tr := fld w 46 44
     let word := fun o => (foldColumn (c.column o)).1
     s.Fires sa x y 2 2 →
     (bitOf w 47 = true → (c.claim d 4 ((List.range 64).map fun i => (a + i) % 4096)).isSome = true →
      ∃ e : Core, exec (.mdrain sa x y) s = .next (s.slotDone sa x y e)
        ∧ (∀ o b, o < 256 → b < 4 →
          SMap.look 0 e.scratch ((16 * a + 4 * o + b) % 65536) = nth 0 (leBytes 4 (word o).toNat) b)
        ∧ (∀ q, (∀ b, b < 1024 → q ≠ (16 * a + b) % 65536) → SMap.look 0 e.scratch q = SMap.look 0 c.scratch q)
        ∧ e = { c.advance d 0 with
                scratch := e.scratch, pend := [], matrixFree := d + 16, claims := e.claims,
                fpStatus := c.fpStatus ||| orFlags ((List.range 256).map fun o => (foldColumn (c.column o)).2) })
     ∧ (bitOf w 47 = false → c.tileBusy d [tr] = false →
      ∃ e : Core, exec (.mdrain sa x y) s = .next (s.slotDone sa x y e)
        ∧ (∀ i j, i < 16 → j < 16 → tileWord e.tiles tr i j = word (16 * i + j))
        ∧ (∀ b, b < 1024 * tr ∨ 1024 * tr + 1024 ≤ b → SMap.look 0 e.tiles b = SMap.look 0 c.tiles b)
        ∧ e = { c.advance d 0 with
                tiles := e.tiles, pend := [], matrixFree := d + 16, tileFree := e.tileFree,
                fpStatus := c.fpStatus ||| orFlags ((List.range 256).map fun o => (foldColumn (c.column o)).2) }))
    ∧ (let tr := fld w 47 45; let m := fld w 44 41
       s.Fires sa x y 2 3 → c.tileBusy d [tr] = false →
       ((∃ o, o < 256 ∧ (c.column o).pend.toNat % 2 ^ m ≠ 0) →
         exec (.mnode sa x y) s = .next ((slotFault u sa x y c nodeMismatch d).slotEnds sa))
       ∧ ((∀ o, o < 256 → (c.column o).pend.toNat % 2 ^ m = 0) →
         ∃ e : Core, exec (.mnode sa x y) s = .next (s.slotDone sa x y e)
          ∧ (∀ o, o < 256 → e.column o = (insertNode (c.column o) (tileWord c.tiles tr (o / 16) (o % 16)) m (16 - m)).1)
          ∧ e = { c.advance d 0 with
                  acc := e.acc, pend := e.pend, matrixFree := d + 16, tileFree := e.tileFree,
                  fpStatus := c.fpStatus ||| orFlags ((List.range 256).map fun o =>
                    (insertNode (c.column o) (tileWord c.tiles tr (o / 16) (o % 16)) m (16 - m)).2) })))

/-- R51, R81 and R60 for the matrix engine, the vector engine, the tile-register port and the tile registers. -/
def Obligations.BusyUnitRaisesAScheduleViolation : Prop :=
  ∀ (s : State) (sa x y : Nat) (ue : ReadEcc), let c := s.slotCore sa x y; let d := s.dueAt sa x y
    let v := (slotFault (s.atSlot sa x y) sa x y c unitBusy d).slotEnds sa
    (c.matrixBusy d = true →
      (s.Fires sa x y 2 0 → exec (.mload sa x y ue) s = .next v) ∧ (s.Fires sa x y 2 1 → exec (.mma sa x y ue) s = .next v)
      ∧ (s.Fires sa x y 2 2 → exec (.mdrain sa x y) s = .next v) ∧ (s.Fires sa x y 2 3 → exec (.mnode sa x y) s = .next v))
    ∧ (d < c.moveFree ∨ c.tileBusy d [fld c.word 47 45] = true →
      (s.Fires sa x y 3 0 → exec (.tload sa x y ue) s = .next v) ∧ (s.Fires sa x y 3 1 → exec (.tstore sa x y) s = .next v))
    ∧ (c.tileBusy d [fld c.word 47 45] = true → s.Fires sa x y 2 3 → exec (.mnode sa x y) s = .next v)
    ∧ (c.tileBusy d [fld c.word 46 44] = true → bitOf c.word 47 = false → s.Fires sa x y 2 2 → exec (.mdrain sa x y) s = .next v)
    ∧ (c.matrixBusy d = true ∨ d < c.vectorFree ∨ c.tileBusy d [fld c.word 19 17] = true →
      s.Fires sa x y 2 4 → exec (.mcheck sa x y ue) s = .next v)
    ∧ (d < c.vectorFree ∨ c.tileBusy d ((List.range (fld c.word 41 36 + 1)).flatMap fun i => stepRegs (c.eprog (fld c.word 47 42 + i))) = true →
      s.Fires sa x y 8 0 → exec (.vrun sa x y) s = .next v)
    ∧ (d < c.vectorFree ∨ c.tileBusy d [fld c.word 47 45, fld c.word 44 42] = true →
      s.Fires sa x y 8 1 → exec (.vrow sa x y) s = .next v)
    ∧ (let q := cvtOf c.word
       d < c.vectorFree ∨ c.tileBusy d ([q.dst, q.src] ++ (if q.scaled then [q.sreg] else [])
          ++ (if q.scaled && !q.decode && decide (16 < scBlock q.scale) then [q.areg] else [])) = true →
       s.Fires sa x y 8 2 → exec (.vcvt sa x y) s = .next v)
    ∧ (d < c.vectorFree ∨ d < c.matrixFree ∨ c.tileBusy d [fld c.word 47 45] = true →
      s.Fires sa x y 8 3 → exec (.vacc sa x y) s = .next v)

/-- R94 and R95 for the slots that read the scratchpad through a range. -/
def Obligations.UncorrectableScratchReadEndsThePartition : Prop :=
  ∀ (s : State) (sa x y p : Nat) (ecc : ReadEcc) (bad : Nat), let c := s.slotCore sa x y; let d := s.dueAt sa x y; let w := c.word
    let k := coreKey sa x y; let u := s.atSlot sa x y; let pr := profOf (c.profW (fld w 23 22))
    (u.arr sa).part = some p → (u.part p).state.live = true → bitOf (u.part p).fault.w0 63 = false →
    let rec4 := ({ kind := 9, sa := sa, x := x, y := y, slot := c.slot, fireCycle := d } : FaultInfo).words
    let at0 := 32 * u.physical sa x y + 2 * bankOf bad
    let after := fun t : State => t.tally.scratchUe = sat32 s.tally.scratchUe 1 ∧ (t.part p).fault = rec4
      ∧ (t.part p).state = .binding ∧ (t.core k).resident = c.resident ∧ (t.core k).tiles = c.tiles
      ∧ (s.NoTrapWaits sa x y → (t.core k).mmaPend = c.mmaPend ∧ (t.core k).acc = c.acc)
      ∧ (SMap.look 0 (u.arr sa).remap at0 = 0 → SMap.look 0 (u.arr sa).remap (at0 + 1) ≠ bad / 16 + 1 →
          u.mgs.softEntries < 65536 → SMap.look 0 (t.arr sa).remap at0 = bad / 16 + 1 ∧ t.mgs.softEntries = s.mgs.softEntries + 1)
    (∀ us ring, s.Fires sa x y 2 0 → c.matrixBusy d = false →
      c.readRange (c.eff (fld w 47 36) (fld w 35 26)) 256 = some (us, ring) → (c.claim d 16 us).isSome = true →
      eccFails ecc us = some bad → Yields (exec (.mload sa x y ecc) s) after)
    ∧ (∀ us ring sc, s.Fires sa x y 2 1 → c.matrixBusy d = false →
      c.readRange (c.eff (fld w 47 36) (fld w 19 10)) pr.moveUnits = some (us, ring) →
      c.scaleRange (c.eff (fld w 35 24) (2 * fld w 9 5)) pr = some sc →
      (c.claimAll d (⟨d, readRate pr.fmtA, us⟩ :: scaleClaims pr d sc.1)).isSome = true →
      eccFails ecc (us ++ sc.1) = some bad → Yields (exec (.mma sa x y ecc) s) after)
    ∧ (∀ us ring b, s.Fires sa x y 2 4 → c.matrixBusy d = false → c.vectorFree ≤ d → c.tileBusy d [fld w 19 17] = false →
      c.readRange (fld w 47 36) pr.moveUnits = some (us, ring) →
      c.readRange (fld w 35 24) ({ pr with klen := 16, scaleA := 0, scaleB := 0, last := true } : Prof).moveUnits = some b →
      (c.claimAll d (checkClaims pr d us b.1)).isSome = true →
      eccFails ecc (us ++ b.1) = some bad → Yields (exec (.mcheck sa x y ecc) s) after)
    ∧ (∀ us ring, s.Fires sa x y 3 0 → c.moveFree ≤ d → c.tileBusy d [fld w 47 45] = false →
      c.readRange (fld w 44 33) 64 = some (us, ring) → (c.claim d 4 us).isSome = true →
      eccFails ecc us = some bad → Yields (exec (.tload sa x y ecc) s) after)

/-- The VECTOR class (R48, R81, R83-R88), with traps off (R42, mode 0) and for VROW in modes 1 and 2 (R42, R43; log entry 17);
conversions (R33, R34), block scales (R35) and stochastic rounding (R36, R37). -/
def Obligations.VectorSlotsQueueTheirResults : Prop :=
  ∀ (s : State) (sa x y : Nat), let k := coreKey sa x y; let u := s.atSlot sa x y
    let c := s.slotCore sa x y; let d := s.dueAt sa x y; let w := c.word; let v := cvtOf w
    let queued := fun (i : Instr) (occ vaccFree : Nat) (writes : List (Nat × Byte)) (fl : Flags) =>
      ∃ e : Core, exec i s = .next (s.slotDone sa x y e)
      ∧ (∃ m : VecPend, e.vecPend = c.vecPend ++ [m] ∧ m.due = d + occ + 3 ∧ m.writes = writes)
      ∧ e = { c.advance d 0 with vecPend := e.vecPend, vectorFree := d + occ, vaccFree := vaccFree, tileFree := e.tileFree,
                                 fpStatus := c.fpStatus ||| fl }
    (u.trapMode sa = 0 →
     (c.vectorFree ≤ d →
      (let n := fld w 41 36 + 1
       s.Fires sa x y 8 0 → c.tileBusy d ((List.range n).flatMap fun i => stepRegs (c.eprog (fld w 47 42 + i))) = false →
        let r := runSteps c (fld w 35 31) c.it c.slot n (fld w 47 42) d c.tiles
        queued (.vrun sa x y) (16 * n) c.vaccFree r.writes r.flags)
      ∧ (let rs := (List.range 16).map fun i => rowOp (fld w 41 39) (tileRow c.tiles (fld w 44 42) i (fld w 38 35 + 1))
         s.Fires sa x y 8 1 → c.tileBusy d [fld w 47 45, fld w 44 42] = false →
         queued (.vrow sa x y) 20 c.vaccFree (tileWrites (fld w 47 45) (rs.flatMap fun r => r.1 :: List.replicate 15 0))
            (orFlags (rs.flatMap fun r => r.2 :: List.replicate 15 0)))
      ∧ (s.Fires sa x y 8 2 →
         c.tileBusy d ([v.dst, v.src] ++ (if v.scaled then [v.sreg] else [])
            ++ (if v.scaled && !v.decode && decide (16 < scBlock v.scale) then [v.areg] else [])) = false →
         let r := if v.decode then c.decodeTile v d else u.encodeTile sa c v d
         queued (.vcvt sa x y) 16 c.vaccFree r.writes r.flags)
      ∧ (s.Fires sa x y 8 3 → c.matrixFree ≤ d → c.tileBusy d [fld w 47 45] = false →
         (c.accOpenTo = 0 ∨ c.accOpenTo < d) →
          if bitOf w 44 then
            queued (.vacc sa x y) 16 (d + 16) (tileWrites (fld w 47 45) ((List.range 256).map fun o => (foldColumn (c.column o)).1))
              (orFlags ((List.range 256).map fun o => (foldColumn (c.column o)).2))
          else queued (.vacc sa x y) 16 (d + 16) (tileWrites (fld w 47 45) ((List.range 256).map fun o =>
              if (c.column o).pend.getLsbD (fld w 43 40) then nth 0 (c.column o).entry (fld w 43 40) else 0)) 0))
    ∧ (∀ m rest, coreOk sa x y = true → (s.core k).vecPend = m :: rest → s.resultReady sa m.due = true →
        let f := s.pass sa m.due
        ((f.arr sa).runs m.due = true → exec (.vectorResultWrite sa x y) s = .next ((f.setCore k
          { f.core k with tiles := writeTiles (f.core k).tiles m.writes, vecPend := rest }).slotEnds sa))
        ∧ ((f.arr sa).runs m.due = false → exec (.vectorResultWrite sa x y) s = .next f)))
    ∧ (u.trapMode sa ≠ 0 → c.vectorFree ≤ d → s.Fires sa x y 8 1 → c.tileBusy d [fld w 47 45, fld w 44 42] = false →
      let r := fun i => rowOp (fld w 41 39) (tileRow c.tiles (fld w 44 42) i (fld w 38 35 + 1)); let te := fld w 34 30
      let noted := (List.range 16).filter fun i => isInvalid (r i).2 || (decide (u.trapMode sa = 2) && isNan32 (r i).1)
      let writes := tileWrites (fld w 47 45) ((List.range 16).flatMap fun i => (r i).1 :: List.replicate 15 0)
      let fl := orFlags ((List.range 16).flatMap fun i => (r i).2 :: List.replicate 15 0)
      (noted = [] → queued (.vrow sa x y) 20 c.vaccFree writes fl)
      ∧ (noted ≠ [] → ∃ e : Core, exec (.vrow sa x y) s = .next (((u.setCore k e).note sa (noted.map fun i =>
            ⟨d + i, 24 * y + x, false, d, ⟨d + i, if isInvalid (r i).2 then 2 else 5, 0, c.slot, c.tensId te, c.tensRow te c.it i,
              c.tensCol te c.it 0, c.tensBatch te, 16 * i⟩⟩)).slotEnds sa)
          ∧ e = { c.advance d 0 with tiles := writeTiles c.tiles writes, vectorFree := d + 20, tileFree := e.tileFree,
                                     fpStatus := c.fpStatus ||| fl }))
    ∧ (∀ (mode : Round) (mb : Nat) (lsb : Int) (m : Nat) (e : Int), m ≠ 0 → let r := roundMag mode mb (some lsb) m e
      let t : ℚ := m * 2 ^ (e - r.2.1)
      r.2.1 = max (e + (Nat.log2 m : Int) - mb) lsb
      ∧ (mode = .nearestEven → |t - r.1| ≤ 1 / 2 ∧ (|t - r.1| = 1 / 2 → r.1 % 2 = 0))
      ∧ ∀ rnd : Nat, mode = .stochastic rnd → (r.1 : Int) = ⌊t⌋ + if (rnd : Int) < ⌊(t - ⌊t⌋) * 2 ^ 32⌋ then 1 else 0)
    ∧ (∀ (mode : Round) (f : Nat) (block : Bool) (a : W32), 1 ≤ f → f ≤ 7 →
      let largest : ℚ := (maxMag f).1 * 2 ^ (maxMag f).2
      (∀ neg m e, val32 a = .fin neg m e → m ≠ 0 →
        let r := roundMag mode (fmtMant f) (some (fmtEmin f - fmtMant f)) m e; let mag : ℚ := r.1 * 2 ^ r.2.1
        (mag ≤ largest → (block = true → (m : ℚ) * 2 ^ e ≤ largest) →
          ∃ m1 e1, decodeVal f (convert mode f block a).1 = .fin neg m1 e1 ∧ (m1 : ℚ) * 2 ^ e1 = mag)
        ∧ (block = false → largest < mag → (convert mode f block a).2 = fOverflow ||| fInexact
            ∧ decodeVal f (convert mode f block a).1 = if fmtIeee f = true then .inf neg else .fin neg (maxMag f).1 (maxMag f).2)
        ∧ (block = true → largest < (m : ℚ) * 2 ^ e → (convert mode f block a).2 = fOverflow ||| fInexact
            ∧ decodeVal f (convert mode f block a).1 = .fin neg (maxMag f).1 (maxMag f).2))
      ∧ (val32 a = .nan → convert mode f block a = nth (0, fInvalid) [(0, fInvalid), (0x7FC0, 0), (0x7E00, 0), (0x7F, 0), (0x7E, 0)] f)
      ∧ ∀ neg, val32 a = .inf neg → (convert mode f block a).2 = 0
          ∧ decodeVal f (convert mode f block a).1 = if fmtIeee f = true then .inf neg else .fin neg (maxMag f).1 (maxMag f).2)
    ∧ (∀ a : W32, let r := convert .nearestEven 8 false a
      (val32 a = .nan → r = (0, fInvalid)) ∧ (∀ neg, val32 a = .inf neg → r = (if neg then 0x80 else 0x7F, fInvalid))
      ∧ ∀ neg m e, val32 a = .fin neg m e → let x : ℚ := m * 2 ^ e
        ∃ n : Nat, |x - n| ≤ 1 / 2 ∧ (|x - n| = 1 / 2 → n % 2 = 0)
          ∧ r = if n ≤ (if neg then 128 else 127) then (if neg then (256 - n) % 256 else n, if x = n then 0 else fInexact)
            else (if neg then 0x80 else 0x7F, fInvalid))
    ∧ (∀ (sf f : Nat) (a : W32), f ≤ 8 →
      blockScale sf f a true = none ∧ (val32 a = .nan → blockScale sf f a false = none)
      ∧ (∀ neg, val32 a = .inf neg → blockScale sf f a false = none)
      ∧ ∀ neg m e, val32 a = .fin neg m e →
        (m = 0 → blockScale 1 f a false = some 0 ∧ blockScale 2 f a false = some 1)
        ∧ (m ≠ 0 → 3 ≤ f → ∃ k : Int, (2 : ℚ) ^ k ≤ m * 2 ^ e ∧ (m : ℚ) * 2 ^ e < 2 ^ (k + 1)
          ∧ ∃ b, blockScale 1 f a false = some b
            ∧ (b.toNat : Int) = max (-127) (min 127 (k - nth 6 [6, 6, 6, 8, 15, 4, 2, 2, 6] f)) + 127)
        ∧ (m ≠ 0 → 3 ≤ f → let big : ℚ := if f = 8 then 127 else (maxMag f).1 * 2 ^ (maxMag f).2
          ∃ b, blockScale 2 f a false = some b
            ∧ (448 * big < m * 2 ^ e → b = 0x7E)
            ∧ ((m : ℚ) * 2 ^ e ≤ 448 * big → ∃ m1 e1, decodeVal 3 b.toNat = .fin false m1 e1 ∧ (m : ℚ) * 2 ^ e ≤ m1 * 2 ^ e1 * big
              ∧ ∀ m0 e0, decodeVal 3 (b.toNat - 1) = .fin false m0 e0 → m0 * 2 ^ e0 * big < (m : ℚ) * 2 ^ e)))
    ∧ (∀ (z : Cvt) (tiles : SMap Byte) (rnd : Nat) (q : Nat × Nat), let mode := if z.rnd then Round.stochastic rnd else .nearestEven
      let a := tileWord tiles z.src q.1 q.2
      (z.scaled = false → z.encode1 tiles rnd q = convert mode z.fmt false a)
      ∧ (z.scaled = true → z.scaleOf tiles q = none →
        z.encode1 tiles rnd q = ((convert mode z.fmt true nan32).1, (convert mode z.fmt true nan32).2 ||| fInvalid)))
    ∧ (∀ (seed : W64) (tensor step : Nat), tensor < 2 ^ 32 → step < 2 ^ 32 →
      philox seed 184327 tensor step
        = (philoxRounds 10 (seed.toNat % 2 ^ 32) (seed.toNat / 2 ^ 32) (46081, 0, tensor, step)).2.2.2)
    ∧ philoxRounds 10 0 0 (0, 0, 0, 0) = (0x6627E8D5, 0xE169C58D, 0xBC57AC4C, 0x9B00DBD8)

/-- MCHECK (R89), with traps off. -/
def Obligations.CheckPairFillsTileAndStore : Prop :=
  ∀ (s : State) (sa x y : Nat), let k := coreKey sa x y
    let c := s.slotCore sa x y; let d := s.dueAt sa x y; let w := c.word; let p := profOf (c.profW (fld w 23 22))
    let p2 : Prof := { p with klen := 16, scaleA := 0, scaleB := 0, last := true }
    let occ := p.occupancy + ceilDiv 16 (macRate p.fmtA) + 96
    ∀ us ring b ecc, s.Fires sa x y 2 4 → (s.atSlot sa x y).trapMode sa = 0 → c.matrixBusy d = false → c.vectorFree ≤ d →
      c.tileBusy d [fld w 19 17] = false → c.readRange (fld w 47 36) p.moveUnits = some (us, ring) →
      c.readRange (fld w 35 24) p2.moveUnits = some b → (c.claimAll d (checkClaims p d us b.1)).isSome = true →
      eccFails ecc (us ++ b.1) = none →
      let s0 := (s.atSlot sa x y).insertBefore sa x y (d + 6) c.mmaPend
      let one := startProduct { p with scaleA := 0, scaleB := 0 } (imageByte c.scratch us) (fun i => SMap.look 0 c.resident i)
      let row := fun i => (checkRow (fld w 21 20) ((List.range 16).map fun j =>
        (foldColumn (nth (⟨[], 0⟩, 0, []) one (16 * i + j)).1).1)).map Prod.fst
      let codes := ((List.range 16).flatMap row).map fun v => (convertOut p.fmtA v).1
      let n := fmtBits p.fmtA
      let img := leBytes (32 * n) ((positions.zip codes).foldl (fun a q => a + q.2 * 2 ^ (n * (16 * q.1.2 + q.1.1))) 0)
      let two := startProduct p2 (fun i => nth 0 img i) (imageByte c.scratch b.1)
      ∃ e : Core, exec (.mcheck sa x y ecc) s
          = .next (((s0.setCore k e).scratchCe sa x y (eccFixes ecc (us ++ b.1))).slotEnds sa)
        ∧ e.tiles = writeTiles c.tiles (tileWrites (fld w 19 17) ((List.range 16).flatMap row))
        ∧ (∀ o, o < 256 → e.column o = (nth (⟨[], 0⟩, 0, []) two o).1)
        ∧ e = { c.advance d 0 with
                tiles := e.tiles, acc := e.acc, pend := e.pend, mmaPend := [], matrixFree := d + occ, vectorFree := d + occ,
                tileFree := e.tileFree, fpStatus := e.fpStatus, claims := e.claims, retires := e.retires }

/-- R57-R59, R114; the slot in the record of STEER_SKEW, meshOut and the loss at the array's edge are the model's choices (log entries
60, 27, 76). `lands cmd u c0 d item`: the command leaves the state `u` with what an item does at unit `i` of core `c0` in fire cycle
`d`. -/
def Obligations.SteeringPairsTokensAndData : Prop :=
  ∀ (s : State) (sa x y i : Nat), let k := coreKey sa x y
    let lands := fun (cmd : Instr) (u : State) (c0 : Core) (d : Nat) (item : SteerItem) => let v := c0.steer i
      let leaves := fun e : Core => exec cmd s = .next ((u.setCore k e).slotEnds sa)
      ((∀ f ∈ v.entries, isToken f.item = isToken item) → v.entries.length < 2 →
        leaves (c0.setSteer i { v with entries := v.entries ++ [⟨item, d, false⟩] }))
      ∧ (∀ f, v.mate item = some f →
          let c1 := c0.setSteer i { v with entries := v.entries.filter (· != f) }; let pr := pairOf item f.item
          (∀ tag val dest unit, pr = (4, .data tag val dest unit) →
            leaves { c1 with scratch := writeUnits c1.scratch unit.toNat (leBytes 32 val.toNat) })
          ∧ (pr.1 = 5 → leaves c1)
          ∧ (pr.1 < 4 → edgePort x y pr.1 = true → leaves c1)
          ∧ (pr.1 < 4 → edgePort x y pr.1 = false → SMap.look 0 c1.meshClaim pr.1 ≠ d + 1 →
            leaves { c1 with meshClaim := SMap.put 0 c1.meshClaim pr.1 (d + 1),
                             meshOut := SMap.put none c1.meshOut pr.1 (some pr.2) }))
    (let c := s.slotCore sa x y; let d := s.dueAt sa x y; let w := c.word; let v := c.steer i
     s.Fires sa x y 7 0 → i = bit (bitOf w 47) →
      lands (.stok sa x y) (s.atSlot sa x y) ((c.advance d 0).setSteer i { v with nextCtl := v.nextCtl + 1 }) d
        (.token v.nextCtl (BitVec.ofNat 3 (if c.flag (fld w 46 41) then fld w 40 38 else fld w 37 35))))
    ∧ (∀ d item mport, coreOk sa x y = true → i < 2 → mport < 4 → steerSkewMax ((s.core k).steerCfg i) ≠ 0 →
        steerInput ((s.core k).steerCfg i) mport item = true → edgePort x y mport = false → s.arrivalReady sa d = true →
        let u := s.pass sa d; let c := u.core k; let v := c.steer i
        (u.arr sa).runs d = true →
          lands (.steerItemArrival sa x y i mport d item) u (c.setSteer i (if isToken item then { v with nextCtl := v.nextCtl + 1 }
            else { v with nextData := v.nextData + 1 })) d item)
    ∧ (∀ d, coreOk sa x y = true → i < 2 → (s.core k).skewAt i = some d → s.skewReady sa d = true →
        let u := s.pass sa d
        (u.arr sa).runs d = true →
          exec (.steerSkew sa x y i) s = .next ((schedFault (u.setCore k ((u.core k).setSteer i ((u.core k).steer i).raiseSkew)) sa x y
            (s.core k).slot 7 d).slotEnds sa))

/-- SEND, RWRITE, SEND_DRAINED (R48, R54, R56, R93, R94, R99, R104, R105, R117). -/
def Obligations.SendQueuesOneMessage : Prop :=
  ∀ (s : State) (sa x y : Nat), let k := coreKey sa x y; let u := s.atSlot sa x y
    let c := s.slotCore sa x y; let d := s.dueAt sa x y; let w := c.word; let p := sendPort w
    let chan := c.chanW0 p; let q := c.port p; let n := sendLenM1 w
    let spent := fun (h : W64) => let f := msgUnits (8 * (n + 1)); let sz := ringUnits (chanSize chan)
      let m : Message := ⟨h, [], chan, 8 * k + p⟩
      if chanKind chan = 2 then { q with seq := (q.seq + 1) % 256, out := some m, addr := sendAddr w }
      else { q with seq := (q.seq + 1) % 256, out := some m, addr := sendAddr w,
                    credit := q.credit - (2 * f + 2 * wrapSkip sz q.wp f), wp := wpAfter sz q.wp f }
    q.seq < 256 → u.epochOf sa < 16 →
    (c.portReady p (2 * msgUnits (8 * (n + 1))) = true →
      (s.Fires sa x y 4 0 → chanKind chan < 2 → ∃ h : W64,
        hdrLen h = 8 * (n + 1) ∧ hdrType h = chanKind chan ∧ hdrRing h = chanRing chan ∧ hdrEpoch h = u.epochOf sa
        ∧ hdrSeq h = q.seq
        ∧ exec (.send sa x y) s = .next (s.slotDone sa x y ((c.setPort p (spent h)).advance d 0)))
      ∧ (s.Fires sa x y 4 1 → ∃ h : W64,
        hdrLen h = 8 * (n + 1) ∧ hdrType h = 3 ∧ hdrEpoch h = u.epochOf sa ∧ hdrSeq h = q.seq ∧ hdrCnt h = sendCnt w
        ∧ hdrAddr h = sendRaddr w
        ∧ exec (.rwrite sa x y) s = .next (s.slotDone sa x y ((c.setPort p (spent h)).advance d 0))))
    ∧ (c.portReady p (2 * msgUnits (8 * (n + 1))) = false → let v := (slotFault u sa x y c 2 d).slotEnds sa
      (s.Fires sa x y 4 0 → exec (.send sa x y) s = .next v) ∧ (s.Fires sa x y 4 1 → exec (.rwrite sa x y) s = .next v))
    ∧ (∀ port m pt ecc, coreOk sa x y = true → port < 8 → ((s.core k).port port).out = some m → (s.arr sa).part = some pt →
        (s.part pt).outputs = true → m.src < 2 ^ 40 →
        let o := (s.core k).port port; let us := portUnits o.addr (hdrLen m.header - 8)
        (∀ bad, eccFails ecc us = some bad → exec (.sendDrained sa x y port ecc) s
          = .next (s.scratchUe sa x y (s.core k).slot (s.arr sa).fireCycle bad))
        ∧ (eccFails ecc us = none →
          let v := (s.stir sa).setCore k ((s.core k).setPort port { o with out := none })
          let sent : Message := { m with payload := (unitBytes (s.core k).scratch us).take (hdrLen m.header - 8) }
          exec (.sendDrained sa x y port ecc) s = .next (({ v with
              net := s.net ++ [(⟨s.nextId, pt, (s.part pt).cls, (s.part pt).epoch, .router (s.siteOf sa), chanRoute m.chan,
                some (s.siteOf sa, 4), [gateOf (keyX (m.src / 8)) (keyY (m.src / 8))], Body.msg sent⟩ : Token)]
              nextId := s.nextId + 1 }).scratchCe sa x y (eccFixes ecc us))))

/-- RING_MESSAGE_ARRIVAL (R42, R97, R99, R101, R104, R116). -/
def Obligations.RingMessagesLandWholeAndInOrder : Prop :=
  ∀ (s : State) (tok mport sa x y : Nat) (tk : Token) (m : Message), mport < 4 → s.token tok = some tk →
    tk.loc = .core sa x y → tk.body = .msg m → hdrType m.header < 2 → (arrivalPorts x y).contains mport = true →
    s.inOrder tok (sameChannel m) = true →
    let k := coreKey sa x y; let c := s.core k; let g := hdrRing m.header; let r := c.ring g; let size := c.ringSize g
    let b := ringBase (c.ringCfg g); let f := msgUnits (hdrLen m.header); let skip := wrapSkip size r.wp f
    let body := leBytes 8 m.header.toNat ++ List.replicate 8 0 ++ m.payload
    let wrapped := writeUnits (writeUnits c.scratch (b + r.wp)
      (leBytes 8 (wrapMarker skip m.header).toNat ++ List.replicate 8 0)) b body
    let u := (s.consume tok).stir sa
    let ends := fun t : State => if hdrType m.header = 1 ∧ s.trapMode sa = 2
      then (t.trapLanding sa x y (landEvents m)).slotEnds sa else t
    r.wp < size →
    (r.seq ≠ hdrSeq m.header → exec (.ringMessageArrival tok mport) s = .next (u.channelFault sa x y))
    ∧ (r.seq = hdrSeq m.header → skip = 0 →
      exec (.ringMessageArrival tok mport) s = .next (ends (u.setCore k
        ((({ c with scratch := writeUnits c.scratch (b + r.wp) body }).setRing g
          { r with wp := (r.wp + f) % size, seq := (r.seq + 1) % 256, msgs := r.msgs ++ [(⟨r.wp, f, 0⟩ : RingMsg)] }).land m.chan))))
    ∧ (r.seq = hdrSeq m.header → skip ≠ 0 → r.msgs ≠ [] →
      exec (.ringMessageArrival tok mport) s = .next (ends (u.setCore k
        (({ c with scratch := wrapped }.setRing g
          { r with wp := f % size, seq := (r.seq + 1) % 256, msgs := r.msgs ++ [(⟨0, f, skip⟩ : RingMsg)] }).land m.chan))))
    ∧ (r.seq = hdrSeq m.header → skip ≠ 0 → r.msgs = [] →
      let o := u.setCore k (({ c with scratch := wrapped }.setRing g
          { r with wp := f % size, rp := 0, seq := (r.seq + 1) % 256, msgs := [(⟨0, f, 0⟩ : RingMsg)] }).land m.chan)
      exec (.ringMessageArrival tok mport) s = .next (ends (o.credit tk.part (o.feeder tk.part sa x y g) (2 * skip))))

/-- DIRECT_WRITE_ARRIVAL (R104, R107) and CREDIT_RETURN (R105). -/
def Obligations.DirectWritesAndCreditLand : Prop :=
  ∀ (s : State) (sa x y : Nat), let k := coreKey sa x y; let c := s.core k
    (∀ tok mport tk m, mport < 4 → s.token tok = some tk → tk.loc = .core sa x y → tk.body = .msg m →
      hdrType m.header = 3 → (arrivalPorts x y).contains mport = true → s.inOrder tok (sameChannel m) = true →
      let i := hdrCnt m.header; let n := c.counter i; let sq := SMap.look 0 c.seqs m.src
      let u := (s.consume tok).stir sa
      (sq ≠ hdrSeq m.header → exec (.directWriteArrival tok mport) s = .next (u.channelFault sa x y))
      ∧ (sq = hdrSeq m.header → n < 0xFFFF ∨ s.strict sa = false →
        exec (.directWriteArrival tok mport) s = .next (u.setCore k
          ({ c with scratch := writeUnits c.scratch (hdrAddr m.header) m.payload,
                    seqs := SMap.put 0 c.seqs m.src ((hdrSeq m.header + 1) % 256),
                    counters := SMap.put 0 c.counters i (BitVec.ofNat 16 (min 0xFFFF (n + 1))),
                    stickies := if n < 0xFFFF then c.stickies else c.stickies ||| (1#16 <<< i) }.land m.chan))))
    ∧ (∀ port tk n, coreOk sa x y = true → port < 8 → tk.body = .credit port n → tk.loc = .core sa x y →
        (s.net.find? fun o => o.loc == .core sa x y && (match o.body with
          | .credit q _ => q == port
          | _ => false)) = some tk →
        exec (.creditReturn sa x y port) s = .next (((s.stir sa).consume tk.id).setCore k
          (c.setPort port { c.port port with credit := (c.port port).credit + n })))

/-- The address rule of R72 as every landing and slot write uses it; the layout of R80 and the step of R83 and R84. -/
def Obligations.WritesTouchOnlyTheirUnitsAndTiles : Prop :=
  (∀ (m : SMap Byte) (a : Nat) (bs : List Byte), bs.length ≤ 65536 →
    (∀ i, i < bs.length → SMap.look 0 (writeUnits m a bs) ((16 * a + i) % 65536) = nth 0 bs i)
    ∧ (∀ o, (∀ i, i < bs.length → o ≠ (16 * a + i) % 65536) → SMap.look 0 (writeUnits m a bs) o = SMap.look 0 m o)
    ∧ (Memory.wf m = true → Memory.wf (writeUnits m a bs) = true))
  ∧ ∀ (c : Core) (m : SMap Byte) (tr : Nat) (ws : List W32), ws.length = 256 →
    (∀ i j, i < 16 → j < 16 → tileWord (writeTiles m (tileWrites tr ws)) tr i j = nth 0 ws (16 * i + j))
    ∧ (∀ b, b < 1024 * tr ∨ 1024 * tr + 1024 ≤ b → SMap.look 0 (writeTiles m (tileWrites tr ws)) b = SMap.look 0 m b)
    ∧ ∀ tens it slot i0 d i j, i < 16 → j < 16 →
      let w := c.eprog i0; let a := fun (p q : Nat) => tileWord m (stepField w 22 20) p q
      let b := fun (p q : Nat) => tileWord m (stepField w 19 17) p q
      let r := runSteps c tens it slot 1 i0 d m
      tileWord (writeTiles m r.writes) (stepDst w) i j =
        (elemOp (stepEop w) (a i j)
          (if stepImm w then c.econst (stepField w 12 8) else if stepField w 7 6 = 1 then b i 0
            else if stepField w 7 6 = 2 then b 0 j else b i j)
          (tileWord m (stepField w 16 14) i j)).1

/-- SFETCH and SREL (R94, R117, R145, R147-R150). -/
def Obligations.StreamSlotsOpenSendReleaseAndClose : Prop :=
  ∀ (s : State) (sa x y p : Nat) (ecc : ReadEcc), let u := s.atSlot sa x y
    let c := s.slotCore sa x y; let d := s.dueAt sa x y; let n := fld c.word 47 42; let g := c.descCfg n; let v := c.desc n
    let fires := fun e : Core => u.setCore (coreKey sa x y) (e.advance d 0)
    let us0 := c.requestUnits n (c.fetchTiles n); let us1 := c.requestUnits n (u.relTiles sa x y n)
    let fetched := fun t : State => exec (.sfetch sa x y ecc) s = .next ((t.scratchCe sa x y (eccFixes ecc us0)).slotEnds sa)
    let released := fun t : State => exec (.srel sa x y ecc) s = .next ((t.scratchCe sa x y (eccFixes ecc us1)).slotEnds sa)
    (u.arr sa).part = some p →
    (∀ bad, (s.Fires sa x y 6 0 → eccFails ecc us0 = some bad →
          exec (.sfetch sa x y ecc) s = .next (((fires c).scratchUe sa x y c.slot d bad).slotEnds sa))
        ∧ (s.Fires sa x y 6 1 → eccFails ecc us1 = some bad →
          exec (.srel sa x y ecc) s = .next (((fires c).scratchUe sa x y c.slot d bad).slotEnds sa)))
    ∧ (s.Fires sa x y 6 0 → eccFails ecc us0 = none →
      (g.op = 0 ∨ g.op = 2 → v.opened = true → fetched (fires c))
      ∧ (g.op = 0 ∨ g.op = 2 → v.opened = false → (c.cannotOpen n = true ∨ 6 < c.outstanding + min 3 g.tcount) →
        fetched (slotFault u sa x y c 3 d))
      ∧ (g.op = 0 ∨ g.op = 2 → v.opened = false → c.cannotOpen n = false → c.outstanding + min 3 g.tcount ≤ 6 →
        let o := fires (c.setDesc n (v.opens (min 3 g.tcount)))
        fetched (if g.role = 0 then o.sendRequests sa x y n 0 (min 3 g.tcount) else o))
      ∧ (g.op = 1 ∨ g.op = 3 → v.opened = true → g.tcount ≤ v.next →
        fetched (slotFault u sa x y c 0xA d))
      ∧ (g.op = 1 ∨ g.op = 3 → (v.opened = true → v.next < g.tcount) →
        ((v.opened = false ∧ c.cannotOpen n = true) ∨ 6 < c.outstanding + 1 →
          fetched (slotFault u sa x y c 3 d))
        ∧ ((v.opened = false → c.cannotOpen n = false) → c.outstanding + 1 ≤ 6 →
          let v1 : Desc := if v.opened then { v with next := v.next + 1 } else v.opens 1
          let tile := if v.opened then v.next else 0
          let o := (fires (c.setDesc n v1)).sendRequest sa x y n tile
          fetched (if g.op = 1 then o.setPart p { o.part p with
            openWrites := (o.part p).openWrites ++ [(coreKey sa x y, n, tile, d)] } else o))))
    ∧ (s.Fires sa x y 6 1 → eccFails ecc us1 = none →
      (g.op = 1 ∨ g.op = 3 → released (fires c))
      ∧ (g.op = 0 ∨ g.op = 2 →
        let more := decide (v.head + 3 < g.tcount)
        let v1 : Desc := { v with head := v.head + 1, next := if more then v.next + 1 else v.next }
        let e := if v.head + 1 = g.tcount
          then { c.setDesc n v1.closes with stepNum := if g.stepInc then c.stepNum + 1 else c.stepNum }
          else c.setDesc n v1
        (v.opened = false → released (slotFault u sa x y c 0xA d))
        ∧ (v.opened = true → more = true → 6 < c.outstanding + 1 →
          released (slotFault u sa x y c 3 d))
        ∧ (v.opened = true → (more = true → c.outstanding + 1 ≤ 6) →
          (∀ grp, (u.part p).groupOf sa x y n = some grp → released ((fires e).injectFor p (.router (u.siteOf sa)) 0 (.release grp v.head (4 + 24 * y + x))))
          ∧ ((u.part p).groupOf sa x y n = none → released (if more = true ∧ g.role = 0 then (fires e).sendRequest sa x y n (v.head + 3) else fires e)))))
    ∧ (∀ (t0 : State) (tile : Nat), (t0.arr sa).part = some p → (t0.core (coreKey sa x y)).descCfg n = g →
      ∃ r : Request, r.part = p ∧ r.sa = sa ∧ r.x = x ∧ r.y = y ∧ r.desc = n ∧ r.tile = tile ∧ r.region = g.region
        ∧ r.offset = (if g.op = 2 then g.ofs else g.ofs + tile * g.tstride) ∧ r.len = g.tbytes
        ∧ r.step = (t0.core (coreKey sa x y)).stepNum ∧ r.resp = g.resp ∧ r.epoch = (t0.part p).epoch
        ∧ t0.sendRequest sa x y n tile = { t0 with
            net := t0.net ++ [⟨t0.nextId, p, (t0.part p).cls, (t0.part p).epoch, .router (t0.siteOf sa), g.route,
              some (t0.siteOf sa, 4), [gateOf x y], .request r⟩],
            nextId := t0.nextId + 1 })

/-- TILE_LANDING and WRITE_ACK (R99, R148-R151); a counter that leaves its range in strict mode is CounterRangeFaultInStrictMode's
case. -/
def Obligations.TilesAndAcknowledgementsLand : Prop :=
  ∀ (s : State) (tok sa x y : Nat) (tk : Token), s.token tok = some tk → tk.loc = .core sa x y →
    let k := coreKey sa x y; let c := s.core k; let u := (s.consume tok).stir sa
    let counts := fun (g : DescCfg) (e : Core) => if g.lcntEn then (e.increment g.lcnt 1).1 else e
    let inRange := fun (g : DescCfg) => g.lcntEn = false ∨ c.counter g.lcnt < 0xFFFF ∨ s.strict sa = false
    (∀ src raddr tile seq data n late, tk.body = .tile src raddr tile seq data → c.landingDesc raddr tile = some (n, late) →
      (s.inOrder tok fun o => match o.body with
        | .tile src2 _ _ _ _ => src2 == src && (o.loc == tk.loc || (match o.loc with
          | .router _ => true
          | _ => false))
        | _ => false) = true →
      let g := c.descCfg n; let v := c.desc n; let ends := 16 * (raddr - g.buffer tile) + data.length = g.tbytes
      let e := { c with scratch := writeUnits c.scratch raddr data }
      (late = true → exec (.tileLanding tok) s = .next (u.setCore k
        (e.setDesc n { v with late := if ends then v.late.erase tile else v.late })))
      ∧ (late = false → v.seq ≠ seq → exec (.tileLanding tok) s = .next (u.channelFault sa x y))
      ∧ (late = false → v.seq = seq → ¬ends → exec (.tileLanding tok) s = .next (u.setCore k
        (e.setDesc n { v with seq := (seq + 1) % 256 })))
      ∧ (late = false → v.seq = seq → ends → inRange g → exec (.tileLanding tok) s = .next (u.setCore k (counts g
        (e.setDesc n { v with done := v.done ++ [tile], seq := (seq + 1) % 256 })))))
    ∧ (∀ n tile p, tk.body = .ack n tile → (c.desc n).opened = true → (s.arr sa).part = some p →
      let g := c.descCfg n; let v := c.desc n; let last := v.done.length + 1 = g.tcount
      inRange g →
      let v1 : Desc := { v with done := v.done ++ [tile] }
      let e := if last then { c.setDesc n v1.closes with stepNum := if g.stepInc then c.stepNum + 1 else c.stepNum }
        else c.setDesc n v1
      exec (.writeAck tok) s = .next ((u.setCore k (counts g e)).setPart p { u.part p with
        openWrites := (s.part p).openWrites.filter fun w => !(w.1 == k && w.2.1 == n && w.2.2.1 == tile) }))

/-- ROUTER_MESSAGE (R118, R120, R122-R124, R126, R134; log entry 84 for where the round robin starts). -/
def Obligations.RoutersForwardOnlyTheirOwnersMessages : Prop :=
  ∀ (s : State) (tok site : Nat) (tk : Token), s.token tok = some tk → tk.loc = .router site → s.mayEnter tk = true →
    let e := s.entryAt site tk.entry
    let owned := entValid e = true ∧ entPart e = tk.part ∧ entClass e = tk.cls
    let v := if tk.cls = 0 then s.setRouter site { s.router site with turn := tk.input } else s
    (s.givesWay site tk = true ↔ ∃ o ∈ s.net, o.cls = 0 ∧ o.loc = .router site ∧ (s.asks site o &&& s.asks site tk) ≠ 0
      ∧ (tk.cls ≠ 0 ∨ (o.input + 6 - (s.router site).turn) % 7 < (tk.input + 6 - (s.router site).turn) % 7))
    ∧ ((s.router site).dead = true → ∀ ecc, exec (.routerMessage tok ecc) s = .next { s with net := s.net.filter (·.id != tok) })
    ∧ ((s.router site).dead = false → s.givesWay site tk = true → ∀ ecc, exec (.routerMessage tok ecc) s = .next s)
    ∧ ((s.router site).dead = false → s.givesWay site tk = false →
      (owned → entReduce e = false →
        exec (.routerMessage tok .clean) s = .next (v.replaceToken tok (v.copies site tk e))
        ∧ ∀ dir n, dir < 4 → entOut e = 2 ^ dir → neighbour site dir = some n → (s.router n).dead = false →
          dir ∉ (s.router site).deadDirs →
          exec (.routerMessage tok .clean) s = .next { v with
            net := s.net.flatMap fun o => if o.id == tok
              then [{ tk with id := tok, loc := .router n, entry := entNext e, via := some (site, dir),
                              lanes := [linkLane site dir (entLane e)] }] else [o] })
      ∧ (owned → entReduce e = true → ∀ m, tk.body = .msg m →
        exec (.routerMessage tok .clean) s = .next { v with
          net := s.net.flatMap fun o => if o.id == tok
            then [{ tk with id := tok, loc := .redSlot site (entSlot e) (hdrIndex m.header % 2), via := none, lanes := [] }]
            else [o] })
      ∧ (¬owned →
        let s1 := { v with net := s.net.filter (·.id != tok),
                           tally := { s.tally with routeDrops := min 0xFFFFFFFF (s.tally.routeDrops + 1) } }
        exec (.routerMessage tok .clean) s = .next (if (s.part tk.part).state = .none then s1
          else faultPart s1 tk.part { kind := 8, cause := 1, router := true, site := site }))
      ∧ (∀ lane l, linkOf tk lane = some l →
        exec (.routerMessage tok (.corrected lane)) s = .next (((s.laneError l.1 (32 * l.2 + lane)).tookTurn site tk).forward site tk)
        ∧ exec (.routerMessage tok (.uncorrectable lane)) s = .next ((s.markLane l.1 (32 * l.2 + lane)).consume tok))
      ∧ ∀ lane, lane ∉ tk.lanes ∨ tk.via = none →
        exec (.routerMessage tok (.corrected lane)) s = .next s ∧ exec (.routerMessage tok (.uncorrectable lane)) s = .next s)
    ∧ ∀ o other, s.token other = some o → (∀ n, o.loc ≠ .router n) →
      exec (.routerMessage other .clean) s = .next s
      ∧ ∀ lane, (∀ l, linkOf o lane = some l →
          exec (.routerMessage other (.corrected lane)) s = .next (s.laneError l.1 (32 * l.2 + lane))
          ∧ exec (.routerMessage other (.uncorrectable lane)) s = .next ((s.markLane l.1 (32 * l.2 + lane)).consume o.id))
        ∧ (linkOf o lane = none → exec (.routerMessage other (.corrected lane)) s = .next s
          ∧ exec (.routerMessage other (.uncorrectable lane)) s = .next s)

/-- LANE_SPARE (R118, R120, R128, R318); the afresh count is log entry 78's choice. -/
def Obligations.OneSpareLaneADirection : Prop :=
  ∀ (s : State) (site dir lane : Nat), site < 1296 → dir < 7 → lane < 16 →
    let r := s.router site; let key := 32 * dir + lane
    (key ∉ r.marked ∨ dir = 4 ∨ 8 ≤ lane ∧ wideLink site dir = false → exec (.laneSpare site dir lane) s = .next s)
    ∧ (key ∈ r.marked → dir ≠ 4 → lane < 8 ∨ wideLink site dir = true →
      ((∀ k ∈ r.spared, k / 32 ≠ dir) → s.mgs.softEntries < 65536 → Yields (exec (.laneSpare site dir lane) s) fun t =>
        t.router site = { r with marked := r.marked.filter (· != key), laneCe := r.laneCe.filter fun e => e.1 != key,
                                 spared := r.spared ++ [key] }
        ∧ (∀ n, n ≠ site → t.router n = s.router n)
        ∧ t.tally = { s.tally with lanesSpared := min 0xFFFF (s.tally.lanesSpared + 1) }
        ∧ t.mgs = { s.mgs with softEntries := s.mgs.softEntries + 1 }
        ∧ (s.mgs.softEntries < 65535 → t.gel = (s.event 0x0202 (linkSource site dir) noPart lane).gel)
        ∧ (dir < 4 → linkSource site dir = 0x2000 + 4 * site + dir)
        ∧ t = { s with routers := t.routers, tally := t.tally, mgs := t.mgs, gel := t.gel })
      ∧ ((∀ k ∈ r.spared, k / 32 ≠ dir) → 65536 ≤ s.mgs.softEntries → site ∉ s.mgs.deadSites →
        Yields (exec (.laneSpare site dir lane) s) fun t => site ∈ t.mgs.deadSites ∧ (s.siteUsers site = [] → t.routers = s.routers ∧ t.tally = s.tally)
          ∧ (∀ p e, p < 64 → e ∈ r.entries → entValid e.2 = true → entPart e.2 = p → (s.part p).state.live = true →
              (t.part p).state = .binding)
          ∧ ∀ n p, s.arrayAt site = some n → (s.arr n).part = some p → (s.part p).state.live = true → (t.part p).state = .binding)
      ∧ ((∃ k ∈ r.spared, k / 32 = dir) →
        (dir ∈ r.deadDirs → exec (.laneSpare site dir lane) s = .next (s.setRouter site
          { r with marked := r.marked.filter (· != key), laneCe := r.laneCe.filter fun e => e.1 != key }))
        ∧ (dir ∉ r.deadDirs → Yields (exec (.laneSpare site dir lane) s) fun t =>
          (t.router site).deadDirs = r.deadDirs ++ [dir] ∧ (∀ o ∈ t.net, o.via ≠ some (site, dir))
          ∧ ∀ p e, p < 64 → e ∈ r.entries → entValid e.2 = true → entPart e.2 = p → (s.part p).state.live = true →
            (dir ≠ 6 ∧ (entOut e.2).testBit dir = true ∨ dir = 6 ∧ ∃ st, stationAt site = some st ∧ s.entersFrom st p = true) →
            (t.part p).state = .binding)))

/-- RELEASE_TOKEN (R94, R134, R154, R230). -/
def Obligations.ReleaseTokensMergeOverTheTree : Prop :=
  ∀ (s : State) (tok site g tile branch parent : Nat) (tk : Token) (h : Tree) (bs : List Nat) (ecc : ReadEcc),
    s.token tok = some tk → tk.loc = .router site → tk.body = .release g tile branch →
    (s.part tk.part).trees.find? (fun h => h.group == g) = some h →
    h.nodes.find? (fun n => n.1 == site) = some (site, parent, bs) →
    let waits := tk.cls ≠ 0 ∧ ∃ u ∈ s.net, u.cls = 0 ∧ u.loc = .router site ∧ u.isRelease = true
    let r := s.router site; let key := 65536 * tk.part + h.group; let held := r.releases ++ [(key, tile, branch)]
    (waits → exec (.releaseToken tok ecc) s = .next s)
    ∧ (¬waits → (∃ b ∈ bs, (key, tile, b) ∉ held) → Yields (exec (.releaseToken tok ecc) s) fun t =>
      t.router site = { r with releases := held } ∧ t.net = s.net.filter (·.id != tok)
      ∧ t = { s with routers := t.routers, net := t.net })
    ∧ (¬waits → (∀ b ∈ bs, (key, tile, b) ∈ held) → Yields (exec (.releaseToken tok ecc) s) fun t =>
      let s1 := s.setRouter site { r with releases := bs.foldl (fun l b => l.erase (key, tile, b)) held }
      (site ≠ h.root → ∀ dir, ((List.range 4).find? fun d => neighbour parent d == some site) = some dir →
        t = { s1 with net := s.net.flatMap fun o => if o.id == tok
          then [{ tk with id := tok, loc := .router parent, body := .release h.group tile dir }] else [o] })
      ∧ (site = h.root →
        let k := coreKey h.sa h.x h.y; let c := s.core k; let v := c.desc h.desc
        let due := v.opened = true ∧ tile + 3 < (c.descCfg h.desc).tcount ∧ tile < v.head
        let held := due ∧ (s.arr h.sa).freeze ≠ none
        let s2 := (s1.consume tok).setCore k (c.setDesc h.desc { v with
          merged := v.merged + 1, waits := if held then v.waits + 1 else v.waits })
        let us := c.requestUnits h.desc [tile + 3]
        (¬due ∨ held → t = s2)
        ∧ (due → ¬held → eccFails ecc us = none →
          t = (s2.sendRequest h.sa h.x h.y h.desc (tile + 3)).scratchCe h.sa h.x h.y (eccFixes ecc us))
        ∧ ∀ bad, due → ¬held → eccFails ecc us = some bad → t = s2.scratchUe h.sa h.x h.y c.slot (s.arr h.sa).fireCycle bad))

/-- REDUCTION_INPUT (R99, R130, R132) and STATION_RED_INPUT (R133). -/
def Obligations.ReductionInputsAreHeldOnTheirSide : Prop :=
  ∀ (s : State) (tok : Nat) (tk : Token) (m : Message), s.token tok = some tk → tk.body = .msg m →
    s.inOrder tok (sameChannel m) = true →
    let u := s.consume tok; let side := hdrIndex m.header % 2; let f := msgUnits (hdrLen m.header)
    let takes := fun (cmd : Instr) (w : W64) (b : RedBuf) (put : RedBuf → State) (at_ : FaultInfo) =>
      let b1 : RedBuf := if side = 0
        then { b with side0 := some m, seq0 := (b.seq0 + 1) % 256, wp0 := wpAfter 256 b.wp0 f }
        else { b with side1 := some m, seq1 := (b.seq1 + 1) % 256, wp1 := wpAfter 256 b.wp1 f }
      let skip := wrapSkip 256 (if side = 0 then b.wp0 else b.wp1) f
      (redValid w = false ∨ redPart w ≠ tk.part → exec cmd s = .next u)
      ∧ (redValid w = true → redPart w = tk.part →
        (redMismatch w b m = true → exec cmd s = .next (faultPart u tk.part { at_ with kind := 4, cause := 9 }))
        ∧ (redMismatch w b m = false → b.sideSeq side ≠ hdrSeq m.header →
          exec cmd s = .next (faultPart u tk.part { at_ with kind := 6 }))
        ∧ (redMismatch w b m = false → b.sideSeq side = hdrSeq m.header →
          exec cmd s = .next (if skip = 0 then put b1 else (put b1).credit tk.part (srcFeeder m.src) (2 * skip))))
    (∀ site slot sd, tk.loc = .redSlot site slot sd → let r := s.router site
      takes (.reductionInput tok) (SMap.look 0 r.red slot) (SMap.look RedBuf.reset r.bufs slot)
        (fun b => u.setRouter site { r with bufs := SMap.put RedBuf.reset r.bufs slot b })
        { kind := 4, router := true, site := site, rslot := slot })
    ∧ (∀ st, tk.loc = .station st → st < 40 → let x := s.mem st; let q := s.part tk.part
      let slot := match q.redAt.find? fun e => e.2.1 && e.2.2.1 == st && some e.1 == q.redTarget m.src with
        | some e => e.2.2.2
        | none => 0
      takes (.stationRedInput tok) (SMap.look 0 x.red slot) (SMap.look RedBuf.reset x.bufs slot)
        (fun b => u.setMem st { x with bufs := SMap.put RedBuf.reset x.bufs slot b })
        { kind := 4, router := true, site := attachSite st, staRed := true, station := st, sslot := slot })

/-- REDUCTION_ADD (R28, R131, R134) and STATION_RED_ADD (R133); log entry 84 for where the round robin starts. -/
def Obligations.ReductionAddsEmitTheParentNode : Prop :=
  let adds := fun (s : State) (sta : Bool) (n slot : Nat) (cmd : Instr) =>
    let r := s.router n; let x := s.mem n
    let w := SMap.look 0 (if sta then x.red else r.red) slot; let b := SMap.look RedBuf.reset (if sta then x.bufs else r.bufs) slot
    let turn := if sta then x.redTurn else r.redTurn
    let p := redPart w; let dest := s.redDest p fun e => e.2.1 == sta && e.2.2.1 == n && e.2.2.2 == slot
    let cost := fun (m0 : Message) (d : Nat × Nat × W64) => let f := msgUnits (hdrLen m0.header); 2 * f + 2 * wrapSkip d.2.1 b.wp f
    (s.redReady sta n slot = true ↔
      ∃ m0 m1 d, b.side0 = some m0 ∧ b.side1 = some m1 ∧ dest = some d ∧ cost m0 d ≤ b.credit)
    ∧ (s.redNext sta n ≠ some slot → exec cmd s = .next s)
    ∧ (s.redNext sta n = some slot → s.redReady sta n slot = true
        ∧ ∀ k, k < (if sta then 64 else 16) → s.redReady sta n k = true →
            let c0 := fun j => (s.part (redPart (SMap.look 0 (if sta then x.red else r.red) j))).cls = 0
            (c0 slot → c0 k → if turn ≤ k then turn ≤ slot ∧ slot ≤ k else turn ≤ slot ∨ slot ≤ k)
            ∧ (¬c0 slot → ¬c0 k ∧ slot ≤ k))
    ∧ ∀ m0 m1 d, s.redNext sta n = some slot → b.side0 = some m0 → b.side1 = some m1 → dest = some d →
      hdrEpoch m0.header < 16 → b.seq < 256 → d.1 < 8 → redLevel w < 31 →
      let f := msgUnits (hdrLen m0.header)
      let b1 : RedBuf := { b with side0 := none, side1 := none, seq := (b.seq + 1) % 256, credit := b.credit - cost m0 d,
                                  wp := wpAfter d.2.1 b.wp f }
      ∃ m : Message, hdrType m.header = 1 ∧ hdrLevel m.header = redLevel w + 1 ∧ hdrIndex m.header = redJout w
        ∧ hdrEpoch m.header = hdrEpoch m0.header ∧ hdrSeq m.header = b.seq ∧ hdrRing m.header = d.1
        ∧ m.payload = addWords m0.payload m1.payload (m0.payload.length / 4)
        ∧ (sta = true → enterLanes (s.part p).cls (.msg m) (enterBy (.router (attachSite n)) (.msg m))
            = if (s.part p).cls = 0 then [14, 15] else List.range 14)
        ∧ let after := if (s.part p).cls = 0 then slot + 1 else turn
          let s1 := (if sta then s.setMem n { x with bufs := SMap.put RedBuf.reset x.bufs slot b1, redTurn := after }
              else s.setRouter n { r with bufs := SMap.put RedBuf.reset r.bufs slot b1, redTurn := after }).inject p (s.part p).cls
                (hdrEpoch m0.header) (.router (if sta then attachSite n else n)) (redOut w) (.msg m)
          exec cmd s = .next ((s1.credit p (srcFeeder m0.src) (2 * f)).credit p (srcFeeder m1.src) (2 * f))
  (∀ (s : State) (site slot : Nat), site < 1296 → slot < 16 → adds s false site slot (.reductionAdd site slot))
  ∧ ∀ (s : State) (st slot : Nat), st < 40 → slot < 64 → adds s true st slot (.stationRedAdd st slot)

/-- R139: the address rule, and what it means for a store; R164 for what a store does to granules' tags. -/
def Obligations.RegionBytesLieInOnePlaceEach : Prop :=
  ∀ (s : State) (p r : Nat), let q := s.part p; let e := q.region r; let n := e.stations.length; let g := e.gran
    n ≠ 0 → e.kind ≠ 2 →
    (∀ o, q.place r o = (nth 0 e.stations (o / g % n),
      SMap.look 0 q.bases (64 * r + nth 0 e.stations (o / g % n)) + o / (n * g) * g + o % g))
    ∧ (∀ o1 o2, q.place r o1 = q.place r o2 → o1 = o2)
    ∧ (∀ (o : Nat) (bs : List Byte), let t := s.storeRegion p r o bs
      t.readRegion p r o bs.length = bs
      ∧ (∀ o2, o2 < o ∨ o + bs.length ≤ o2 → t.readRegion p r o2 1 = s.readRegion p r o2 1)
      ∧ (∀ st a, (∀ i, i < bs.length → q.place r (o + i) ≠ (st, a)) →
          SMap.look 0 (t.mem st).stack a = SMap.look 0 (s.mem st).stack a)
      ∧ (∀ st, t.mem st = { s.mem st with stack := (t.mem st).stack, poison := (t.mem st).poison, seals := (t.mem st).seals })
      ∧ t.authentic p r o bs.length = true
      ∧ t = { s with ms := t.ms })
    ∧ ∀ (st : Nat) (a : Active), let b := a.req; b.part = p → b.region = r →
      let bound := fun off => s.issue st a = streamFault s p 1 st r off b.sa b.x b.y
      (b.kind = .read ∨ b.kind = .write → e.size < b.offset + b.len → bound b.offset)
      ∧ ∀ i rest pre, b.kind = .gather → b.rows = pre ++ i :: rest → let w := b.len / b.rows.length
        (∀ j ∈ pre, b.offset + j * w + w ≤ e.size) → e.size < b.offset + i * w + w → bound (b.offset + i * w)

/-- STREAM_REQUEST_ARRIVAL and STREAM_REQUEST_ADMIT (R139, R155, R157, R165, R225, R325, R327). That a command given while its station
switches has no effect is the model's choice (log entry 86). -/
def Obligations.RequestsQueueThenTakeTheirSlots : Prop :=
  (∀ (s : State) (tok st : Nat) (tk : Token) (r : Request), s.token tok = some tk → tk.loc = .station st → tk.body = .request r →
    st < 40 → let u := s.consume tok; let m := s.mem st
    let late := r.cls = 0 ∧ ((s.freeSlots st r.part).1 < (r.len + 1023) / 1024 + m.wanted r.part ∨ s.switching 3 st = true)
    let noted := if late then (u.updMem st fun m => { m with class0Late := min 0xFFFFFFFF (m.class0Late + 1) }).setPart r.part
        { s.part r.part with class0Late := true } else u
    (m.state = 2 → exec (.streamRequestArrival tok) s = .next (streamFault u r.part 5 st r.region r.offset r.sa r.x r.y))
    ∧ (m.state ≠ 2 → exec (.streamRequestArrival tok) s = .next ({ noted with nextId := s.nextId + 1 }.updMem st fun m =>
        { m with waiting := m.waiting ++ [{ r with arrived := s.nextId, late := decide late }] })))
  ∧ (∀ (s : State) (st : Nat) (r : Request), let m := s.mem st; let k := m.takenBy r.rid; let f := s.freeSlots st r.part
    let n := (r.len + 1023) / 1024; let a := min f.1 (n - k.1 - k.2)
    ((s.takeSlots st [r]).mem st).takenBy r.rid = (k.1 + a, k.2 + min f.2 (n - k.1 - k.2 - a))
    ∧ ∃ taken, s.takeSlots st [r] = s.setMem st { m with taken := taken })
  ∧ (∀ (s : State) (st : Nat), st < 40 → s.switching 3 st = true → exec (.streamRequestAdmit st) s = .next s)
  ∧ (∀ (s : State) (st : Nat) (r : Request), st < 40 → s.switching 3 st = false → let zero := fun o : Request => o.cls == 0
    let u := s.takeSlots st ((s.mem st).waiting.filter zero); let m := u.mem st; let n := (r.len + 1023) / 1024
    let admitted := fun (res : Nat) (rr : List Nat) => { u with nextId := s.nextId + 1 }.setMem st
      { m with waiting := m.waiting.filter fun o => o.rid != r.rid, taken := m.taken.filter fun x => x.1 != r.rid,
               active := m.active ++ [(⟨r, s.nextId, n, res, .issued, [], 0⟩ : Active)], rr := rr }
    let ends := fun (t : State) => if ((s.part r.part).region r.region).size < r.offset + r.len
      then streamFault t r.part 1 st r.region r.offset r.sa r.x r.y else t
    r.kind = .read ∨ r.kind = .write →
    (((m.waiting.filter zero).find? fun o => decide ((o.len + 1023) / 1024 ≤ (m.takenBy o.rid).1 + (m.takenBy o.rid).2)) = some r →
      exec (.streamRequestAdmit st) s = .next (ends (admitted (m.takenBy r.rid).1 m.rr)))
    ∧ (∀ rr, (∀ o ∈ m.waiting, o.cls ≠ 0) → serveNext id m.rr m.waiting = some (r, rr) → n ≤ (u.freeSlots st r.part).2 →
      exec (.streamRequestAdmit st) s = .next (ends (admitted 0 (charge rr r.cls n)))))
  ∧ ∀ (rr rr1 : List Nat) (l : List Request) (r : Request), serveNext id rr l = some (r, rr1) →
    r ∈ l ∧ (∀ o ∈ l, o.cls = r.cls → r.arrived ≤ o.arrived)
    ∧ (r.cls ≠ 0 → (∀ o ∈ l, o.cls ≠ 0) ∧ served rr1 r.cls < classShare r.cls)

/-- STACK_ACCESS_COMPLETE and TILE_RESPONSE (R140, R143, R148, R151-R153, R155, R164). -/
def Obligations.StackAccessesReadAndWriteTheStack : Prop :=
  ∀ (s : State) (ms : Nat) (a : Active) (rr : List Nat), ms < 40 → let r := a.req; let q := s.part r.part
    let w := q.place r.region r.offset; let m := s.mem ms
    let done := fun t : State => t.updMem ms fun m => { m with active := m.active.filter fun b => b.req.rid != r.rid }
    (s.stackNext ms = none → ∀ rid errs, exec (.stackAccessComplete ms rid errs) s = .next s)
    ∧ (s.stackNext ms = some (a, rr) →
      let s1 := s.setMem ms { m with rrStack := charge rr r.cls a.slots }
      (∀ rid errs, rid ≠ r.rid ∨ r.kind = .gather → exec (.stackAccessComplete ms rid errs) s = .next s)
      ∧ (∀ errs, r.kind = .read → r.host = none → let rd := s1.readStack w.1 w.2 r.len errs
        (∀ bs, rd.2 = some bs → rd.1.authentic r.part r.region r.offset r.len = true →
          exec (.stackAccessComplete ms r.rid errs) s = .next (rd.1.updMem ms fun m => { m with
            active := m.active.map fun b => if b.req.rid == r.rid then { a with stage := .ready, data := bs } else b }))
        ∧ (∀ bs, rd.2 = some bs → rd.1.authentic r.part r.region r.offset r.len = false →
          exec (.stackAccessComplete ms r.rid errs) s = .next (streamFault rd.1 r.part 4 ms r.region r.offset r.sa r.x r.y))
        ∧ (rd.2 = none →
          exec (.stackAccessComplete ms r.rid errs) s = .next (streamFault rd.1 r.part 2 ms r.region r.offset r.sa r.x r.y)))
      ∧ (∀ errs, r.kind = .write → let e := s1.readEdges w.1 w.2 errs (partSectors w.2 r.len)
        let u := done (e.1.storeRegion r.part r.region r.offset r.data)
        (w.2 % 32 = 0 → r.len % 32 = 0 → e = (s1, true))
        ∧ (e.2 = true → r.host = none → exec (.stackAccessComplete ms r.rid errs) s = .next { u with
            net := u.net ++ [(⟨u.nextId, r.part, r.cls, r.epoch, .core r.sa r.x r.y, 0, none, [], .ack r.desc r.tile⟩ : Token)]
            nextId := u.nextId + 1 })
        ∧ (∀ h, e.2 = true → r.host = some h → exec (.stackAccessComplete ms r.rid errs) s = .next (u.hostOver h r.rid 0))
        ∧ (e.2 = false → r.host = none →
          exec (.stackAccessComplete ms r.rid errs) s = .next (streamFault e.1 r.part 2 ms r.region r.offset r.sa r.x r.y))
        ∧ (∀ h, e.2 = false → r.host = some h →
          exec (.stackAccessComplete ms r.rid errs) s = .next ((done e.1).hostOver h r.rid 0x0B))))
    ∧ (∀ st p n, let sectors := (List.range ((p + n + 31) / 32 - p / 32)).map fun i => p / 32 * 32 + 32 * i
      ((∀ o ∈ sectors, o ∉ (s.mem st).poison) → p + n ≤ 0xFD99A0000 → s.readStack st p n [] = (s, some (SMap.span 0 (s.mem st).stack p n)))
      ∧ ((∃ o ∈ sectors, o ∈ (s.mem st).poison) → s.readStack st p n [] = (s, none)))
    ∧ (serveNext Active.req m.rrOut (m.active.filter fun b => b.stage == .ready) = some (a, rr) →
      let n := (r.len + 1023) / 1024
      let u := done (s.setMem ms { m with rrOut := charge rr r.cls a.slots })
      (∀ rid, rid ≠ r.rid → exec (.tileResponse ms rid) s = .next s)
      ∧ exec (.tileResponse ms r.rid) s = .next { u with
          net := s.net ++ (List.range n).map fun i => (⟨s.nextId + i, r.part, r.cls, r.epoch, .router (attachSite ms), r.resp,
            some (attachSite ms, 6), if r.cls = 0 then [14, 15] else List.range 14,
            .tile (64 * coreKey r.sa r.x r.y + r.desc) ((r.raddr + 64 * i) % 4096) r.tile ((n * r.tile + i) % 256)
              ((a.data.drop (1024 * i)).take 1024)⟩ : Token)
          nextId := s.nextId + n })

/-- PSE_THREAD_RETURN (R139, R143, R155, R158, R159, R165). -/
def Obligations.GatherThreadsTakeOneRowEach : Prop :=
  ∀ (s : State) (ms k : Nat) (a : Active), ms < 40 → k < 32 → let r := a.req; let q := s.part r.part
    let th := SMap.look Thread.reset (s.mem ms).threads k
    (s.mem ms).serves th = some a → th.ready = false → r.kind = .gather → a.stage = .issued →
    let stride := if r.rows.length = 0 then 0 else r.len / r.rows.length
    let o := r.offset + nth 0 r.rows (r.rows.length - a.left) * stride; let n := min stride (q.region r.region).size
    let spots := s.sectorSpots r.part r.region o n; let st := s.rowStation ms a
    let bad := fun t : State => ((t.badSector r.part [(r.region, o, n)]).getD (st, r.region, o)).1
    ((∀ b rr, s.stackNext st = some (b, rr) → b.req.rid ≠ r.rid) → ∀ errs, exec (.pseThreadReturn ms k errs) s = .next s)
    ∧ ∀ b rr, s.stackNext st = some (b, rr) → b.req.rid = r.rid →
    let s1 := s.updMem st fun m => { m with rrStack := charge rr r.cls (max 1 ((n + 1023) / 1024)) }
    (∀ errs, let rd := s1.reading.range r.part r.region errs (o, n)
      (∀ bs, rd.2.2 = some bs → exec (.pseThreadReturn ms k errs) s = .next (rd.1.takeRow ms k a bs))
      ∧ (rd.2.2 = none → exec (.pseThreadReturn ms k errs) s
          = .next (streamFault rd.1 r.part 2 (bad rd.1) r.region o r.sa r.x r.y)))
    ∧ ((∀ i, i < n → s.locate r.part r.region (o + i) ≠ none) →
      (∀ x ∈ spots, x.2 ∉ (s.mem x.1).poison ∧ x.2 < 0xFD99A0000) → (∀ j, (s.mem j).pends = []) →
      Yields (exec (.pseThreadReturn ms k []) s) fun t =>
        (t.mem ms).active = ((s.mem ms).active.map fun b => if b.req.rid = r.rid
          then { a with data := a.data ++ s.readRegion r.part r.region o n, left := a.left - 1,
                        stage := if a.left - 1 = 0 then .ready else .issued } else b)
        ∧ (∀ j, j ≠ ms → (t.mem j).active = (s.mem j).active) ∧ (∀ j, (t.mem j).stack = (s.mem j).stack)
        ∧ t = { s with ms := t.ms, volumes := t.volumes, tally := t.tally })
    ∧ ((∃ x ∈ spots, x.2 ∈ (s.mem x.1).poison) → exec (.pseThreadReturn ms k []) s
        = .next (streamFault s1 r.part 2 (bad s1) r.region o r.sa r.x r.y))

/-- SCRUB_READ, SOFT_ROW_REPAIR (R141-R144, R318, R329), ZERO_WRITE_DONE (R143, R215). The code of the event that PROMISE has changed is
free (log entry 43). -/
def Obligations.ScrubRepairAndZeroWrites : Prop :=
  ∀ (s : State) (ms : Nat), ms < 40 → s.TablesOk → let m := s.mem ms; let a := m.scrubAt
    let walked := fun (m : Ms) (inner : Nat) => if m.scrubAt + 32 < 2 ^ 36 then { m with scrubAt := m.scrubAt + 32 }
      else { m with scrubAt := 0, innerCe := min 0xFFFFFFFF (m.innerCe + inner), rowCe := [] }
    (∀ errs inner, s.stackBusy ms = true → exec (.scrubRead ms errs inner) s = .next s)
    ∧ (s.stackBusy ms = false →
      (∀ errs inner, let es := errs.filter fun e => e.sector == 0
        (s.readSector ms a es = none →
          exec (.scrubRead ms errs inner) s = .next ((s.scrubUe ms a).updMem ms fun m => walked m inner))
        ∧ ∀ d fixed, s.readSector ms a es = some (d, fixed) → exec (.scrubRead ms errs inner) s = .next
            (s.setMem ms (walked (if fixed then m.corrected a s.tune.memRowCeLimit d else m) inner)))
      ∧ (∀ inner, a ∉ m.poison → exec (.scrubRead ms [] inner) s = .next (s.setMem ms (walked m inner)))
      ∧ (∀ inner p, a ∈ m.poison → m.ownerAt a = some p →
        let u := s.event 0x0302 (0x0100 + ms) p (a / 32)
        exec (.scrubRead ms [] inner) s = .next ((u.setPart p { s.part p with memWarn := true }).setMem ms (walked m inner)))
      ∧ (∀ inner, a ∈ m.poison → a < 0xE40000000 → m.ownerAt a = none →
        exec (.scrubRead ms [] inner) s = .next (s.setMem ms
          (walked { m with stack := m.stack.clear a 32, ue := min 0xFFFFFFFF (m.ue + 1),
                           poison := m.poison.filter fun b => b != a } inner))))
    ∧ (∀ row, row ∉ m.rowsDue ∨ s.rowInFlight ms row = true → exec (.softRowRepair ms row) s = .next s)
    ∧ (∀ row, row ∈ m.rowsDue → s.rowInFlight ms row = false →
      let v : State := { s.setMem ms { m with rowsDue := m.rowsDue.filter fun x => x != row, rowCe := SMap.put 0 m.rowCe row 0,
                                              rowsRepaired := (m.rowsRepaired.filter fun x => x != row) ++ [row] } with
        mgs := { s.mgs with softEntries := s.mgs.softEntries + 1 } }
      (65536 ≤ s.mgs.softEntries → exec (.softRowRepair ms row) s = .next (s.loseMs ms))
      ∧ (s.mgs.softEntries < 65536 → exec (.softRowRepair ms row) s = .next
        ((if s.mgs.softEntries = 65535 then v.event Config.capacityCode 0x01FF 0xFFFF v.promise else v).event 0x0302 (0x0100 + ms)
          0xFFFF row)))
    ∧ (m.zeroing = [] → exec (.zeroWriteDone ms) s = .next s)
    ∧ (∀ r rs, m.zeroing = r :: rs → Yields (exec (.zeroWriteDone ms) s) fun t =>
      (∀ i, r.base ≤ i → i < r.base + r.size → SMap.look 0 (t.mem ms).stack i = 0)
      ∧ (∀ i, i < r.base ∨ r.base + r.size ≤ i → SMap.look 0 (t.mem ms).stack i = SMap.look 0 m.stack i)
      ∧ (∀ i, i ∈ (t.mem ms).poison ↔ i ∈ m.poison ∧ ¬(r.base ≤ i ∧ i < r.base + r.size))
      ∧ (t.mem ms) = { m with zeroing := rs, stack := (t.mem ms).stack, poison := (t.mem ms).poison,
                              seals := m.seals.clear r.base r.size }
      ∧ (∀ j, j ≠ ms → t.mem j = s.mem j) ∧ t = { s with ms := t.ms })

/-- What follows every arrival, response, landing and settlement at the stations (R152, R158, R180, R182, R184): the frame of `pump`. -/
def Obligations.WaitingWorkStartsWithoutTouchingData : Prop :=
  ∀ (s : State), let t := s.pump
    let bare := fun e : Nat × PendEnt => (e.1, { e.2 with held := 0, acked := false })
    (∀ n, t.mem n = { s.mem n with
        threads := (t.mem n).threads, lastThread := (t.mem n).lastThread, rrThread := (t.mem n).rrThread, dir := (t.mem n).dir,
        buckets := (t.mem n).buckets, pends := (t.mem n).pends, active := (t.mem n).active }
      ∧ (t.mem n).pends.map bare = (s.mem n).pends.map bare
      ∧ (∀ a ∈ (t.mem n).active, ∃ b ∈ (s.mem n).active, a = { b with left := a.left })
      ∧ (∀ b ∈ (s.mem n).active, (∀ j, ∀ e ∈ (s.mem j).pends, e.2.grad.rid ≠ b.req.rid) → b ∈ (t.mem n).active))
    ∧ t = { s with ms := t.ms, volumes := t.volumes, tally := { s.tally with slotEvictions := t.tally.slotEvictions },
                   net := t.net, nextId := t.nextId, ports := t.ports }
    ∧ (∃ l, t.net = s.net ++ l ∧ ∀ k ∈ l, ∃ d i, k.body = .ack d i)
    ∧ ((∀ i j, ∀ a ∈ (s.mem i).active, ∀ e ∈ (s.mem j).pends, a.req.rid = e.2.grad.rid → a.req.host = none) → t.ports = s.ports)
    ∧ (s.TablesOk → ∀ n v, s.volume n = some v → ∃ w, t.volume n = some w ∧ w = { v with data := w.data, lost := w.lost })
    ∧ (∀ st k th, s.pumpThread st k th ≠ s → ∃ a, (s.mem st).serves th = some a ∧ th.ready = true ∧ a.req.kind = .gather)
    ∧ (∀ st k th a, (s.mem st).serves th = some a → SMap.look Thread.reset (s.mem st).threads k = th → th.ready = true →
        (SMap.look Thread.reset ((s.pumpThread st k th).mem st).threads k).ready = false →
        let w := a.row (s.part a.req.part)
        s.interlocked a.req.part w.1 a.stamp [(w.2.1, w.2.2)] = false ∧ s.heldBack a.req [(w.2.1, w.2.2)] = false
        ∧ (((s.part a.req.part).region w.1).kind = 2 → ∀ b ∈ blocksOf [(w.2.1, w.2.2)],
            s.staged a.req.part w.1 b = true ∧ s.pendOf a.req.part w.1 b = 0))

/-- UPDATE_PART_ARRIVAL, UPDATE_APPLY, PENDING_APPLY (R139, R140, R143, R165, R172-R175, R182). -/
def Obligations.PartsQueueAndUpdateTheSixPlanes : Prop :=
  (∀ (s : State) (tok st : Nat) (tk : Token) (g : GradPart), s.TablesOk → s.token tok = some tk → tk.loc = .station st → tk.body = .grad g →
    st < 40 → let p := tk.part; let q := s.part p; let r := (q.pset g.pset).region
    let u := { s.consume tok with nextId := s.nextId + 1 }
    let queued := u.setMem st { s.mem st with updq := (s.mem st).updq ++ [{ g with arrival := s.nextId }],
                                              updParts := (s.mem st).updParts ++ [p] }
    ((q.region r).kind ≠ 2 → (∀ n, (s.mem n).find g.rid = none) → exec (.updatePartArrival tok) s = .next queued)
    ∧ (∀ w a, (q.region r).kind ≠ 2 → (s.mem w).find g.rid = some a → (∀ n, n ≠ w → (s.mem n).find g.rid = none) →
      exec (.updatePartArrival tok) s = .next (if a.left - 1 = 0 then queued.ackRequest w { a with left := a.left - 1 }
        else queued.setMem w ((queued.mem w).setActive { a with left := a.left - 1 })))
    ∧ (∀ k, (q.region r).kind = 2 → (∃ b ∈ s.partBlocks p g, s.staged p r b.2 = false ∨ s.pendNeed p r b.2 ≠ 0) →
      (s.mem st).freePend = some k → ((s.mem st).pends.filter fun e => e.2.part == p).length < q.pendQuota →
      exec (.updatePartArrival tok) s = .next (u.setMem st { s.mem st with
        pends := SMap.put noPend (s.mem st).pends k ⟨p, { g with arrival := s.nextId }, s.partBlocks p g, 0, false⟩ }).pump))
  ∧ (let applied := fun (cmd : Instr) (s u : State) (st p : Nat) (g : GradPart) (errs : List SymErr) =>
      let q := s.part p; let e := q.pset g.pset
      let lr := u.reading.learningRate p e g.t errs; let r := lr.1.ranges p e.region errs (e.engineReads g)
      let fault := fun (t : State) (cause : Nat) (w : Nat × Nat × Nat) =>
        streamFault t p cause w.1 w.2.1 w.2.2 (keyArr g.sender) (keyX g.sender) (keyY g.sender)
      let bad := fun t : State => fault t 2 ((t.badSector p (e.allReads g)).getD (st, e.region, e.dataAt 1 g.first))
      let out := e.lrLen ≠ 0 ∧ (q.region e.lrReg).size < e.lrTab + 4 * min g.t (e.lrLen - 1) + 4
      (out → exec cmd s = .next (fault u 1 (st, e.lrReg, e.lrTab + 4 * min g.t (e.lrLen - 1))))
      ∧ (¬out → r.2.2 = none → exec cmd s = .next (bad r.1))
      ∧ (¬out → r.2.2 ≠ none → e.digest = false → let v := r.1.applyPart p g lr.2
        exec cmd s = .next ((if (q.region e.region).kind = 2 then v.markDirty p e.region (v.partBlocks p g) else v).pump))
    (∀ (s : State) (st p : Nat) (g : GradPart) (gs : List GradPart) (ps : List Nat) (errs : List SymErr), st < 40 →
      (s.mem st).updq = g :: gs → (s.mem st).updParts = p :: ps → s.canApply st p g = true →
      applied (.updateApply st errs) s (s.setMem st { s.mem st with updq := gs, updParts := ps }) st p g errs)
    ∧ (∀ (s : State) (st k : Nat) (e : PendEnt) (errs : List SymErr), st < 40 → (∃ x ∈ (s.mem st).pends, x.1 = k) →
      SMap.look noPend (s.mem st).pends k = e → s.pendReady st k e = true →
      let u := s.setMem st { s.mem st with pends := SMap.put noPend (s.mem st).pends k noPend }
      ((s.mem st).poisonIn (0xFD9C20000 + 4672 * k) 4672 = true → exec (.pendingApply st k errs) s
        = .next (u.engineUe st e.part e.grad []))
      ∧ ((s.mem st).poisonIn (0xFD9C20000 + 4672 * k) 4672 = false → applied (.pendingApply st k errs) s u st e.part e.grad errs))
    ∧ (∀ (s : State) (p r : Nat) (l : List (Nat × Nat)),
      (∀ w ∈ l, ∀ x ∈ s.sectorSpots p r w.1 w.2, x.2 ∉ (s.mem x.1).poison) →
      (s.reading.ranges p r [] l).1 = s ∧ (s.reading.ranges p r [] l).2.2 ≠ none))
  ∧ ∀ (s : State) (p : Nat) (ps : Machine.PSet) (c : Consts) (g : GradPart) (b : Nat),
      let i := g.first + b * ps.sblk; let e := (s.part p).region ps.region
      let gs := ((g.data.drop (b * ps.sblk)).take ps.sblk).map fun x => decS 4 x.toNat (nth 0 g.scales b)
      let out := ps.updateBlock c (s.part p).set.jobSeed g.step.toNat i (s.blockElems p ps i) gs
      e.stations.length ≠ 0 → e.kind ≠ 2 → (ps.ranges i ps.sblk).Pairwise (fun x y => rangesMeet x y = false) →
      let t := s.applyBlock p ps c g b
      ∀ k o, (k, o) ∈ [0, 1, 2, 3, 4, 5].zip out →
        let bs := packCodes (ps.fmt k) o.1
        bs.length = ps.dataLen k ps.sblk →
        t.readRegion p ps.region (ps.dataAt k i) bs.length = bs
        ∧ (ps.scaled k = true → t.readRegion p ps.region (ps.scaleAt k i) 1 = [o.2])

/-- DIV_REREAD_DONE, DIV_RECOMPUTE_DONE, DIV_RECOMPUTE_TIMEOUT, and the vote (R140, R143, R158, R189, R190, R229, R267). That a timed-out
RECOMPUTE is noted as tried is the model's choice (log entry 47). -/
def Obligations.DivergencesSettleOrStopTheJob : Prop :=
  ∀ (s : State) (p : Nat) (d : Divergence) (ds : List Divergence), p < 64 → let q := s.part p
    q.divs = d :: ds → let sets := q.replicas d.rgroup; let act := (q.pset (nth 0 sets 0)).act
    let settled := fun (u t : State) => d ∉ (t.part p).divs ∧ (∀ e, e ≠ d → e ∈ ds → e ∈ (t.part p).divs)
      ∧ (∀ n j, j ∈ (t.mem n).journals ↔ j ∈ (u.mem n).journals
          ∧ ¬(j.part = p ∧ j.pset ∈ sets ∧ j.block = d.block ∧ j.step = d.step))
      ∧ (∀ n, (t.mem n).stack = (u.mem n).stack)
    let stops := fun (k : Nat) (t : State) => let d1 := { d with tried := d.tried ||| 2 ^ k }
      (t.part p).div = (if bitOf q.div.w0 0 then q.div else d1.words) ∧ d1 ∉ (t.part p).divs
      ∧ (q.state.live = true → q.endCode ≤ 1 → (t.part p).state = .binding ∧ (t.part p).endCode = 11)
    let ids := d.codes.map Prod.fst
    -- VOTE follows the failed step `i`, from state `u` and sector number `k` on
    let votes := fun (u : State) (k i : Nat) (errs : List SymErr) => let d1 := { d with tried := d.tried ||| 2 ^ i }
      (u.setPart p { u.part p with divs := (u.part p).divs.map fun e => if e == d then d1 else e }).divVote k p d1 errs
    (∀ errs, act.testBit 0 = true → d.tried.testBit 0 = false →
      let r := s.reading.codes p d.block errs ids; let codes := r.2.map Prod.snd
      let free := ∀ n ∈ ids, s.engineFree (q.updater (q.pset n) (16384 * d.block)) p = true
      let reads := ids.flatMap fun n =>
        ((q.pset n).planeRanges (16384 * d.block) ((q.pset n).blockParams d.block) 1).map fun w => ((q.pset n).region, w)
      (s.divStaged p d = false → exec (.divRereadDone p errs) s = .next (s.divWant p d))
      ∧ (s.divStaged p d = true → ¬free → exec (.divRereadDone p errs) s = .next s)
      ∧ (s.divStaged p d = true → free → r.1.2.2 = none →
        exec (.divRereadDone p errs) s = .next (r.1.1.divUe p (nth 0 ids 0) d.block reads))
      ∧ (s.divStaged p d = true → free → r.1.2.2 ≠ none → (∀ x ∈ codes, ∀ y ∈ codes, x = y) →
        Yields (exec (.divRereadDone p errs) s) fun t => settled r.1.1 t ∧ t.tally = { s.tally with
          digestReread := min 0xFFFFFFFF (s.tally.digestReread + 1), slotEvictions := t.tally.slotEvictions })
      ∧ (s.divStaged p d = true → free → r.1.2.2 ≠ none → (∃ x ∈ codes, ∃ y ∈ codes, x ≠ y) →
        act.testBit 1 = false ∨ d.tried.testBit 1 = true →
        (act.testBit 2 = false → Yields (exec (.divRereadDone p errs) s) (stops 0))
        ∧ (act.testBit 2 = true → d.tried.testBit 2 = false →
          exec (.divRereadDone p errs) s = .next (votes r.1.1 r.1.2.1 0 errs))))
    ∧ (∀ k errs, let d2 := { d with tried := d.tried ||| 4 }
      (d.codes.length < 3 → s.divVote k p d errs = s.divStop p d)
      ∧ (3 ≤ d.codes.length → (∀ c, 2 * (d.codes.filter fun e => e.2 == c).length ≤ d.codes.length) →
        s.divVote k p d errs = s.divStop p d2)
      ∧ ∀ c, 3 ≤ d.codes.length → d.codes.length < 2 * (d.codes.filter fun e => e.2 == c).length →
        ∃ src, (src, c) ∈ d.codes ∧ let dst := (d.codes.filter fun e => e.2 != c).map Prod.fst
          let l := q.blockRanges src d.block ++ dst.flatMap fun n => q.blockEdges n d.block
          let r := (s.reading k).pass p errs l
          (r.2.2 = none → s.divVote k p d errs = r.1.divUe p src d.block l)
          ∧ (r.2.2 ≠ none → let t := s.divVote k p d errs; settled (r.1.copyBlocks p src d.block dst) t
            ∧ t.tally = { s.tally with
                digestVote := min 0xFFFFFFFF (s.tally.digestVote + 1), slotEvictions := t.tally.slotEvictions }))
    ∧ (∀ src dst b, let ps := q.pset dst; let e := q.region ps.region; let l := ps.ranges (16384 * b) (ps.blockParams b)
      e.stations.length ≠ 0 → e.kind ≠ 2 → l.Pairwise (fun x y => rangesMeet x y = false) →
      let bs := (s.blockPlanes p src b).map Prod.snd
      bs.map List.length = l.map Prod.snd → ((s.copyBlock p src dst b).blockPlanes p dst b).map Prod.snd = bs)
    ∧ (act.testBit 1 = true → d.tried.testBit 1 = false → act.testBit 0 = false ∨ d.tried.testBit 0 = true →
      let js := s.divJournals p d
      (∀ n errs, s.idleArrays.head? = some n →
        (s.divStaged p d = false → ∀ ok, exec (.divRecomputeDone p ok errs) s = .next (s.divWant p d))
        ∧ (s.divStaged p d = true → js.length = d.codes.length → journalsAgree js = true →
          let u := s.borrowed p n; let l := q.recomputeReads js; let r := u.reading.pass p errs l
          (r.2.2 = none ∨ u.journalsBad js = true →
            exec (.divRecomputeDone p true errs) s = .next (r.1.divUe p (nth 0 ids 0) d.block l))
          ∧ (r.2.2 ≠ none → u.journalsBad js = false → Yields (exec (.divRecomputeDone p true errs) s) fun t =>
            settled (r.1.recompute p js) t ∧ (q.conf = true → ∀ k, keyArr k = n → t.core k = (s.core k).zeroised)
            ∧ t.tally = { s.tally with digestRecompute := min 0xFFFFFFFF (s.tally.digestRecompute + 1),
                                       slotEvictions := t.tally.slotEvictions }))
        ∧ (s.divStaged p d = true → act.testBit 2 = false → Yields (exec (.divRecomputeDone p false errs) s) (stops 1)))
      ∧ (s.idleArrays.head? = none → ∀ ok errs, exec (.divRecomputeDone p ok errs) s = .next s)
      ∧ (∀ errs, act.testBit 2 = false → Yields (exec (.divRecomputeTimeout p errs) s) (stops 1))
      ∧ (∀ errs, act.testBit 2 = true → d.tried.testBit 2 = false → s.divStaged p d = true →
        exec (.divRecomputeTimeout p errs) s = .next (votes s 0 1 errs)))

/-- FLASH_STAGE_COMPLETE, WRITEBACK_COMPLETE, SLOW_STARVED (R161, R165, R180, R184, R185, R327). The model's choices: a block's flash
station is the block modulo 8 (log entry 29), a volume that loses a block to an uncorrectable sector is inconsistent (log entry 68), and a
command given while its station switches has no effect (log entry 86). -/
def Obligations.SlowTierBlocksMoveWhole : Prop :=
  ∀ (s : State) (st k : Nat) (d : DirEnt), st < 40 → let m := s.mem st; SMap.look DirEnt.reset m.dir k = d → d.valid = true →
    let a := 0xE40000000 + 65536 * k; let f := d.block % 8; let fs := s.flash f; let q := s.part d.part
    (s.switching 2 f = true → (∀ pages, exec (.flashStageComplete st k pages) s = .next s)
      ∧ ∀ errs, exec (.writebackComplete st k errs) s = .next s)
    ∧ (s.switching 2 f = false →
    (∀ n v pages, d.staging = true → s.volumeOf d.part d.region = some (n, v) → let ps := pages.take 4
      (d.block ∉ v.lost → FlashRead.lost ∉ ps →
        let u := s.flashPages f d.part d.block ps
        exec (.flashStageComplete st k pages) s = .next (u.setMem st { m.endJob (.stage k) with
          stack := SMap.putAll 0 m.stack a (SMap.span 0 v.data (65536 * d.block) 65536),
          poison := m.poison.filter fun x => decide (x < a) || decide (a + 65536 ≤ x),
          dir := SMap.put DirEnt.reset m.dir k { d with staging := false, ref := true } }).pump.pumpDivs
        ∧ (fs.retries ≤ 0xFFFFFFFF → (u.flash f).retries = min 0xFFFFFFFF (fs.retries + ps.count .retried))
        ∧ (fs.rebuilds ≤ 0xFFFFFFFF → (u.flash f).rebuilds = min 0xFFFFFFFF (fs.rebuilds + ps.count .rebuilt))
        ∧ (FlashRead.rebuilt ∉ ps → u.gel = s.gel) ∧ u = { s with fs := u.fs, gel := u.gel })
      ∧ (d.block ∉ v.lost → FlashRead.lost ∈ ps → Yields (exec (.flashStageComplete st k pages) s) fun t =>
          (t.flash f).ue = min 0xFFFFFFFF (fs.ue + 1) ∧ (SMap.look DirEnt.reset (t.mem st).dir k).valid = false
          ∧ (∃ w, t.volume n = some w ∧ d.block ∈ w.lost)
          ∧ (q.state.live = true → q.endCode ≤ 1 → (t.part d.part).endCode = 7))
      ∧ (d.block ∈ v.lost → Yields (exec (.flashStageComplete st k pages) s) fun t =>
          (t.flash f).ue = fs.ue ∧ (SMap.look DirEnt.reset (t.mem st).dir k).valid = false
          ∧ (q.state.live = true → q.endCode ≤ 1 → (t.part d.part).endCode = 7)))
    ∧ (∀ n v errs, m.state ≠ 2 → d.evicting = true → q.state ≠ .binding → s.volumeOf d.part d.region = some (n, v) →
      let u := { s with tally := { s.tally with slotEvictions := min 0xFFFFFFFF (s.tally.slotEvictions + 1) } }
      let rd := u.readStack st a 65536 errs
      (∀ bs, rd.2 = some bs → exec (.writebackComplete st k errs) s = .next ((rd.1.setVolume n (some { v with
          data := SMap.putAll 0 v.data (65536 * d.block) bs, lost := v.lost.filter fun b => b != d.block })).updMem st
            fun m => (m.endJob (.evict k)).dropSlot k).pump.pumpDivs)
      ∧ (rd.2 = none → Yields (exec (.writebackComplete st k errs) s) fun t =>
          (∃ w, t.volume n = some w ∧ w.inconsistent = true)
          ∧ (q.state.live = true → q.endCode ≤ 1 → (t.part d.part).endCode = 7)))
    ∧ (∀ errs, m.state ≠ 2 → d.dirty = true → q.state = .binding → q.conf = false →
      let needed := s.pendNeed d.part d.region d.block ≠ 0 ∨ s.readersOf d.part d.region d.block ≠ 0
      (needed → exec (.writebackComplete st k errs) s = .next s)
      ∧ (¬needed → exec (.writebackComplete st k errs) s = .next (s.flushSlot st k d errs).pump)))
    ∧ (∀ rid b, m.find rid = some b → let r := b.req
      (r.kind = .gather ∧ (∃ x ∈ m.threads, x.2 = ⟨some (.serve rid), true⟩) ∨ r.kind = .update ∧ b.stage = .issued ∧ 0 < b.left) →
      exec (.slowStarved st rid) s = .next (streamFault s r.part 7 st r.region r.offset r.sa r.x r.y))
    ∧ (∀ rid p g, m.find rid = none → m.partWaits rid = some (p, g) → let ps := (s.part p).pset g.pset
      exec (.slowStarved st rid) s = .next (streamFault s p 7 st ps.region (ps.dataAt 1 g.first)
        (keyArr g.sender) (keyX g.sender) (keyY g.sender)))

/-- SKEIN_START, SKEIN_WIN_WRITE, SKEIN_END, SKEIN_ABORT, SKEIN_DEADLINE_EXPIRY, SKEIN_VERIFY_DONE (R201-R206). That
SKEIN_DEADLINE_EXPIRY moves TICK to the deadline is the model's choice (log entry 61). -/
def Obligations.SkeinLoadsTouchOnlyShadows : Prop :=
  ∀ (s : State) (h p : Nat), h < 32 → s.acts h = true → let l := (s.port h).loader
    let rejected := fun (u : State) => { u with tally := { u.tally with skeinRejects := min 0xFFFFFFFF (u.tally.skeinRejects + 1) } }
    let late := l.startedAt + 25 * max 10000 l.deadline
    let copies := fun (q : Part) => { q with regionsShadow := q.regions, psetsShadow := q.psets, graphShadow := q.graph, routesShadow := [] }
    (p < 64 → let q := s.part p
      (l.state ≠ 0 → exec (.skeinStart h p) s = .next (s.setLoader h { l with ctlPart := p, overrun := true }))
      ∧ (l.state = 0 → s.owns h p = false → s.loaderOf p = none → exec (.skeinStart h p) s =
          .next (rejected (s.setLoader h { l with ctlPart := p, part := p, reason := 9, frame := 0xFFFFFFFF })))
      ∧ (l.state = 0 → (∃ o, s.loaderOf p = some o)
            ∨ (s.owns h p = true ∧ q.state ≠ .created ∧ q.state ≠ .placed ∧ q.state ≠ .running) →
          exec (.skeinStart h p) s =
            .next (rejected (s.setLoader h { l with ctlPart := p, part := p, reason := 3, frame := 0xFFFFFFFF })))
      ∧ (l.state = 0 → s.owns h p = true → s.loaderOf p = none → q.state = .created ∨ q.state = .placed ∨ q.state = .running →
          Yields (exec (.skeinStart h p) s) fun t =>
            (t.port h).loader = { l with
              state := 1, ctlPart := p, part := p, bytes := [], framesDone := 0, framePos := 320,
              routeBytes := 0, graphBytes := 0, scratched := [], stage := .idle, startedAt := s.mgs.tick }
            ∧ t.part p = { copies q with commitPending := q.state == .running }
            ∧ (∀ k, t.core k = if keyArr k ∈ q.sas then { s.core k with cfgShadow := (s.core k).cfg, progShadow := (s.core k).prog }
                else s.core k)
            ∧ t = { s with parts := t.parts, cores := t.cores, ports := t.ports }))
    ∧ (∀ data : List Byte, let bs := l.bytes ++ data
      (data.length % 8 ≠ 0 → exec (.skeinWinWrite h data) s = .next (s.setPort h
          { s.port h with misaligned := min 0xFFFF ((s.port h).misaligned + 1) }))
      ∧ (data.length % 8 = 0 → l.state ≠ 1 → exec (.skeinWinWrite h data) s = .next s)
      ∧ (data.length % 8 = 0 → l.state = 1 → late < s.mgs.tick →
          exec (.skeinWinWrite h data) s = .next (s.endLoad h 2 0xFFFFFFFF))
      ∧ (data.length % 8 = 0 → l.state = 1 → s.mgs.tick ≤ late → bs.length < 320 →
          exec (.skeinWinWrite h data) s = .next (s.setLoader h { l with bytes := bs }))
      ∧ (∀ r, data.length % 8 = 0 → l.state = 1 → s.mgs.tick ≤ late → l.bytes.length < 320 → 320 ≤ bs.length →
          lowest (headerBreaches (s.part l.part) s.mgs.stepping bs) = some r →
          exec (.skeinWinWrite h data) s = .next ((s.setLoader h { l with bytes := bs }).endLoad h r 0xFFFFFFFF))
      ∧ Yields (exec (.skeinWinWrite h data) s) fun t =>
          (∀ k, (t.core k).prog = (s.core k).prog ∧ (t.core k).cfg = (s.core k).cfg)
          ∧ (∀ n, t.part n = { s.part n with
              commitPending := (t.part n).commitPending, plan := (t.part n).plan,
              regionsShadow := (t.part n).regionsShadow, psetsShadow := (t.part n).psetsShadow,
              graphShadow := (t.part n).graphShadow, routesShadow := (t.part n).routesShadow })
          ∧ t = { s with parts := t.parts, cores := t.cores, ports := t.ports, tally := t.tally, mgs := t.mgs })
    ∧ (l.state = 1 → exec (.skeinEnd h) s = .next (s.endLoad h 1 0xFFFFFFFF)
        ∧ exec (.skeinDeadlineExpiry h) s = .next ((s.passTo late).endLoad h 2 0xFFFFFFFF))
    ∧ (l.state ≠ 0 → exec (.skeinAbort h) s = .next (s.endLoad h 0x1A 0xFFFFFFFF))
    ∧ (l.state = 2 →
      (s.verify h = none → exec (.skeinVerifyDone h) s =
        .next (s.setLoader h { l with state := 3, reason := 0, frame := 0xFFFFFFFF }))
      ∧ ∀ r f, s.verify h = some (r, f) → exec (.skeinVerifyDone h) s = .next (s.endLoad h r f))
    ∧ ∀ r f, let t := s.endLoad h r f
      (t.port h).loader = { l with state := 0, reason := r, frame := f, bytes := [], scratched := [], stage := .idle }
      ∧ t.part l.part = { copies (s.part l.part) with commitPending := false, plan := none }
      ∧ h ∉ t.mgs.commitQueue ∧ t.tally.skeinRejects = min 0xFFFFFFFF (s.tally.skeinRejects + 1)
      ∧ (∀ k, keyArr k ∉ (s.part l.part).sas → k ∉ l.scratched → t.core k = s.core k)
      ∧ (∀ k ∈ l.scratched, (t.core k).scratch = [])

/-- COMMIT, COMMIT_HALT_DONE, COMMIT_ALLOCATE, DRAIN_COMPLETE, DRAIN_TIMEOUT (R201, R208-R211, R266). That DRAIN_TIMEOUT moves TICK to
the time it stands for is the model's choice (log entry 61). -/
def Obligations.CommitsSwapWholeAndKeepTheCoresData : Prop :=
  ∀ (s : State) (h : Nat), h < 32 → let l := (s.port h).loader; let p := l.part; let q := s.part p
    let refused := fun (s : State) (r : Nat) (t : State) =>
      (t.port h).loader = { l with state := 3, reason := r, frame := 0xFFFFFFFF, commitReason := r, stage := .idle }
      ∧ t.part p = { s.part p with plan := none } ∧ h ∉ t.mgs.commitQueue
      ∧ t.tally = { s.tally with skeinRejects := min 0xFFFFFFFF (s.tally.skeinRejects + 1) }
      ∧ t = { s with ports := t.ports, parts := t.parts, tally := t.tally, mgs := { s.mgs with commitQueue := t.mgs.commitQueue } }
    let drained := l.drainAt + 25 * if l.drainUs = 0 then s.tune.drainTimeoutDef else l.drainUs
    let tokenless := s.tokensOf p (fun _ => true) = 0
    (∀ flush us, s.acts h = true → let l1 := { l with flush := flush, drainUs := us }
      (l.state ≠ 3 → exec (.commit h flush us) s = .next (s.setLoader h { l1 with noStaged := true }))
      ∧ (l.state = 3 → exec (.commit h flush us) s = .next { s.setLoader h { l1 with
            state := 4, stage := if q.state = .running then .halting else .queued } with
          mgs := { s.mgs with commitQueue := (s.mgs.commitQueue.filter fun k => k != h) ++ [h] } }))
    ∧ (let u := s.runOuts q.sas; let lu := (u.port h).loader
      exec (.commitHaltDone h) s =
        .next (if lu.state = 4 ∧ lu.stage = .halting ∧ ∀ n ∈ (u.part lu.part).sas, u.atRest n = true
          then u.setLoader h { lu with stage := .queued } else u))
    ∧ (l.state = 4 → l.stage = .queued →
        (s.mgs.commitQueue.find? fun k => (s.port k).loader.stage == .queued) = some h →
        (∀ r, s.allocate h = .error r → Yields (exec (.commitAllocate h) s) (refused s r))
        ∧ (∀ pl, s.allocate h = .ok pl → l.flush = false → ¬tokenless →
            Yields (exec (.commitAllocate h) s) fun t => (t.port h).loader = { l with stage := .draining, drainAt := s.mgs.tick }
              ∧ t.part p = { q with plan := some pl } ∧ h ∉ t.mgs.commitQueue ∧ t.cores = s.cores ∧ t.routers = s.routers))
    ∧ (l.stage = .draining →
      (¬(tokenless ∧ s.mgs.tick ≤ drained) → Yields (exec (.drainTimeout h) s) (refused (s.passTo drained) 0x19))
      ∧ (drained < s.mgs.tick → Yields (exec (.drainComplete h) s) (refused s 0x19))
      ∧ (tokenless → s.mgs.tick ≤ drained → exec (.drainTimeout h) s = exec (.drainComplete h) s)
      ∧ (¬tokenless → s.mgs.tick ≤ drained → exec (.drainComplete h) s = .next s))
    ∧ (∀ pl, l.stage = .draining → s.mgs.tick ≤ drained → l.flush = false → tokenless → q.plan = some pl →
        Yields (exec (.drainComplete h) s) fun t =>
          let q2 := t.part p
          q2.epoch = (q.epoch + 1) % 16 ∧ q2.commits = q.commits + 1 ∧ q2.commitPending = false ∧ q2.plan = none
          ∧ q2.chain = sha384 (q.chain ++ (l.bytes.drop 0x80).take 48)
          ∧ q2.state = (if q.state = .created then .ready else if q.state = .placed then .resumable else q.state)
          ∧ q2.regions = q.regionsShadow ∧ q2.psets = q.psetsShadow ∧ q2.graph = q.graphShadow
          ∧ (∀ k, keyArr k ∈ q.sas → (t.core k).prog = (s.core k).progShadow ∧ (t.core k).progShadow = (s.core k).prog
              ∧ (q.state = .running → (t.core k).slot = 0 ∧ (t.core k).loops = []
                  ∧ (t.core k).halted = (s.core k).progShadow.isEmpty))
          ∧ (∀ k, (t.core k).scratch = (s.core k).scratch ∧ (t.core k).flags = (s.core k).flags
              ∧ (t.core k).counters = (s.core k).counters ∧ (t.core k).stickies = (s.core k).stickies
              ∧ (t.core k).fpStatus = (s.core k).fpStatus ∧ (t.core k).stepNum = (s.core k).stepNum
              ∧ (t.core k).acc = (s.core k).acc ∧ (t.core k).pend = (s.core k).pend
              ∧ (t.core k).resident = (s.core k).resident ∧ (t.core k).tiles = (s.core k).tiles)
          ∧ (t.port h).loader.state = 0 ∧ (t.port h).loader.committed = true ∧ (t.port h).loader.reason = 0
          ∧ t.tally = { s.tally with commits := min 0xFFFFFFFF (s.tally.commits + 1) }
          ∧ (∀ o, o ≠ p → t.part o = s.part o) ∧ t.arrays = s.arrays ∧ (∀ n, (t.mem n).stack = (s.mem n).stack))

/-- PART_CREATE (R217-R220, R261, R262, R270). The order in which the codes are tested is the model's choice but for NO_ARRAYS before the
later ones (log entry 83). -/
def Obligations.CreationGivesFreeArraysToTheLowestIdentifier : Prop :=
  (∀ (s : State) (h n cls : Nat) (conf : Bool), h < 32 → s.acts h = true → n < 2048 → cls < 4 →
    let q := { s.port h with pcSa := n, pcClass := cls, pcConf := conf }; let key := (s.port h).session
    let gives := fun r => exec (.partCreate h n cls conf) s = .next (s.setPort h { q with pcResult := r })
    (n = 0 ∨ 1200 < n → gives 1)
    ∧ (1 ≤ n → n ≤ 1200 → (∀ p, p < 64 → (s.part p).state ≠ .none) → gives 2)
    ∧ ∀ p, 1 ≤ n → n ≤ 1200 → p < 64 → (s.part p).state = .none → (∀ o, o < p → (s.part o).state ≠ .none) →
      (s.freeArrays.length < n → gives 3)
      ∧ ∀ sas, s.placement n cls = .ok sas →
        (s.portClassBad h cls = true → gives 5)
        ∧ (s.portClassBad h cls = false → conf = true →
          (s.mgs.entropy = [] → gives 6) ∧ (s.mgs.entropy ≠ [] → key = none → gives 7)
          ∧ (s.mgs.entropy ≠ [] → key ≠ none → s.mgs.banks = [] → gives 8))
        ∧ (s.portClassBad h cls = false → (conf = true → s.mgs.entropy ≠ [] ∧ key ≠ none ∧ s.mgs.banks ≠ []) →
          Yields (exec (.partCreate h n cls conf) s) fun t =>
            t.port h = { q with pcResult := 0, pcPart := p }
            ∧ t.part p = { Part.reset with
                state := .created, owner := h, cls := cls, conf := conf, sas := sas, saCount := n, chain := List.replicate 48 0,
                hostKey := if conf then (key.map fun k => k.2.1).getD [] else List.replicate 48 0,
                hostPub := if conf then (key.map fun k => k.2.2).getD [] else [],
                prk := if conf then (Config.random s.draws).take 32 else [], serial := (s.mgs.creations + 1) % 2 ^ 64 }
            ∧ (∀ o, o ≠ p → t.part o = s.part o)
            ∧ (∀ a, t.arr a = if a ∈ sas then { s.arr a with part := some p, dirtyConf := conf || (s.arr a).dirtyConf } else s.arr a)
            ∧ (∀ b, t.bed b = if b ∈ s.bedsOf sas ∧ (s.bed b).state = .sleep then { s.bed b with state := .waking } else s.bed b)
            ∧ t = { s with ports := t.ports, parts := t.parts, arrays := t.arrays, beds := t.beds,
                           draws := s.draws + if conf then 1 else 0,
                           mgs := { s.mgs with creations := (s.mgs.creations + 1) % 2 ^ 64,
                                               drbg := if conf then 1 else s.mgs.drbg } }))
  ∧ ∀ (s : State) (n cls : Nat) (sas : List Nat), (∀ a, a < 1200 → s.siteOf a < 1296) → s.placement n cls = .ok sas →
      sas.Nodup ∧ sas.length ≤ n ∧ (cls ≠ 0 → sas.length = n)
      ∧ ∀ a ∈ sas, a < 1200 ∧ s.saInService a = true ∧ (s.arr a).part = none ∧ (s.bed (s.bedOfArr a)).state.usable = true
          ∧ s.bedOfArr a ∉ s.class0Beds

/-- PART_START, CAST_LOCK_DONE, PART_STOP, BIND_OFF_DONE, PART_RELEASE, PART_COMPLETE, WARN_CLR, DL_CTL_WRITE, STATUS_GATHER (R46,
R111, R212-R215, R222-R225, R234). -/
def Obligations.CommandsMoveAPartitionByTheStateTable : Prop :=
  ∀ (s : State) (h p : Nat), h < 32 → p < 64 → s.acts h = true → let q := s.part p
    let table := [(Instr.partStart h p, PState.ready), (.partSuspend h p, .running), (.partPlace h p, .suspended),
      (.partResume h p, .resumable), (.partRelease h p, .ended)]
    (s.owns h p = false → ∀ c ∈ table.map (fun e => e.1) ++ [.partStop h p true, .partStop h p false, .warnClr h p, .dlCtlWrite h p 0],
      exec c s = .next (s.setPort h { s.port h with notOwned := min 0xFFFF ((s.port h).notOwned + 1) }))
    ∧ (s.owns h p = true →
      (∀ e ∈ table, (q.placing = true ∨ q.resuming = true → exec e.1 s = .next (s.setPart p { q with result := 4 }))
        ∧ (q.placing = false → q.resuming = false → q.state ≠ e.2 → exec e.1 s = .next (s.setPart p { q with result := 1 })))
      ∧ (q.placing = false → q.resuming = false → q.state = .ready → castOk q.set.castOrder.toNat = true →
          let steps := castSteps q.set.castOrder.toNat; let first := steps.takeWhile fun k => k != 0
          Yields (exec (.partStart h p) s) fun t =>
            t.part p = { q with
              state := .casting, result := 0, sticky := false, fpx := 0, memWarn := false, suspDev := false,
              class0Late := false, slowdown := 0, progress := 0, elapsedTicks := 0, quiesceTicks := 0, fcHeld := 0, fault := Rec4.zero, trap := Rec4.zero,
              div := Rec4.zero, dlStatus := 0, outputs := decide (1 ∈ first), writes := decide (3 ∈ first),
              castLeft := steps.dropWhile fun k => k != 0 }
            ∧ (∀ b, t.bed b = if b ∈ s.bedsOf q.sas ∧ (s.bed b).state = .sleep then { s.bed b with state := .waking } else s.bed b)
            ∧ t = { s with parts := t.parts, beds := t.beds })
      ∧ (∀ scan, q.state = .casting → exec (.partStop h p scan) s = .next (s.setPart p (if q.stopWaits then { q with result := 4 }
          else { q with stopWaits := true, scanWanted := scan, result := 0 })))
      ∧ (∀ scan, q.state.live = true → q.state ≠ .casting → scan = false ∨ s.canScan p = false
            ∨ (∀ x ∈ s.sectorSpots p q.set.scanRegion (s.imageSize p / 32 * 32) 32, x.2 ∉ (s.mem x.1).poison) → Yields (exec (.partStop h p scan) s) fun t =>
          (t.part p).state = .binding ∧ (t.part p).endCode = (if q.endCode = 0 then 2 else q.endCode)
          ∧ ∀ a ∈ q.sas, (t.arr a).freeze = some ((s.arr a).freeze.getD .bindOff))
      ∧ (∀ scan, q.state = .binding ∨ q.state = .ended → exec (.partStop h p scan) s = .next (s.setPart p { q with result := 1 }))
      ∧ (q.placing = false → q.resuming = false → q.state = .ended → exec (.partRelease h p) s = .next (s.setPart p Part.reset))
      ∧ exec (.warnClr h p) s = .next (s.setPart p { q with memWarn := false, class0Late := false, result := 0 })
      ∧ ∀ v, exec (.dlCtlWrite h p v) s = .next (s.setPart p { q with dlCtl := v &&& 0x3FFFFFFFF#64, dlFrom := s.mgs.tick }))
    ∧ (∀ l, q.state = .casting → q.castLeft = 0 :: l → 2 ∈ l → l.Nodup → (∀ k ∈ l, 0 < k ∧ k < 4) →
        q.stopWaits = false → s.bedsAwake p = true → q.owner < 32 →
        Yields (exec (.castLockDone p) s) fun t =>
          (t.part p).state = .running ∧ (t.part p).outputs = (q.outputs || decide (1 ∈ l))
          ∧ (t.part p).writes = (q.writes || decide (3 ∈ l)) ∧ (t.part p).castLeft = []
          ∧ (t.port q.owner).started = min 0xFFFFFFFF ((s.port q.owner).started + 1)
          ∧ (∀ a, t.arr a = if a ∈ q.sas then { s.arr a with
                released := true, fireCycle := 0, freeze := none, notes := [],
                mappedOut := (s.arr a).mappedOut ++ (s.arr a).mapNext, mapNext := [] } else s.arr a)
          ∧ (∀ k, keyArr k ∈ q.sas → let c := t.core k; let b := s.core k
              c.slot = 0 ∧ c.loops = [] ∧ c.halted = b.prog.isEmpty ∧ c.flags = 0 ∧ c.counters = [] ∧ c.stickies = 0
              ∧ c.fpStatus = 0 ∧ c.tiles = [] ∧ c.pend = [] ∧ c.stepNum = q.set.startStep ∧ c.prog = b.prog ∧ c.cfg = b.cfg
              ∧ c.scratch = b.scratch))
    ∧ (q.state = .binding → s.settling p = false → (∀ a ∈ q.sas, s.siteOf a ∉ s.mgs.deadSites) →
        Yields (exec (.bindOffDone p) s) fun t =>
          (t.part p).state = .ended ∧ (t.part p).sas = [] ∧ (t.part p).fault = q.fault ∧ (t.part p).trap = q.trap
          ∧ (t.part p).endCode = q.endCode
          ∧ (∀ a ∈ q.sas, (t.arr a).part = none ∧ (t.arr a).released = false ∧ (t.arr a).freeze = none)
          ∧ (∀ k, keyArr k ∈ q.sas → t.core k = Core.reset)
          ∧ (∀ k, keyArr k ∉ q.sas → t.core k = s.core k)
          ∧ (∀ n, ∀ e ∈ (t.router n).entries, entValid e.2 = true → entPart e.2 ≠ p)
          ∧ (∀ n, (∀ g ∈ (t.mem n).ranges, g.part ≠ p) ∧ (∀ k ∈ (t.mem n).keys, k.part ≠ p) ∧ ∀ k ∈ (t.flash n).keys, k.part ≠ p)
          ∧ ∀ o, o ≠ p → t.part o = s.part o)
    ∧ (let u := s.runOuts q.sas; let v := u.part p
      (u.finished p = true → v.owner < 32 → Yields (exec (.partComplete p) s) fun t =>
        (t.part p).state = .complete ∧ (t.part p).endCode = 1
        ∧ (t.port v.owner).completed = min 0xFFFFFFFF ((u.port v.owner).completed + 1)
        ∧ t = { u with parts := t.parts, ports := t.ports })
      ∧ (v.state = .running → Yields (exec (.statusGather p) s) fun t =>
        ((t.part p).sticky = true ↔ ∃ kc ∈ u.cores, keyArr kc.1 ∈ v.sas ∧ kc.2.stickies ≠ 0)
        ∧ (∀ i, (t.part p).fpx.getLsbD i = true ↔ ∃ kc ∈ u.cores, keyArr kc.1 ∈ v.sas ∧ kc.2.fpStatus.getLsbD i = true)
        ∧ t.part p = { v with
            sticky := (t.part p).sticky, fpx := (t.part p).fpx, slowdown := (t.part p).slowdown,
            progress := (t.part p).progress, fcHeld := u.fcMin v }
        ∧ t = { u with parts := t.parts }))

/-- PART_SUSPEND, QUIESCE_DONE, QUIESCE_TIMEOUT, SCAN_OUT_DONE, PART_PLACE, PLACE_DONE, PART_RESUME, RESUME_DONE (R63-R66, R94, R140,
R143, R163-R165, R223, R230, R231, R233, R325). The model's choices: QUIESCE_TIMEOUT moves TICK (log entry 61), JOB_TIME takes in the freeze
(log entry 54), and where the bytes of an image lie that the spec does not lay out, `scanByte` (log entry 20). -/
def Obligations.SuspensionKeepsWhatTheCoresHold : Prop :=
  ∀ (s : State) (h p : Nat), h < 32 → p < 64 → let q := s.part p
    let idle := q.placing = false ∧ q.resuming = false
    (s.acts h = true → s.owns h p = true → idle → q.state = .running →
      (s.canScan p = false → exec (.partSuspend h p) s = .next (s.setPart p { q with result := 7 }))
      ∧ (s.canScan p = true → s.loaderOf p = none → Yields (exec (.partSuspend h p) s) fun t =>
          t.part p = { q with state := .quiescing, byDevice := false, suspDev := false, image := none, result := 0, quiesceTicks := 0 }
          ∧ (∀ a, t.arr a = if a ∈ q.sas then { s.arr a with freeze := some ((s.arr a).freeze.getD .scan) } else s.arr a)
          ∧ t = { s with parts := t.parts, arrays := t.arrays }))
    ∧ (q.state = .quiescing → q.image = none → s.stationSwitches = true → exec (.quiesceDone p) s = .next s)
    ∧ (q.state = .quiescing → q.image = none → s.quiet p = true → s.stationSwitches = false → Yields (exec (.quiesceDone p) s) fun t =>
        ∃ i, t = s.setPart p { q with image := some i } ∧ i.sas = q.sas ∧ i.arrays = q.sas.map s.arr ∧ i.redAt = q.redAt
          ∧ ∀ kc, kc ∈ i.cores ↔ kc ∈ s.cores ∧ keyArr kc.1 ∈ q.sas)
    ∧ (q.state = .quiescing → q.image = none → q.byDevice = false →
        let u := s.passTicks (25000 * s.tune.quiesceLimit - q.quiesceTicks); let v := u.part p
        ∃ t : State, (∀ errs, exec (.quiesceTimeout p errs) s = .next (t.sendAllWaits errs (t.coresOf q.sas)))
          ∧ t.part p = { v with state := .running, result := 5, elapsedTicks := v.elapsedTicks + v.quiesceTicks, dlFrom := u.mgs.tick }
          ∧ (∀ a, t.arr a = if a ∈ q.sas then { s.arr a with freeze := none } else s.arr a)
          ∧ t = { u with parts := t.parts, arrays := t.arrays })
    ∧ (∀ errs tail, q.state = .quiescing → q.image ≠ none → let u := s.scanReads p errs
        ((u.part p).state ≠ .quiescing → exec (.scanOutDone p errs tail) s = .next u)
        ∧ ((u.part p).state = .quiescing → (u.part p).image ≠ none → exec (.scanOutDone p errs tail) s = exec (.scanOutDone p [] tail) u))
    ∧ (∀ i tail, q.state = .quiescing → q.image = some i → (∀ a ∈ q.sas, s.siteOf a ∉ s.mgs.deadSites) →
        let e := q.set.scanRegion; let z := s.imageSize p; let rd := s.reading.ranges p e tail (edgeRanges (0, z))
        (rd.2.2 = none → let w := (rd.1.badSector p [(e, z / 32 * 32, 32)]).getD ((q.place e z).1, e, z / 32 * 32)
          exec (.scanOutDone p [] tail) s = .next (stationFault rd.1 p 2 w.1 w.2.1 w.2.2))
        ∧ (rd.2.2 ≠ none → Yields (exec (.scanOutDone p [] tail) s) fun t =>
          (t.part p).state = .suspended ∧ (t.part p).image = some i ∧ (t.part p).sas = [] ∧ (t.part p).regions = q.regions
          ∧ (t.part p).psets = q.psets ∧ (∀ a ∈ q.sas, (t.arr a).part = none ∧ (t.arr a).freeze = none)
          ∧ (∀ k, keyArr k ∈ q.sas → t.core k = Core.reset)
          ∧ let r := q.set.scanRegion; let n := s.imageSize p
            (∀ o, o < n → (q.place r o).1 ∈ (q.region r).stations → (∀ m, m < n → m ≠ o → q.place r m ≠ q.place r o) →
              SMap.look 0 (t.mem (q.place r o).1).stack (q.place r o).2 = s.scanByte p o)
            ∧ ∀ m a, (∀ o, o < n → q.place r o ≠ (m, a)) → SMap.look 0 (t.mem m).stack a = SMap.look 0 (rd.1.mem m).stack a))
    ∧ (s.acts h = true → s.owns h p = true → idle → q.state = .suspended →
        exec (.partPlace h p) s = .next (s.setPart p { q with placing := true, result := 0 }))
    ∧ (q.placing = true →
        (∀ r, s.placement q.saCount q.cls = .error r →
          exec (.placeDone p) s = .next (s.setPart p { q with placing := false, result := 2 }))
        ∧ ∀ sas, s.placement q.saCount q.cls = .ok sas → Yields (exec (.placeDone p) s) fun t =>
            t.part p = { q with placing := false, state := .placed, sas := sas }
            ∧ (∀ a, (t.arr a).part = if a ∈ sas then some p else (s.arr a).part)
            ∧ t = { s with parts := t.parts, arrays := t.arrays, beds := t.beds })
    ∧ (s.acts h = true → s.owns h p = true → idle → q.state = .resumable → Yields (exec (.partResume h p) s) fun t =>
        t.part p = { q with resuming := true, result := 0 } ∧ t = { s with parts := t.parts, beds := t.beds })
    ∧ (∀ i errs, q.image = some i → q.resuming = true → s.bedsAwake p = true → let e := q.set.scanRegion
        let rd := s.reading.range p e errs (0, i.length); let v := rd.1; let good := rd.2.2 ≠ none ∧ v.authentic p e 0 i.length = true
        let at0 := (v.badGranule p e 0 i.length).getD 0 * (q.region e).gran
        let w := (v.badSector p [(e, 0, i.length)]).getD ((q.place e 0).1, e, 0)
        (rd.2.2 = none → exec (.resumeDone p errs) s = .next (stationFault v p 2 w.1 w.2.1 w.2.2))
        ∧ (rd.2.2 ≠ none → v.authentic p e 0 i.length = false →
          exec (.resumeDone p errs) s = .next (stationFault v p 4 (q.place e at0).1 e at0))
        ∧ (good → v.codesMatch p i = false →
          exec (.resumeDone p errs) s = .next (v.setPart p { q with resuming := false, state := .placed, result := 6 }))
        ∧ (good → v.codesMatch p i = true → ((coreKeys i.sas).map (movedKey i q)).Nodup → Yields (exec (.resumeDone p errs) s) fun t =>
            t.part p = { q with
              resuming := false, state := .running, outputs := true, writes := true, image := none, dlFrom := s.mgs.tick }
            ∧ (∀ k ∈ coreKeys i.sas, let b := s.core (movedKey i q k)
                t.core (movedKey i q k) = { v.readCore p i k (SMap.look Core.reset i.cores k) with
                  prog := b.prog, progShadow := b.progShadow, cfg := b.cfg, cfgShadow := b.cfgShadow, seqs := (t.core (movedKey i q k)).seqs })
            ∧ ∀ j, (∀ k ∈ coreKeys i.sas, movedKey i q k ≠ j) → t.core j = s.core j))

/-- The operation that every fault goes through (R53, R209, R215, R227-R229, R324), DEADLOCK (R110-R113), CAST_LOCK_TIMEOUT (R214, R222).
The model's choices: what PARAM holds for a bed, a station and a router (log entry 43), and that DEADLOCK and CAST_LOCK_TIMEOUT move TICK to
the time they stand for (log entry 61). -/
def Obligations.FaultsStopOnlyTheirPartition : Prop :=
  (∀ (s : State) (p : Nat) (f : FaultInfo), let q := s.part p; let t := faultPart s p f
    q.state.live = true → s.loaderOf p = none →
    (bitOf q.fault.w0 63 = false → (t.part p).fault = f.words)
    ∧ (bitOf q.fault.w0 63 = true → let r := if q.faultAt.1 = s.mgs.tick ∧ f.rank < q.faultAt.2 then f.words else q.fault
        (t.part p).fault = { r with w0 := r.w0 ||| (1#64 <<< 62) })
    ∧ (t.part p).state = .binding
    ∧ (t.part p).endCode = (if q.endCode ≤ 1 ∨ (q.endAt.1 = s.mgs.tick ∧ f.rank < q.endAt.2) then f.kind else q.endCode)
    ∧ (∀ a, t.arr a = if a ∈ q.sas then { s.arr a with freeze := some ((s.arr a).freeze.getD .fault) } else s.arr a)
    ∧ t.net = (s.net.filter fun k => k.part != p)
    ∧ (∀ n, (t.mem n).active = (s.mem n).active.filter fun a => a.req.host.isSome || a.req.part != p)
    ∧ (∀ n, (t.mem n).stack = (s.mem n).stack) ∧ (∀ o, o ≠ p → t.part o = s.part o)
    ∧ (∀ k, keyArr k ∉ q.sas → t.core k = s.core k)
    ∧ t.gel = (s.event f.code f.source p (if f.kind = 13 then f.bed else if f.staRed = true ∨ f.kind = 7 then f.station
        else if f.router = true then f.site else f.sa + 2 ^ 16 * (24 * f.y + f.x))).gel)
  ∧ ∀ (s : State) (p : Nat), p < 64 → let q := s.part p
    let u := s.runOuts q.sas; let v := u.part p; let w := fld v.dlCtl 31 0
    let late := u.passTo (v.dlFrom + max 25000 (if w = 0 then u.tune.deadlockTicks else w))
    (u.deadlocked p = true → v.endCode ≤ 1 → bitOf v.dlCtl 33 = false
        ∨ (∀ x ∈ u.sectorSpots p v.set.scanRegion (u.imageSize p / 32 * 32) 32, x.2 ∉ (u.mem x.1).poison) → Yields (exec (.deadlock p) s) fun t =>
      (t.part p).endCode = 10 ∧ (t.part p).state = .binding
      ∧ (t.part p).dlStatus = late.dlWord p (bitOf v.dlCtl 33 && late.canScan p && late.quiet p))
    ∧ (u.deadlocked p = false → exec (.deadlock p) s = .next u)
    ∧ (q.state = .casting → q.castLeft.head? = some 0 → s.bedsAwake p = false → q.endCode ≤ 1 →
      Yields (exec (.castLockTimeout p) s) fun t => (t.part p).endCode = 12 ∧ (t.part p).state = .binding)

/-- PORT_RESET, LINK_UP, PORT_READY, CONFIG_REQUEST, WIN_MAP_WRITE, WINDOW_READ, WINDOW_WRITE, IDE_INTEGRITY_FAIL, REGISTER_WRITE
(R157, R239-R246, R253, R317, R327). The model's choices: what a port reset keeps beside JOB_COUNT, and that a refused WIN_MAP is stored with
VALID 0 (log entry 49); the flag bits of a BAR, PRESUMED of PCI Express (log entries 22, 70); and that a narrower link takes the first or the
last lanes (log entry 70). -/
def Obligations.PortsResetTrainMapAndReachMemory : Prop :=
  ∀ (s : State) (h : Nat), h < 32 → let q := s.port h; let l := q.loader
    let counts := fun (e : Except WinRefusal (Nat × Nat × Nat)) => match e with
      | .error .unmapped => s.setPort h { q with unmapped := min 0xFFFF (q.unmapped + 1) }
      | .error .notOwned => s.setPort h { q with notOwned := min 0xFFFF (q.notOwned + 1) }
      | .ok _ => s
    (∀ kind, Yields (exec (.portReset h kind) s) fun t =>
      t.port h = { Port.reset with
        lost := q.lost, badLanes := q.badLanes, started := q.started, completed := q.completed, doorbells := q.doorbells,
        image := q.image,
        openWrites := q.openWrites.filter fun r => !q.queueRids.contains r,
        loader := if l.state = 0 then l else { l with
          state := 0, reason := 0x1A, frame := 0xFFFFFFFF, bytes := [], scratched := [], stage := .idle } }
      ∧ (∀ o, o ≠ h → t.port o = s.port o)
      ∧ (l.state = 0 → t = { s with ports := t.ports, ms := t.ms })
      ∧ ∀ n, t.mem n = { s.mem n with waiting := (t.mem n).waiting, active := (t.mem n).active, taken := (t.mem n).taken })
    ∧ (∀ sp w fl, exec (.linkUp h sp w fl) s = .next
        (if s.mgs.phase = .released ∧ q.lost = false ∧ (sp < 5 ∨ sp = 5 ∧ fl = true) ∧ w ∈ [1, 2, 4, 8, 16]
          ∧ ((∀ l ∈ q.badLanes, w ≤ l) ∨ ∀ l ∈ q.badLanes, l < 16 - w)
        then s.setPort h { q with linkUp := true, speed := sp % 8, width := w % 32, flit := fl } else s))
    ∧ exec (.portReady h) s = .next (if q.linkUp = true ∧ q.lost = false ∧ q.ready = false
        then s.setPort h { q with ready := true, loader := { l with deadline := 1000 * s.tune.skeinDeadlineDef } } else s)
    ∧ (∀ r w cmds, exec (.configRequest h r w cmds) s = .next (if q.lost = true ∨ s.mgs.phase = .off then s
        else if s.mgs.phase ≠ .released then (if s.mgs.releasedAt = 0 then s.emit (.rrs h) else s)
        else if q.linkUp = false ∨ q.drops none = true then s
        else match w with
          | none => s.emit (.config h r (some (q.config r)))
          | some v => let u := s.setPort h (q.configure v r)
            (if q.d3hot = true ∧ (q.configure v r).d3hot = false then u.fetchAll h cmds else u).emit (.config h r none)))
    ∧ (q.config .ids >>> 16 = 0x1200#32 ∧ q.config .classCode >>> 24 = 0x12#32
      ∧ ∀ v, (q.configure v (.bar 0)).config (.bar 0) = (v &&& 0xFC000000#32) ||| 4#32
        ∧ (q.configure v (.bar 1)).config (.bar 1) = v ∧ (q.configure v (.bar 2)).config (.bar 2) = 0xC#32
        ∧ (q.configure v (.bar 3)).config (.bar 3) = v &&& 0xFFFFFFF0#32)
    ∧ (∀ k v, k < 64 → s.TablesOk → s.acts h = true → let w := v &&& 0x7FFFFFFFFF#64
        exec (.winMapWrite h k v) s = .next (s.setPort h
          (if winValid w = true ∧ s.mappable h (winPart w) (winRegion w) = false
            then { q with winMap := SMap.put 0 q.winMap k (w &&& ~~~1#64), notOwned := min 0xFFFF (q.notOwned + 1) }
            else { q with winMap := SMap.put 0 q.winMap k w })))
    ∧ (∀ a n ide, let w := SMap.look 0 q.winMap (a / 2 ^ 30); let p := winPart w; let r := winRegion w
        let o := 65536 * winOfs w + a % 2 ^ 30
        let good := winValid w = true ∧ s.mappable h p r = true ∧ o + n ≤ ((s.part p).region r).size
        (s.window h a n ide = .ok (p, r, o) ↔ good ∧ s.ideOk h p ide = true)
        ∧ (¬good → s.window h a n ide = .error .unmapped)
        ∧ (q.drops ide = true ∨ s.switching 4 h = true → ∀ errs bs, exec (.windowRead h a n ide errs) s = .next s ∧ exec (.windowWrite h a bs ide) s = .next s)
        ∧ (q.lost = false → q.drops ide = false → s.switching 4 h = false → q.ready = false →
            ∀ errs, exec (.windowRead h a n ide errs) s = .next (s.emit (.readData h (List.replicate n 0))))
        ∧ (s.actsOn h ide = true → ¬(good ∧ s.ideOk h p ide = true) →
            (∀ errs, exec (.windowRead h a n ide errs) s = .next ((counts (s.window h a n ide)).emit (.unsupported h)))
            ∧ ∀ bs : List Byte, bs.length = n → exec (.windowWrite h a bs ide) s = .next (counts (s.window h a n ide)))
        ∧ (s.actsOn h ide = true → good → s.ideOk h p ide = true →
          let st := ((s.part p).place r o).1; let spots := s.sectorSpots p r o n
          let whole := 0 < n ∧ o % ((s.part p).region r).gran + n ≤ ((s.part p).region r).gran
          let late := (s.part p).cls = 0
            ∧ ((s.freeSlots st p).1 < (n + 1023) / 1024 + (s.mem st).wanted p ∨ s.switching 3 st = true)
          let asks := fun (t : State) (kind : ReqKind) (bs : List Byte) =>
            (∃ x : Request, (t.mem st) = { s.mem st with
                waiting := (s.mem st).waiting ++ [x],
                class0Late := if late then min 0xFFFFFFFF ((s.mem st).class0Late + 1) else (s.mem st).class0Late }
              ∧ x.late = decide late ∧ x.rid = s.nextId ∧ x.kind = kind ∧ x.part = p ∧ x.cls = (s.part p).cls ∧ x.region = r ∧ x.offset = o
              ∧ x.len = n ∧ x.data = bs ∧ x.host = some h)
            ∧ (∀ j, j ≠ st → t.mem j = s.mem j)
            ∧ (∀ j, t.part j = if late ∧ j = p then { s.part p with class0Late := true } else s.part j)
            ∧ t = { s with ms := t.ms, ports := t.ports, parts := t.parts, nextId := s.nextId + 1 }
          (s.cutOff h p r o n = true → ∀ errs, exec (.windowRead h a n ide errs) s = .next (s.emit (.completerAbort h)))
          ∧ (s.cutOff h p r o n = false → s.hostWaits h p r o n = false →
            (∀ errs, let x := s.readNow p r o n errs
              exec (.windowRead h a n ide errs) s = .next (x.1.emit (match x.2 with
                | some bs => .readData h bs
                | none => .completerAbort h)))
            ∧ (let u := s.noteReads p r o n
              ((s.part p).cls ≠ 0 → u = s)
              ∧ ((∃ x ∈ spots, x.2 ∈ (s.mem x.1).poison) → exec (.windowRead h a n ide []) s = .next (u.emit (.completerAbort h)))
              ∧ ((∀ x ∈ spots, x.2 ∉ (s.mem x.1).poison ∧ x.2 < 0xFD99A0000) → (∀ i, i < n → s.locate p r (o + i) ≠ none) →
                s.authentic p r o n = true → exec (.windowRead h a n ide []) s = .next (u.emit (.readData h (s.readRegion p r o n))))))
          ∧ (s.cutOff h p r o n = false → s.hostWaits h p r o n = true → whole → ∀ errs,
            Yields (exec (.windowRead h a n ide errs) s) fun t => asks t .read []
              ∧ t.port h = { q with openReads := q.openReads ++ [⟨none, [(s.nextId, none)], false⟩] })
          ∧ ∀ bs : List Byte, bs.length = n →
            (s.cutOff h p r o n = true → exec (.windowWrite h a bs ide) s =
              .next (s.setPort h { q with unmapped := min 0xFFFF (q.unmapped + 1) }))
            ∧ (s.cutOff h p r o n = false → whole → Yields (exec (.windowWrite h a bs ide) s) fun t =>
                asks t .write bs ∧ t.port h = { q with openWrites := q.openWrites ++ [s.nextId] })))
    ∧ (∀ k, k < 9 → let e := SMap.look Ide.reset q.ide k
        exec (.ideIntegrityFail h k) s = .next (if e.state = 1
          then s.setPort h { q with ide := SMap.put Ide.reset q.ide k { e with state := 2 }, aer := q.aer + 1 } else s))
    ∧ (∀ o n v cmds, s.acts h = true → n ≠ 8 ∨ o % 8 ≠ 0 → exec (.registerWrite h o n v cmds) s =
        .next (s.setPort h { q with misaligned := min 0xFFFF (q.misaligned + 1) }))
    ∧ ∀ p k v cmds, s.acts h = true → p < 64 → k < 64 → let page := 0x100000 + 0x10000 * p
        exec (.registerWrite h (page + 8) 8 1 cmds) s = exec (.partStart h p) s
        ∧ exec (.registerWrite h (page + 8) 8 2 cmds) s = exec (.partStop h p false) s
        ∧ exec (.registerWrite h (page + 8) 8 0x12 cmds) s = exec (.partStop h p true) s
        ∧ exec (.registerWrite h (page + 8) 8 6 cmds) s = exec (.partRelease h p) s
        ∧ exec (.registerWrite h (page + 0x40) 8 v cmds) s = exec (.partDb h p v none) s
        ∧ exec (.registerWrite h (0x100 + 8 * k) 8 v cmds) s = exec (.winMapWrite h k v) s
        ∧ exec (.registerWrite h 0x1000000 8 v cmds) s = exec (.skeinWinWrite h (leBytes 8 v.toNat)) s

/-- PART_DB, DOORBELL_RELEASE, DOORBELL_LAND (R107, R246-R248). -/
def Obligations.DoorbellsWaitForEarlierWrites : Prop :=
  (∀ (s : State) (h p : Nat) (v : W64) (ide : Option Nat), h < 32 → p < 64 →
    (s.actsOn h ide = false → exec (.partDb h p v ide) s = .next s) ∧ (s.actsOn h ide = true → s.owns h p = true →
    let q := s.part p; let t := s.port h
    let there := q.state = .running ∧ fld v 10 0 < q.saCount ∧ fld v 15 11 ≤ 23 ∧ fld v 20 16 ≤ 23
    exec (.partDb h p v ide) s = .next (s.setPort h
      (if s.ideOk h p ide = false then { t with notOwned := min 0xFFFF (t.notOwned + 1) }
       else if there then { t with doorbells := t.doorbells ++
          [⟨p, q.epoch, fld v 10 0, fld v 15 11, fld v 20 16, fld v 24 21, fld v 40 25, t.openWrites ++ t.fetched⟩] }
       else { t with dbDropped := min 0xFFFF (t.dbDropped + 1) }))))
  ∧ (∀ (s : State) (h : Nat) (d : Doorbell) (ds : List Doorbell), h < 32 → let t := s.port h; let q := s.part d.part
    t.doorbells = d :: ds →
    ((∃ r ∈ d.after, r ∈ t.openWrites ++ t.fetched) → exec (.doorbellRelease h) s = .next s)
    ∧ ((∀ r ∈ d.after, r ∉ t.openWrites ++ t.fetched) → let body := Body.doorbell (q.saAt d.saRel) d.x d.y d.cnt d.amount
      let site := Loc.router (attachSite (48 + h)); let via := enterBy site body
      (∀ e, q.dbEntry = some e → q.state = .running → exec (.doorbellRelease h) s =
        .next { s.setPort h { t with doorbells := ds } with
          net := s.net ++ [⟨s.nextId, d.part, q.cls, d.epoch, site, e, via, enterLanes q.cls body via, body⟩],
          nextId := s.nextId + 1 })
      ∧ (q.dbEntry = none ∨ q.state ≠ .running → s.TablesOk → exec (.doorbellRelease h) s =
        .next (s.setPort h { t with doorbells := ds, dbDropped := min 0xFFFF (t.dbDropped + 1) }))))
  ∧ ∀ (s : State) (tok mport sa x y i n a b c : Nat) (tk : Token), mport < 4 → mport ∈ arrivalPorts x y → s.token tok = some tk →
    tk.loc = .core sa x y → tk.body = .doorbell a b c i n → let e := s.core (coreKey sa x y)
    e.counter i + n ≤ 0xFFFF ∨ s.strict sa = false →
    exec (.doorbellLand tok mport) s = .next (((s.consume tok).stirPart tk.part).setCore (coreKey sa x y)
      { e with counters := SMap.put 0 e.counters i (BitVec.ofNat 16 (min 0xFFFF (e.counter i + n))),
               stickies := if e.counter i + n ≤ 0xFFFF then e.stickies else e.stickies ||| (1#16 <<< i) })

/-- SQ_TAIL_WRITE, CQ_HEAD_WRITE, QUEUE_ENABLE, QUEUE_DISABLE, SKEIN_FETCH, WIN_READ, WIN_WRITE, COMPLETION_TIMEOUT, COMPLETION_POST
(R239, R243, R245, R248-R251). -/
def Obligations.QueuesFetchStartAndComplete : Prop :=
  ∀ (s : State) (h q : Nat), h < 32 → q < 8 → s.acts h = true → let u := s.queue h q; let off := (s.port h).d3hot
    let known := fun (l : List QEntry) => ∀ e ∈ l, e.started = true ∨ knownOpcode (cmdOpcode e.cmd) = true
    let fetched := fun (v : Queue) (cmds : List QCmd) => if v.full = true ∨ off = true then s.setQueue h q v else
      let size := 2 ^ v.sqLog2; let got := cmds.take ((v.sqTail % size + size - v.sqHead) % size)
      { s.setQueue h q { v with
          sqHead := (v.sqHead + got.length) % size,
          cmds := v.cmds ++ got.zipIdx.map fun c => (⟨c.1, false, [], 0, s.nextId + c.2⟩ : QEntry) } with
        nextId := s.nextId + got.length }
    (∀ tail cmds, u.enable = true → known u.cmds → (∀ c ∈ cmds, knownOpcode (cmdOpcode c) = true) →
      exec (.sqTailWrite h q tail cmds) s = .next (fetched { u with sqTail := tail % 65536 } cmds))
    ∧ (∀ head cmds, u.enable = true → known u.cmds → (∀ c ∈ cmds, knownOpcode (cmdOpcode c) = true) →
      exec (.cqHeadWrite h q head cmds) s = .next (fetched { u with cqHead := head % 2 ^ u.cqLog2 } cmds))
    ∧ (∀ v, u.enable = false → 4 ≤ fld v 3 0 → fld v 3 0 ≤ 12 → 4 ≤ fld v 7 4 → fld v 7 4 ≤ 12 →
      exec (.queueEnable h q v) s = .next (s.setQueue h q { u with
        sqLog2 := fld v 3 0, cqLog2 := fld v 7 4, vector := fld v 13 8, enable := true, sqTail := 0, sqHead := 0, cqHead := 0,
        cqTail := 0, phase := true }))
    ∧ (u.enable = true → exec (.queueDisable h q) s = .next (s.setQueue h q { u with
        enable := false, cmds := u.cmds.filter fun e => e.started,
        done := u.done ++ (u.cmds.filter fun e => !e.started).map fun e => (⟨cmdCid e.cmd, 0xD, 0⟩ : Completion) }))
    ∧ (∀ c cs, u.done = c :: cs → u.full = false → off = false → let next := (u.cqTail + 1) % 2 ^ u.cqLog2
      let s1 := (s.setQueue h q { u with done := cs, cqTail := next, phase := if next = 0 then !u.phase else u.phase }).emit
        (.completion h q (packW [(0, c.cid), (16, c.status), (24, bit u.phase), (25, q)]) c.result)
      exec (.completionPost h q) s = .next (if bitOf (s.port h).unmask u.vector = true then s1.emit (.msix h u.vector)
        else s1.setPort h { s1.port h with pba := (s.port h).pba ||| (1#64 <<< u.vector) }))
    ∧ ∀ e rest, u.cmds = e :: rest → e.started = false → (s.port h).turn = some q → off = false → known rest → let c := e.cmd
      let cid := cmdCid c; let p := cmdPart c; let r := cmdRegion c; let o := c.w3.toNat; let n := c.w2.toNat
      let began := fun (t : State) (rids : List Nat) => t.setPort h (({ t.port h with lastQ := q } : Port).begun e.id rids)
      let ended := fun (t : State) (st : Nat) => let v := began t []
        v.setQueue h q { v.queue h q with cmds := rest, done := u.done ++ [(⟨cid, st, 0⟩ : Completion)] }
      let waits := fun (t : State) (rids : List Nat) => let v := began t rids
        v.setQueue h q { v.queue h q with cmds := { e with started := true, left := rids } :: rest }
      (cmdOpcode c = 1 → badArgs c = false → exec (.skeinFetch h q cid .error) s = .next (ended s 9)
        ∧ ∀ b : List Byte, b.length = n → exec (.skeinFetch h q cid (.bytes b)) s = .next (ended (s.receive h b) 0))
      ∧ (∀ ide errs, cmdOpcode c = 2 → let wait := n ≠ 0 ∧ s.hostWaits h p r o n = true
        (s.winStatus h c ide ≠ 0 → exec (.winRead h q cid ide errs) s = .next (ended s (s.winStatus h c ide)))
        ∧ (s.winStatus h c ide = 0 → ¬wait → let x := s.readNow p r o n errs
          exec (.winRead h q cid ide errs) s = .next (match x.2 with
            | some bs => ended (x.1.emit (.hostWrite h c.w1 bs)) 0
            | none => ended x.1 0xB))
        ∧ (s.winStatus h c ide = 0 → ¬wait →
          (∀ x ∈ s.sectorSpots p r o n, x.2 ∉ (s.mem x.1).poison ∧ x.2 < 0xFD99A0000) →
          (∀ i, i < n → s.locate p r (o + i) ≠ none) → s.authentic p r o n = true →
          exec (.winRead h q cid ide []) s = .next (ended ((s.noteReads p r o n).emit (.hostWrite h c.w1 (s.readRegion p r o n))) 0))
        ∧ (s.winStatus h c ide = 0 → wait → let w := s.openRead h p r o n (some c.w1)
          exec (.winRead h q cid ide errs) s = .next (waits w.1 w.2)))
      ∧ (∀ ide, cmdOpcode c = 3 →
        (∀ d, s.winStatus h c ide ≠ 0 → exec (.winWrite h q cid d ide) s = .next (ended s (s.winStatus h c ide)))
        ∧ (s.winStatus h c ide = 0 → exec (.winWrite h q cid .error ide) s = .next (ended s 9)
          ∧ ∀ b : List Byte, b.length = n → let w := s.openWrite h p r o b
            w.2 ≠ [] → exec (.winWrite h q cid (.bytes b) ide) s = .next (waits w.1 w.2)))
      ∧ (∀ ide, let times := fun st => exec (.completionTimeout h q cid ide) s = .next (ended s (if st = 0 then 8 else st))
        ((s.port h).ctoOff = true → exec (.completionTimeout h q cid ide) s = .next s)
        ∧ ((s.port h).ctoOff = false →
          (cmdOpcode c = 1 → times (if badArgs c then 2 else 0)) ∧ (cmdOpcode c = 3 → times (s.winStatus h c ide))
          ∧ (cmdOpcode c = 0x15 → times (s.volWriteStatus h ide c))))

/-- VOL_CREATE, VOL_DELETE, VOL_BIND, VOL_INFO, VOL_READ, VOL_WRITE (R161, R162, R250-R252, R327). That a command given while its station
switches has no effect is the model's choice (log entry 86). -/
def Obligations.VolumesServeOnlyTheirPort : Prop :=
  ∀ (s : State) (h q : Nat) (e : QEntry) (rest : List QEntry), h < 32 → q < 8 → s.acts h = true → let u := s.queue h q
    u.cmds = e :: rest → e.started = false → (s.port h).turn = some q → (s.port h).d3hot = false →
    (∀ d ∈ rest, d.started = true ∨ knownOpcode (cmdOpcode d.cmd) = true) →
    let c := e.cmd; let cid := cmdCid c; let p := cmdPart c; let r := cmdRegion c; let k := cmdVolume c; let o := c.w3.toNat
    let n := c.w2.toNat
    let ended := fun (t : State) (st : Nat) (res : W64) =>
      let v := t.setPort h (({ t.port h with lastQ := q } : Port).begun e.id [])
      v.setQueue h q { v.queue h q with cmds := rest, done := u.done ++ [(⟨cid, st, res⟩ : Completion)] }
    badArgs c = false →
    (s.switchingKind 2 = true → (∀ pages, exec (.volRead h q cid pages) s = .next s)
      ∧ ∀ d ide, exec (.volWrite h q cid d ide) s = .next s) ∧
    (s.switchingKind 2 = false →
    (cmdOpcode c = 0x10 → n ≠ 0 → s.owns h p = false ∨ (s.part p).conf = false →
      (∀ v, v < 1024 → s.volume v = none → (∀ w, w < v → s.volume w ≠ none) → n ≤ s.flashFree →
        exec (.volCreate h q cid) s =
          .next (ended (s.setVolume v (some ⟨h, n, none, none, false, [], []⟩)) 0 (BitVec.ofNat 64 v)))
      ∧ ((∀ v, v < 1024 → s.volume v ≠ none) ∨ s.flashFree < n → exec (.volCreate h q cid) s = .next (ended s 6 0)))
    ∧ ((∀ v, s.volume k = some v → v.port ≠ h) →
      (cmdOpcode c = 0x11 → exec (.volDelete h q cid) s = .next (ended s 3 0))
      ∧ (cmdOpcode c = 0x12 → exec (.volBind h q cid) s = .next (ended s 3 0))
      ∧ (cmdOpcode c = 0x13 → exec (.volInfo h q cid) s = .next (ended s 3 0))
      ∧ (cmdOpcode c = 0x14 → ∀ pages, exec (.volRead h q cid pages) s = .next (ended s 3 0))
      ∧ (cmdOpcode c = 0x15 → ∀ d ide, exec (.volWrite h q cid d ide) s = .next (ended s 3 0)))
    ∧ ∀ v, s.volume k = some v → v.port = h →
      (cmdOpcode c = 0x11 → exec (.volDelete h q cid) s =
        .next (if v.bound = none then ended ((s.setVolume k none).loadVolKeys v.conf) 0 0 else ended s 7 0))
      ∧ (cmdOpcode c = 0x12 → s.owns h p = true → (s.part p).state.live = true → ((s.part p).region r).valid = false →
        s.volumeOf p r = none → v.bound = none → v.conf = none → (s.part p).conf = false →
        exec (.volBind h q cid) s = .next (ended (s.setVolume k (some { v with bound := some (p, r) })) 0 0))
      ∧ (cmdOpcode c = 0x13 → exec (.volInfo h q cid) s = .next (ended s 0 v.info))
      ∧ (cmdOpcode c = 0x14 → o + n ≤ v.sizeGib * 2 ^ 30 → v.bound = none → v.conf = none → s.flashCut h = false →
        (∀ b ∈ v.lost, b * 65536 + 65536 ≤ o ∨ o + n ≤ b * 65536) → ∀ pages, let met := (volPages o n).zip pages
        let t := s.readPages k met
        ((∀ x ∈ met, x.2 ≠ .lost) → exec (.volRead h q cid pages) s =
          .next (ended (t.emit (.hostWrite h c.w1 (SMap.span 0 v.data o n))) 0 0))
        ∧ ((∃ x ∈ met, x.2 = .lost) → exec (.volRead h q cid pages) s = .next (ended t 0xC 0))
        ∧ ((∀ x ∈ met, x.2 = .clean) → t = s) ∧ t = { s with fs := t.fs, volumes := t.volumes, gel := t.gel })
      ∧ (cmdOpcode c = 0x15 → o + n ≤ v.sizeGib * 2 ^ 30 → v.bound = none → v.conf = none → s.flashCut h = false →
        ∀ (b : List Byte) ide, b.length = n → Yields (exec (.volWrite h q cid (.bytes b) ide) s) fun t =>
          ∃ w : Volume, t = ended (s.setVolume k (some w)) 0 0 ∧ w = { v with data := w.data, lost := w.lost }
            ∧ (∀ i, i < n → SMap.look 0 w.data (o + i) = nth 0 b i)
            ∧ (∀ i, i < o ∨ o + n ≤ i → SMap.look 0 w.data i = SMap.look 0 v.data i)
            ∧ ∀ x, x ∈ w.lost ↔ x ∈ v.lost ∧ ¬(o ≤ 65536 * x ∧ 65536 * x + 65536 ≤ o + n)))

/-- The DOE, SPDM, IDE_KM and MCTP commands (R253-R255, R260, R261, R265, R270, R291, R294). The model's choice are the SPDM error codes,
the capability words, the sizes and the refusal of the measurements of all indices that do not fit an object (log entry 33, PRESUMED),
the bytes of the MCTP answers (log entry 71), and that a Gelokan request waits for a controller's switchover by being given again (log
entry 86). -/
def Obligations.PortsAnswerMessagesAndKeepSessions : Prop :=
  ∀ (s : State) (h : Nat), h < 32 → let q := s.port h
    let gives := fun (c : Instr) (f : State → State) => exec c s = .next (if s.linked h = true then f s else s)
    let tells := fun (c : Bool → Instr) (f : State → State) => exec (c true) s = .next (if s.linked h = true then f s else s)
      ∧ exec (c false) s = .next s
    gives (.getVersion h) (fun t => t.say h "VERSION" [0x13])
    ∧ gives (.getCapabilities h) (fun t => t.say h "CAPABILITIES" (leBytes 4 0x62D6 ++ leBytes 4 4096))
    ∧ gives (.negotiateAlgorithms h) (fun t => t.say h "ALGORITHMS" [0x80, 0x02, 0x10, 0x02])
    ∧ gives (.getDigests h) (fun t => t.say h "DIGESTS" (0x01 :: sha384 s.certChain))
    ∧ (∀ i, i < 3 → gives (.doeDiscovery h i) fun t =>
        t.say h "DOE_DISCOVERY" (leBytes 2 1 ++ leBytes 1 i ++ leBytes 1 ((i + 1) % 3)))
    ∧ (∀ i, 3 ≤ i → gives (.doeDiscovery h i) fun t => t.say h "DOE_DISCOVERY" (leBytes 2 0xFFFF ++ leBytes 2 0))
    ∧ (∀ o n, o ≤ s.certChain.length → let part := (s.certChain.drop o).take (min n 4080)
        gives (.getCertificate h o n) fun t => t.say h "CERTIFICATE"
          (leBytes 2 part.length ++ leBytes 2 (s.certChain.length - o - part.length) ++ part))
    ∧ (∀ nonce, let said := sha384 s.certChain ++ Config.random s.draws
        gives (.challenge h nonce) fun t => { t with draws := t.draws + 1 }.say h "CHALLENGE_AUTH" (said ++ s.sign (nonce ++ said)))
    ∧ (∀ i sg nonce m, s.measurements h i = some m → let said := m ++ if sg = true then s.sign (nonce ++ m) else []
        gives (.getMeasurements h i sg nonce) fun t =>
          if i = 0xFF ∧ 4096 < said.length + measureHeaders then t.sayError h 0x0D else t.say h "MEASUREMENTS" said)
    ∧ (∀ i sg nonce, s.measurements h i = none → gives (.getMeasurements h i sg nonce) fun t => t.sayError h 1)
    ∧ tells (.getEndpointId h) (fun t => t.tell h "GET_ENDPOINT_ID" ([0] ++ leBytes 1 q.eid ++ [0, 0]))
    ∧ tells (.getEndpointUuid h) (fun t => t.tell h "GET_ENDPOINT_UUID" (0 :: Config.uuid))
    ∧ tells (.getMctpVersionSupport h) (fun t => t.tell h "GET_MCTP_VERSION_SUPPORT" (0 :: Config.mctpVersions))
    ∧ tells (.getMessageTypeSupport h) (fun t => t.tell h "GET_MESSAGE_TYPE_SUPPORT" [0, 2, 0x00, 0x7E])
    ∧ tells (.getVendorDefinedMessageSupport h) (fun t =>
        t.tell h "GET_VENDOR_DEFINED_MESSAGE_SUPPORT" ([0, 0xFF, 0x00] ++ Config.vendorId))
    ∧ (∀ e, 0 < e → e < 255 → tells (.setEndpointId h e) fun t =>
        (t.setPort h { q with eid := e }).tell h "SET_ENDPOINT_ID" ([0, 0] ++ leBytes 1 e ++ [0]))
    ∧ (∀ k m, k < 4 → (s.spdm h k).stage = 0 → (∀ j, j < k → (s.spdm h j).stage ≠ 0) → s.mgs.drbgServe = some m →
        let said := leBytes 1 k ++ Config.random s.draws ++ publicOf (scalarOf (Config.random (s.draws + 1)))
        gives (.keyExchange h) fun t => ({ t with mgs := m, draws := t.draws + 2 }.setSpdm h k ⟨1, none, [], 0⟩).say h "KEY_EXCHANGE_RSP"
          (said ++ s.sign said))
    ∧ ((∀ k, k < 4 → (s.spdm h k).stage ≠ 0) → gives (.keyExchange h) fun t => t.sayError h 0x0A)
    ∧ (∀ k, k < 4 → let x := s.spdm h k
      (x.stage = 1 → gives (.finish h k true) (fun t => (t.setSpdm h k ⟨2, none, [], 0⟩).say h "FINISH_RSP" [])
        ∧ gives (.finish h k false) (fun t => (t.endSpdm h k).sayError h 6))
      ∧ (x.stage ≠ 2 → gives (.heartbeat h k) (fun t => t.sayError h 4) ∧ gives (.query h k) fun t => t.sayError h 4)
      ∧ (x.stage = 2 → gives (.heartbeat h k) (fun t => t.say h "HEARTBEAT_ACK" [])
        ∧ gives (.query h k) (fun t => t.say h "QUERY_RESP" [1, 8])
        ∧ gives (.keyUpdate h k) (fun t => (t.setSpdm h k { x with updates := x.updates + 1 }).say h "KEY_UPDATE_ACK" [])
        ∧ gives (.endSession h k) (fun t => (t.endSpdm h k).say h "END_SESSION_ACK" [])
        ∧ (∀ key, gives (.hostKey h k key true) (fun t =>
            (t.setSpdm h k { x with hostKey := some (sha384 key), hostPub := key }).say h "HOST_KEY" [])
          ∧ gives (.hostKey h k key false) fun t => (t.endSpdm h k).sayError h 6)
        ∧ ∀ st set, st < 9 → let e := s.stream h st
          (∀ m, set < 2 → e.progd = [] ∨ e.session = k ∨ (s.spdm h e.session).stage ≠ 2 → s.mgs.drbgServe = some m → gives (.keyProg h k st set) fun t =>
            ({ t with mgs := m }.setStream h st { e with
              progd := ((if e.session = k then e.progd else []) ++ [set]).eraseDups, session := k }).say h "KP_ACK" [])
          ∧ (e.session = k → set ∈ e.progd →
            gives (.kSetGo h k st set) (fun t => (t.setStream h st { e with state := 1, keySet := set }).say h "K_GOSTOP_ACK" [])
            ∧ gives (.kSetStop h k st set) (fun t => (t.setStream h st { e with
                state := if e.keySet = set then 0 else e.state, progd := e.progd.filter fun n => n != set }).say h
              "K_GOSTOP_ACK" []))))
    ∧ (∀ i sub, s.hostSees h i sub = true ↔ s.inView h i sub = true ∧ ∀ o, s.object Sess.reset i sub = some o → o.acc ≠ .rwm)
    ∧ (s.linked h = true ↔ s.mgs.phase = .released ∧ q.linkUp = true ∧ q.lost = false ∧ q.drops none = false)
    ∧ (s.requestsWait = true → ∀ u i sub o n root, exec (.mctpGelokanRequest h u i sub o n root) s = .next s)
    ∧ (s.requestsWait = false → ∀ (u : Pdu) i sub o n, let c := Instr.mctpGelokanRequest h u i sub o n
      let fits := u.verDir = 1 ∧ u.rsv = 0 ∧ u.session = 0 ∧ (u.kind = 0x10 → u.len = 4) ∧ (u.kind = 0x12 → u.len = 10)
      (¬fits ∨ u.kind ∉ [1, 2, 3, 4, 0x10, 0x11, 0x12, 0x13] → ∀ root, exec (c root) s = .next s)
      ∧ (fits → u.kind = 0x10 → s.hostSees h i sub = false → tells c fun t => t.emit (.mctpGelokan h u.seq ⟨1, List.replicate 10 0⟩))
      ∧ (fits → u.kind = 0x12 → s.hostSees h i sub = false → tells c fun t => t.emit (.mctpGelokan h u.seq ⟨1, List.replicate 6 0⟩))
      ∧ (fits → u.kind = 0x10 → s.hostSees h i sub = true →
          tells c fun t => t.emit (.mctpGelokan h u.seq (s.expReadBy Sess.reset i sub)))
      ∧ (fits → u.kind = 0x12 → s.hostSees h i sub = true → let r := s.segReadBy Sess.reset q.mctpXfer i sub o n
          tells c fun t => (t.setPort h { q with mctpXfer := r.1 }).emit (.mctpGelokan h u.seq r.2))
      ∧ (fits → u.kind ∈ [1, 2, 3, 4, 0x11, 0x13] → tells c fun t => t.emit (.mctpGelokan h u.seq ⟨4, []⟩)))

/-- R280 for every request of an open session. -/
def Obligations.RequestsExecuteOnceByTheirSequence : Prop :=
  (∀ (c : Sess) (n : Nat), let d := c.accept n
    let holds := fun (x : Sess) (k : Nat) => k ≤ x.hi ∧ x.hi < k + 64 ∧ x.window.getLsbD (x.hi - k) = true
    (c.fresh n = true ↔ c.hi < n ∨ (c.hi < n + 64 ∧ n ≤ c.hi ∧ ¬holds c n))
    ∧ (c.fresh n = true → d.hi = max c.hi n ∧ (∀ k, k ≤ d.hi → d.hi < k + 64 → (holds d k ↔ k = n ∨ holds c k))
      ∧ d = { c with hi := d.hi, window := d.window }))
  ∧ ∀ (s : State) (f : Frame) (i sub n o : Nat) (data : List Byte), f.seg < 2 → s.gelOn = true → s.requestsWait = false →
    f.fcsOk = true → f.dst = List.replicate 6 0xFF ∨ f.dst = macOf f.seg → f.etherType = s.gel.etherType →
    f.pdu.verDir = 1 → f.pdu.rsv = 0 → let k := f.pdu.session; let q := f.pdu.seq; let c := s.sess k
    c.role ≠ 0 → c.opened = true →
    let u := s.setSess k (c.accept q); let at0 := leBytes 2 i ++ leBytes 1 sub; let d8 := (data ++ List.replicate 8 0).take 8
    let table : List (Instr × Nat × List Byte × Served) := [(.close f, 4, [], (u.closeSess k, ⟨0, []⟩, [])),
      (.expRead f i sub, 0x10, at0 ++ leBytes 1 0, u.expReadAct k i sub),
      (.expWrite f i sub n data, 0x11, at0 ++ leBytes 1 n ++ d8, u.expWriteAct k i sub n d8),
      (.segRead f i sub o n, 0x12, at0 ++ leBytes 1 0 ++ leBytes 4 o ++ leBytes 2 n, u.segReadAct k i sub o n),
      (.segWrite f i sub n o data, 0x13, at0 ++ leBytes 1 0 ++ leBytes 4 n ++ leBytes 4 o ++ data, u.segWriteAct k i sub n o data)]
    ∀ e ∈ table, let body := e.2.2.1; let r := e.2.2.2
      f.pdu.kind = e.2.1 → f.pdu.len = body.length → body.length ≤ 1400 → f.tag = gelTag c.rqKey q k 0 (frameCovered f body) →
      (c.fresh q = true → Yields (exec e.1 s) fun t =>
        (q ≠ 0xFFFFFFFF →
          (r.1.sess k).role ≠ 0 → t.sess k = { r.1.sess k with recent := ((q, r.2.1) :: (r.1.sess k).recent).take 8 })
        ∧ (t.seg f.seg).txq = (r.1.seg f.seg).txq ++ [⟨k, q, r.2.1, r.2.2, f.pdu.kind, f.src, c.rsKey⟩]
        ∧ (q = 0xFFFFFFFF → (t.sess k).role = 0)
        ∧ t = { r.1 with gel := t.gel })
      ∧ (∀ x, c.fresh q = false → c.recent.find? (fun x => x.1 == q) = some x →
          let v := s.setSess k { c with unsent := c.unsent.filter fun u => u.1 != q }
          exec e.1 s = .next (v.setSeg f.seg { v.seg f.seg with txq := (v.seg f.seg).txq
            ++ [⟨k, q, x.2, (c.unsent.filter fun u => u.1 == q).flatMap Prod.snd, f.pdu.kind, f.src, c.rsKey⟩] }))
      ∧ (c.fresh q = false → c.recent.find? (fun x => x.1 == q) = none →
          exec e.1 s = .next { s with gel := { s.gel with replays := min 0xFFFFFFFF (s.gel.replays + 1) } })

/-- CERT, OPEN, AUTH, EXP_READ, EXP_WRITE, SEG_READ, SEG_WRITE, APPLY, OBJECT_WRITE (R276-R278, R281-R285, R288-R290, R327). The model's
choice are the zero body of a refused OPEN (log entry 36), that an OPEN whose Q_R is no point of the curve is malformed (log entry 50), the
operations without their frame (log entry 37), the bytes that stand for a certificate chain (log entry 71), and that a request waits for
a controller's switchover by being given again (log entry 86). -/
def Obligations.SessionsOpenAuthenticateAndAct : Prop :=
  (∀ (s : State) (f : Frame) (k i sub n o : Nat) (cert key signer sig data : List Byte), f.seg < 2 → s.requestsWait = true →
    ∀ e ∈ [Instr.close f, .auth f cert key signer sig, .expRead f i sub, .expWrite f i sub n data, .segRead f i sub o n,
      .segWrite f i sub n o data, .objectWrite k i sub data, .apply k i], exec e s = .next s)
  ∧ ∀ (s : State), s.gelOn = true → s.requestsWait = false →
    (∀ (f : Frame) (role o i sub n : Nat) (nonceR qR cert key signer sig data : List Byte), f.seg < 2 →
      let c := s.sess f.pdu.session; let k := f.pdu.session; let q := f.pdu.seq; let at0 := leBytes 2 i ++ leBytes 1 sub
      let up := fun (m : Nat) => min 0xFFFFFFFF (m + 1); let d8 := (data ++ List.replicate 8 0).take 8
      let count := fun (g : Gel) => exec (.expRead f i sub) s = .next { s with gel := g }
      let ours := f.fcsOk = true ∧ (f.dst = List.replicate 6 0xFF ∨ f.dst = macOf f.seg) ∧ f.etherType = s.gel.etherType
      let fits := fun (kind : Nat) (body : List Byte) => ours ∧ f.pdu.verDir = 1 ∧ f.pdu.kind = kind ∧ f.pdu.len = body.length
        ∧ body.length ≤ 1400 ∧ f.pdu.rsv = 0
      let answers := fun (t : State) (r : DResp) (key : List Byte) =>
        (t.seg f.seg).txq = (s.seg f.seg).txq ++ [⟨k, q, r, [], f.pdu.kind, f.src, key⟩]
      let table : List (Instr × Nat × List Byte) := [(.cert f o, 1, leBytes 2 o),
        (.openReq f role nonceR qR, 2, leBytes 1 role ++ leBytes 3 f.pdu.rsv ++ nonceR ++ qR), (.close f, 4, []),
        (.auth f cert key signer sig, 3, if cert.length ≤ 1200 ∧ sig.length = 96 then leBytes 2 cert.length ++ cert ++ sig
          else List.replicate 1401 0), (.expRead f i sub, 0x10, at0 ++ leBytes 1 f.pdu.rsv),
        (.expWrite f i sub n data, 0x11, at0 ++ leBytes 1 n ++ d8),
        (.segRead f i sub o n, 0x12, at0 ++ leBytes 1 f.pdu.rsv ++ leBytes 4 o ++ leBytes 2 n),
        (.segWrite f i sub n o data, 0x13, at0 ++ leBytes 1 f.pdu.rsv ++ leBytes 4 n ++ leBytes 4 o ++ data)]
      (∀ e ∈ table,
        (f.fcsOk = false → exec e.1 s = .next (s.setSeg f.seg { s.seg f.seg with fcsErr := up (s.seg f.seg).fcsErr }))
        ∧ (f.fcsOk = true → ¬ours ∨ f.pdu.verDir / 16 % 2 = 1 → exec e.1 s = .next s)
        ∧ (ours → f.pdu.verDir / 16 % 2 = 0 → ¬fits e.2.1 e.2.2 →
            exec e.1 s = .next (s.setSeg f.seg { s.seg f.seg with malformed := up (s.seg f.seg).malformed })))
      ∧ (fits 1 (leBytes 2 o) → Yields (exec (.cert f o) s) fun t =>
          answers t ⟨0, leBytes 2 s.certChain.length ++ (s.certChain.drop o).take 1024⟩ [] ∧ t = { s with gel := t.gel })
      ∧ (fits 2 (leBytes 1 role ++ leBytes 3 f.pdu.rsv ++ nonceR ++ qR) → let c := Instr.openReq f role nonceR qR
        let recent := (s.seg f.seg).opens.filter fun t => decide (s.mgs.tick < t + 25000000)
        let good := nonceR.length = 32 ∧ pointOf qR ≠ none ∧ recent.length < 4
        (nonceR.length ≠ 32 ∨ pointOf qR = none →
          exec c s = .next (s.setSeg f.seg { s.seg f.seg with malformed := up (s.seg f.seg).malformed }))
        ∧ (nonceR.length = 32 → pointOf qR ≠ none → 4 ≤ recent.length → exec c s =
            .next { s with gel := { s.gel with openLimited := up s.gel.openLimited } })
        ∧ (∀ a, good → s.openAbort role = a → a ≠ 0 → Yields (exec c s) fun t =>
            t.gel.sessions = s.gel.sessions ∧ t.gel.sessNext = s.gel.sessNext ∧ answers t ⟨a, List.replicate 231 0⟩ [])
        ∧ (good → s.openAbort role = 0 → let n := s.nextSession; let x := s.handshake f role n nonceR qR
            let mine := (Config.random s.draws).take 32
            let keyed := fun (label : String) =>
              kdf (ecdh (scalarOf (Config.random (s.draws + 1))) qR) (ascii label) (nonceR ++ mine ++ leBytes 4 n) 32
            Yields (exec c s) fun t =>
              t.sess n = { Sess.reset with
                seg := f.seg, role := role, gen := s.gel.sessGen, peer := f.src, rqKey := keyed "GLK-RQ", rsKey := keyed "GLK-RS",
                bodies := x.1.bodies }
              ∧ t.gel.sessNext = n + 1 ∧ (∀ j, j ≠ n → t.sess j = s.sess j) ∧ answers t ⟨0, x.2⟩ []
              ∧ (∃ l, x.2 = leBytes 2 0 ++ leBytes 4 n ++ mine ++ l) ∧ (t.seg f.seg).opens = recent ++ [s.mgs.tick]))
      ∧ (let body := leBytes 2 cert.length ++ cert ++ sig
        cert.length ≤ 1200 → sig.length = 96 → fits 3 body → f.tag = gelTag c.rqKey q k 0 (frameCovered f body) → q = 1 →
        c.role ≠ 0 → c.opened = false → c.seg = f.seg → c.hi = 0 → c.recent = [] → let x := Instr.auth f cert key signer sig
        (s.granted c cert key signer sig = true → Yields (exec x s) fun t =>
          (t.sess k).opened = true ∧ (t.sess k).role = c.role ∧ answers t ⟨0, []⟩ c.rsKey)
        ∧ (s.granted c cert key signer sig = false → Yields (exec x s) fun t => (t.sess k).role = 0 ∧ answers t ⟨0x0D, []⟩ c.rsKey))
      ∧ (let body := at0 ++ leBytes 1 0
        fits 0x10 body → (c.role = 0 ∨ c.opened = false → count { s.gel with strangers := up s.gel.strangers })
        ∧ (c.role ≠ 0 → c.opened = true → f.tag ≠ gelTag c.rqKey q k 0 (frameCovered f body) →
            count { s.gel with gmacFail := up s.gel.gmacFail })))
    ∧ (∀ k i sub, let c := s.sess k
      (∀ ty v, s.readObject c i sub = .ok (ty, v) → v.length ≤ 8 →
          s.expReadBy c i sub = ⟨0, leBytes 1 ty ++ leBytes 1 v.length ++ (v ++ List.replicate 8 0).take 8⟩)
      ∧ (∀ ty v, s.readObject c i sub = .ok (ty, v) → 8 < v.length → s.expReadBy c i sub = ⟨7, List.replicate 10 0⟩)
      ∧ (∀ a, s.readObject c i sub = .error a → s.expReadBy c i sub = ⟨a, List.replicate 10 0⟩))
    ∧ (∀ k i sub d a, s.writeAbort (s.sess k) i sub d = a → a ≠ 0 → s.writeObject k i sub d = (s, ⟨a, []⟩, [])
        ∧ ((s.sess k).opened = true → exec (.objectWrite k i sub d) s = .next s))
    ∧ (∀ k v, (s.sess k).opened = true → (s.sess k).role = 1 ∨ (s.sess k).role = 2 → v < 2 ^ 16 → 1 ≤ v →
        s.writeAbort (s.sess k) 0x4000 2 (leBytes 2 v) = 0 →
        exec (.objectWrite k 0x4000 2 (leBytes 2 v)) s = .next { s with tune := { s.tune with memRowCeLimit := v } })
    ∧ (∀ k i sub n ty v, 1 ≤ n → n ≤ 1024 → s.readObject (s.sess k) i sub = .ok (ty, v) → let r := s.segReadAct k i sub 0 n
        r.2.1 = ⟨0, leBytes 1 ty ++ [0] ++ leBytes 4 v.length ++ v.take n⟩
        ∧ (r.1.sess k).xfer = some ⟨false, i, sub, v.length, v, false⟩)
    ∧ (∀ k i sub total o (data : List Byte) x, (s.sess k).role ≠ 0 → (s.sess k).xfer = some x → x.timedOut = false → o ≠ 0 →
        data.length ≤ 1024 →
        (x.wr = true → x.index = i → x.sub = sub → x.total = total → x.bytes.length = o → o + data.length < total →
          s.segWriteAct k i sub total o data = (s.setSess k { s.sess k with xfer := some { x with bytes := x.bytes ++ data } }, ⟨0, []⟩, []))
        ∧ (x.wr = true → x.index = i → x.sub = sub → x.total = total → x.bytes.length = o → total ≤ o + data.length →
          s.segWriteAct k i sub total o data = (s.setSess k { s.sess k with xfer := none }).writeObject k i sub
            ((x.bytes ++ data).take total))
        ∧ (x.bytes.length ≠ o → s.segWriteAct k i sub total o data = (s.setSess k { s.sess k with xfer := none }, ⟨0x0A, []⟩, [])))
    ∧ ∀ k, let c := s.sess k
      c.opened = true → c.role = 1 ∨ c.role = 2 →
      (0x2010 ∈ c.stale → exec (.apply k 0x2010) s = .next (s.setSess k { c with
          staged := c.staged.filter fun f => f.1 != 0x2010, stale := c.stale.filter fun n => n != 0x2010 }))
      ∧ (0x2010 ∉ c.stale → (∀ f ∈ c.staged, f.1 ≠ 0x2010) → exec (.apply k 0x2010) s = .next s)
      ∧ (∀ sub d, sub ≠ 0xFF → s.writeAbort c 0x2010 sub d = 0 → exec (.objectWrite k 0x2010 sub d) s =
          .next (s.setSess k { c with staged := c.staged ++ [(0x2010, sub, d)] }))
      ∧ (∀ v, v < 2 ^ 16 → 0x2010 ∉ c.stale → c.staged = [(0x2010, 4, leBytes 2 v)] → s.tune.throttleT + 3 ≤ s.tune.drainT →
          Yields (exec (.apply k 0x2010) s) fun t => t.tune = { s.tune with drainHold := v } ∧ (t.sess k).staged = []
            ∧ ∀ j, j ≠ k → (∃ e ∈ (s.sess j).staged, e.1 = 0x2010) → 0x2010 ∈ (t.sess j).stale)

/-- TRANSMIT_OPPORTUNITY, PLCA_BEACON, PLCA_LOSS_EXPIRY, PHYSICAL_COLLISION, CSMA_BACKOFF_EXPIRY, COORDINATOR_BEACON,
SESSION_IDLE_EXPIRY, SESSION_AUTH_TIMEOUT, SEG_TRANSFER_TIMEOUT (R272-R274, R278, R281, R285, R289). The model's choice are that an
authentication timeout is logged as a close is (log entry 36) and that a transmit opportunity in CSMA/CD sends one frame (log
entry 38). -/
def Obligations.SegmentsTransmitAndSessionsExpire : Prop :=
  (∀ (s : State) (n : Nat), n < 2 → s.gelOn = true → let g := s.seg n
    let up := fun (m : Nat) => min 0xFFFFFFFF (m + 1)
    let sent := fun (f : TxFrame) (fs : List TxFrame) =>
      ((s.setSeg n { g with txq := fs, attempts := 0, backoff := false }).emit (.frame n f.session f.seq f.resp (s.frameBytes n f))).putFields f.due
    let collided := if g.txq = [] then { g with csmaColl := up g.csmaColl }
      else if 16 ≤ g.attempts + 1 then { g with
        csmaColl := up g.csmaColl, txq := g.txq.tail, attempts := 0, backoff := false, txDropped := up g.txDropped }
      else { g with csmaColl := up g.csmaColl, attempts := g.attempts + 1, backoff := true }
    let held := fun (t : State) => match g.txq with
      | f :: _ => let c := s.sess f.session
        if 16 ≤ g.attempts + 1 ∧ f.due ≠ [] ∧ c.opened = true
        then t.setSess f.session { c with unsent := c.unsent ++ [(f.seq, f.due)] } else t
      | [] => t
    (g.txq = [] → exec (.transmitOpportunity n) s = .next s)
    ∧ (∀ f fs, g.txq = f :: fs → g.mode = 0 → g.maxBurst = 0 ∨ fs = [] → exec (.transmitOpportunity n) s = .next (sent f fs))
    ∧ (∀ f fs, g.txq = f :: fs → g.mode = 1 → g.backoff = false → exec (.transmitOpportunity n) s = .next (sent f fs))
    ∧ (g.mode = 1 → g.backoff = true → exec (.transmitOpportunity n) s = .next s)
    ∧ (∀ fs, g.txq = fs → (∀ f ∈ fs, f.due = []) → g.mode = 0 → Yields (exec (.transmitOpportunity n) s) fun t =>
        (t.seg n).txq = fs.drop (1 + g.maxBurst)
        ∧ t.out = ((fs.take (1 + g.maxBurst)).map fun f => Out.frame n f.session f.seq f.resp (s.frameBytes n f)).reverse ++ s.out)
    ∧ exec (.plcaBeacon n) s = .next (s.setSeg n (if g.mode = 1 ∧ g.plcaEn = true
        then { g with mode := 0, modeChanges := up g.modeChanges, attempts := 0, backoff := false } else g))
    ∧ exec (.plcaLossExpiry n) s = .next (s.setSeg n (if g.mode = 0 ∧ g.node ≠ 0
        then { g with mode := 1, modeChanges := up g.modeChanges } else g))
    ∧ (g.mode = 0 → exec (.physicalCollision n) s = .next (s.setSeg n { g with plcaColl := up g.plcaColl }))
    ∧ (g.mode = 1 → exec (.physicalCollision n) s = .next (held (s.setSeg n collided)))
    ∧ (∀ f fs, g.mode = 1 → g.backoff = true → g.txq = f :: fs →
        exec (.csmaBackoffExpiry n true) s = .next (held (s.setSeg n collided))
        ∧ exec (.csmaBackoffExpiry n false) s = .next (sent f fs))
    ∧ (g.mode = 0 → exec (.coordinatorBeacon n) s = .next (if g.node = 0 ∧ g.plcaEn = true
        then (s.setSeg n g).emit (.beacon n) else s)))
  ∧ (∀ (s : State) (n m : Nat) (g : Seg), n < 2 → m < 2 → m ≠ n → (s.setSeg n g).seg m = s.seg m ∧ (s.setSeg n g).seg n = g)
  ∧ ∀ (s : State) (k : Nat), let c := s.sess k
    let closed := fun (t : State) => t.sess k = Sess.reset ∧ (∀ j, j ≠ k → t.sess j = s.sess j)
      ∧ t.gel.log.getLast? = some ⟨s.mgs.tick, s.gel.evtNext, 0x0800, 0x0602, 0xFFFF,
          leBytes 12 (k % 2 ^ 32 + 2 ^ 32 * c.gen + 2 ^ 48 * c.role)⟩
      ∧ t = { s with gel := t.gel }
    (c.opened = true → c.role ≠ 0 → Yields (exec (.sessionIdleExpiry k) s) closed ∧ exec (.sessionAuthTimeout k) s = .next s)
    ∧ (c.opened = false → exec (.sessionIdleExpiry k) s = .next s
        ∧ (c.role ≠ 0 → Yields (exec (.sessionAuthTimeout k) s) closed))
    ∧ exec (.segTransferTimeout k) s = .next (s.setSess k { c with
        xfer := c.xfer.map fun x => { x with timedOut := true, bytes := [] } })

/-- REKEY, SVN_COMMIT, MAINT_AUTH, BED_REENABLE, BORDER_RESTART, FULL_TEST, FUSE_BURN, FW_CHUNK, FW_VERIFY, FW_VERIFY_DONE, FW_SWITCH,
FW_ELEMENT_SWITCH_DONE, DEBUG_TOKEN, DEBUG_TOKEN_EXPIRY, EVT_RECORDS (R259, R268, R269, R282, R293, R298, R314, R315, R318, R327). The
model's choice are that a chunk resets FW_RESULT and that an accepted FW_SWITCH counts in every partition (log entry 35), that these
operations act without their frame (log entry 37), that a free bed runs a FULL_TEST as WAKING (log entry 40), the events' PARAM (log
entry 43), and that a request waits for a controller's switchover by being given again (log entry 86). -/
def Obligations.MaintenanceActsOnlyForItsRole : Prop :=
  ∀ (s : State) (k : Nat), let c := s.sess k; let f := s.fw; let m := s.mgs
    (c.opened = true → c.role = 1 → ∀ e ∈ [Instr.rekey k 1, .svnCommit k 0, .maintAuth k (List.replicate 48 1), .bedReenable k 0 1,
      .borderRestart k 1, .fullTest k 1, .fuseBurn k 1], exec e s = .next s)
    ∧ (s.requestsWait = true → ∀ d ticks reach ok, ∀ e ∈ [Instr.rekey k 1, .svnCommit k 0, .maintAuth k d, .bedReenable k 0 1,
        .borderRestart k 1, .fullTest k 1, .fuseBurn k 1, .fwChunk k d, .fwVerify k 1, .fwSwitch k 1, .debugToken k ok ticks reach,
        .evtRecords k], exec e s = .next s)
    ∧ (c.opened = true → c.role = 2 → s.requestsWait = false →
      Yields (exec (.rekey k 1) s) (fun t => t.gel.sessNext = 1 ∧ t.gel.sessGen = (s.gel.sessGen + 1) % 2 ^ 16 ∧ t.sess k = c
        ∧ (∀ j, j ≠ k → (t.sess j).role = 0) ∧ t = { s with gel := t.gel })
      ∧ (f.runningSvn < 2 ^ 32 → exec (.svnCommit k f.runningSvn) s =
          .next { s with fw := { f with svnCommit := f.runningSvn, svnFuse := f.svnFuse ||| BitVec.ofNat 64 (2 ^ min f.runningSvn 64 - 1) } })
      ∧ (∀ d : List Byte, d.length = 48 → Yields (exec (.maintAuth k d) s) fun t => t.gel.maintAuth = d
          ∧ (d ≠ s.gel.maintAuth → ∀ j, (s.sess j).role = 2 → (t.sess j).role = 0)
          ∧ (∀ j, (s.sess j).role ≠ 2 → t.sess j = s.sess j) ∧ t = { s with gel := t.gel })
      ∧ (∀ b, b < 36 → let d := s.bed b
          d.state = .failedCore ∨ d.state = .failedTransit → d.latched = false → Yields (exec (.bedReenable k b 1) s) fun t =>
            { t.bed b with spine := d.spine } = { d with
              state := .waking, testing := true, reenabledAt := m.tick + 1, branch := true, monitor := true }
            ∧ (∀ o, o ≠ b → { t.bed o with spine := (s.bed o).spine } = s.bed o) ∧ (d.state = .failedCore → ∀ o, (t.bed o).spine = (s.bed o).spine)
            ∧ (∀ n, t.router n = if bedOf n = b then { s.router n with dead := (s.router n).failed } else s.router n)
            ∧ t = { s with beds := t.beds, routers := t.routers, gel := (s.event 0x0401 b 0xFFFF b).gel })
      ∧ exec (.borderRestart k 1) s = .next { s with mgs := { m with restartWaits := true } }
      ∧ (∀ b, b < 36 → s.bedFree b = false →
          exec (.fullTest k (b + 1)) s = .next (s.setBed b { s.bed b with fullTest := true }))
      ∧ (∀ b, b < 36 → s.bedFree b = true → (s.bed b).state = .sleep ∨ (s.bed b).state = .awake →
          exec (.fullTest k (b + 1)) s = .next (s.setBed b { s.bed b with state := .waking, freq := 0, fullTest := false, testing := true }))
      ∧ exec (.fuseBurn k 1) s = .next (if m.softEntries ≤ m.fuseFree
          then State.noted { s with mgs := { m with
            fuseFree := m.fuseFree - m.softEntries, softEntries := 0, fused := s.repairs } } s else s)
      ∧ (∀ d : List Byte, 0 < d.length → d.length ≤ 1024 → f.slot ≠ f.active → f.pending = [] → s.writeAbort c 0xF010 3 d = 0 →
          exec (.fwChunk k d) s = .next { s with fw := { f with
            image := SMap.putAll 0 f.image f.offset d, offset := (f.offset + d.length) % 2 ^ 32, result := 0,
            verA := f.verA + bit (f.slot == 0), verB := f.verB + bit (f.slot == 1) } })
      ∧ exec (.fwVerify k 1) s = .next { s with fw := { f with result := 4 } }
      ∧ (∀ v, 0 < v → v < 32 → s.writeAbort c 0xF010 6 (leBytes 1 v) = 0 → s.switchList v ≠ [] → m.mgcs.length = 3 →
          f.result = 1 → m.phase = .released → f.pending = [] → Yields (exec (.fwSwitch k v) s) fun t =>
            t.fw = { f with pending := s.switchList v }
            ∧ ∀ p, (s.part p).state ≠ .none →
              t.part p = { s.part p with fwChanges := min 0xFFFFFFFF ((s.part p).fwChanges + 1) }))
    ∧ (∀ ok, let svn := Config.fwSvn f.slot (f.version f.slot)
        (f.result = 4 → exec (.fwVerifyDone ok) s = .next { s with fw := { f with
          result := if ok = false then 2 else if f.svnFuse = 0 ∨ f.svnMin ≤ svn then 1 else 3, svn := svn } })
        ∧ (f.result ≠ 4 → exec (.fwVerifyDone ok) s = .next s))
    ∧ (∀ e es, f.pending = e :: es → Yields (exec .fwElementSwitchDone s) fun t =>
        t.fw.pending = es ∧ t.fw.active = (if es = [] then f.slot else f.active)
        ∧ (es = [] → ∃ v, t.gel.log.getLast? = some v ∧ v.code = 0x0601)
        ∧ (e.1 = 3 → e.2 < 40 → (t.mem e.2).image = f.code f.slot) ∧ ∀ p, (t.part p).state = (s.part p).state)
    ∧ (f.pending = [] → exec .fwElementSwitchDone s = .next s)
    ∧ (c.opened = true → s.requestsWait = false → s.accessAbort c 0x8011 0 = 0 →
        (∀ ticks reach, m.maintDebug = true → ticks ≠ 0 → ∃ u : State, exec (.debugToken k true ticks reach) s =
            .next (reach.foldl State.debugRequest u)
          ∧ u.mgs = { m with debugTicks := min ticks 2160000000000, debugSessions := m.debugSessions + 1 }
          ∧ u.fw.log = f.log ++ [.debug (m.debugSessions + 1)] ∧ u = { s with mgs := u.mgs, fw := u.fw, gel := u.gel })
        ∧ (∀ ticks ok reach, m.maintDebug = false ∨ ok = false → exec (.debugToken k ok ticks reach) s =
            .next (reach.foldl State.debugRequest (s.event 0x0603 0x01FF 0xFFFF 0))))
    ∧ (∀ x, s.debugRequest x = if m.debugTicks ≠ 0 ∧ s.debugReaches x = true then s.emit (.debug x)
        else s.event 0x0603 0x01FF 0xFFFF 2)
    ∧ (∀ n, (s.debugReaches (.array n) = true ↔ (s.arr n).part = none ∧ (s.arr n).dirtyConf = false)
        ∧ s.debugReaches (.journal n) = false ∧ s.debugReaches (.partition n) = false
        ∧ ∀ p, (s.arr n).part = some p → (s.debugReaches (.scan n) = true ↔
          (s.arr n).dirtyConf = false ∧ (s.part p).conf = false ∧ (s.arr n).freeze ≠ none))
    ∧ exec .debugTokenExpiry s = .next { s with mgs := { m with debugTicks := 0 } }
    ∧ (c.opened = false → exec (.evtRecords k) s = .next s)
    ∧ (c.opened = true → c.role ≠ 0 → s.requestsWait = false → Yields (exec (.evtRecords k) s) fun t => (t.sess k).cursor = s.gel.cursorAfter c 0x7001
        ∧ (∀ j, j ≠ k → t.sess j = s.sess j) ∧ t.gel.log = s.gel.log)

/-- STANDBY_POWER_GOOD, STANDBY_FEED_DROP, STANDBY_LOSS, BORDER_PHASE_START, BORDER_RELEASE, FEED_DROP, FEED_RECONNECT, REF_LOSS,
REFERENCE_RESTORED, TRELLIS_PLL_FAILOVER, COOL_LEAK, COMMISSION_INPUT (R258, R295, R296, R299, R300, R312-R314, R317, R318, R336, R339). What standby loss keeps
and that a re-enable before it counts no longer for the 24 h are the model's choice (log entry 41), and so are the PARAM of the events and
that a change of PROMISE is an event with its code free (log entry 43). -/
def Obligations.PowerFeedsAndReferencesSetThePhase : Prop :=
  ∀ (s : State), let m := s.mgs
    (∀ f a b g (n e : List Nat) (fu : Fuses), f < 2 → let img := s.firstPassing a b g
      let pass := fun (i : Nat) => s.fw.svnFuse = 0 ∨ s.fw.svnMin ≤ Config.fwSvn i (s.fw.version i)
      let good := (a = true ∧ pass 0 ∨ b = true ∧ pass 1 ∨ g = true ∧ pass 2) ∧ (∃ k ∈ n, k < 3) ∧ fu ≠ .identityBad
      let sources := (List.range 3).filter e.contains
      let bad := (List.range 3).length - sources.length
      (∀ i, img = some i ↔ i = 0 ∧ a = true ∧ pass 0 ∨ i = 1 ∧ ¬(a = true ∧ pass 0) ∧ b = true ∧ pass 1
        ∨ i = 2 ∧ ¬(a = true ∧ pass 0) ∧ ¬(b = true ∧ pass 1) ∧ g = true ∧ pass 2) ∧
      (m.phase = .off → Yields (exec (.standbyPowerGood f a b g n e fu) s) fun t =>
        (good → t.mgs.phase = .standby) ∧ (¬good → t.mgs.phase = .held) ∧ t.mgs.tick = 0 ∧ f ∈ t.mgs.standby
        ∧ (∀ k, k ∈ t.mgs.mgcs ↔ k < 3 ∧ k ∈ n) ∧ t.mgs.entropy = sources.take 2 ∧ t.mgs.spareSource = (sources.drop 2).head?
        ∧ (t.mgs.safeDefaults = true ↔ fu = .trimBad)
        ∧ t.tally = (if bad = 0 then s.tally else { s.tally with entropyFails := min 0xFFFFFFFF (s.tally.entropyFails + bad) })
        ∧ (∀ i, img = some i → let d := Config.fwDigest 80 i (s.fw.version i)
            t.fw.active = i ∧ t.fw.log = [.image 80 i d] ∧ t.mgs.cdi = hmac384 Config.uds d ∧ t.mgs.sealed = true)
        ∧ (img = none → t.fw.log = [] ∧ t.mgs.sealed = false)
        ∧ t = { s with mgs := t.mgs, fw := t.fw, gel := t.gel, tally := t.tally })
      ∧ (m.phase ≠ .off → Yields (exec (.standbyPowerGood f a b g n e fu) s) fun t =>
        (∀ k, k ∈ t.mgs.standby ↔ k = f ∨ k ∈ m.standby) ∧ t = { s with mgs := { m with standby := t.mgs.standby } }))
    ∧ (∀ f, f < 2 →
      (f ∈ m.standby → 2 ≤ m.standby.length → exec (.standbyFeedDrop f) s =
        .next ({ s with mgs := { m with standby := m.standby.filter fun k => k != f } }.event 0x0404 0x01FF 0xFFFF f))
      ∧ (f ∉ m.standby ∨ m.standby.length < 2 → exec (.standbyFeedDrop f) s = .next s))
    ∧ Yields (exec .standbyLoss s) (fun t =>
        t.mgs.phase = .off ∧ t.mgs.standby = [] ∧ t.mgs.debugTicks = 0 ∧ t.parts = [] ∧ t.net = [] ∧ t.gel.sessions = []
        ∧ (∀ k, t.core k = Core.reset) ∧ (∀ n, (t.mem n).keys = [] ∧ (t.flash n).keys = [])
        ∧ (∀ n, (t.arr n).mappedOut = (s.arr n).mappedOut ∧ (t.arr n).mapNext = (s.arr n).mapNext ∧ (t.arr n).remap = (s.arr n).remap)
        ∧ t.tune = s.tune ∧ t.tally = s.tally ∧ t.mgs.fuses = m.fuses ∧ t.mgs.saSite = m.saSite
        ∧ (∀ h, (t.port h).started = (s.port h).started ∧ (t.port h).completed = (s.port h).completed ∧ (t.port h).linkUp = false)
        ∧ ∀ b, t.bed b = if (s.bed b).state = .failedCore ∨ (s.bed b).state = .failedTransit then { s.bed b with reenabledAt := 0 }
            else { s.bed b with state := .sleep, freq := 0, fullTest := false, testing := false, reenabledAt := 0 })
    ∧ (∀ found, (m.feeds.length < 2 → exec (.borderPhaseStart found) s = .next s)
      ∧ (m.phase ≠ .standby → m.phase ≠ .released ∨ m.restartWaits = false → exec (.borderPhaseStart found) s = .next s)
      ∧ (2 ≤ m.feeds.length → m.phase = .standby ∨ m.phase = .released ∧ m.restartWaits = true ∧ s.allEnded = true →
          Yields (exec (.borderPhaseStart found) s) fun t =>
            let there := fun (x : Finding) => x ∈ found.found
            t.mgs.phase = (if there (.trellisPll 0) ∧ there (.trellisPll 1) then .held else .border)
            ∧ t.mgs.bordered = true ∧ t.mgs.restartWaits = false ∧ t.mgs.baseRoutes = false ∧ t.mgs.mapBad = found.mapBad.filter (· < 2)
            ∧ (∀ st, there (.station st) ∨ there (.stationPll st) ∨ there (.stationMonitor st) →
              (st < 40 → (t.mem st).state = 2) ∧ (40 ≤ st → st < 48 → (t.flash (st - 40)).state = 2)
              ∧ (48 ≤ st → st < 80 → (t.port (st - 48)).lost = true))
            ∧ (∀ st k, there (.stack st k) → st < 40 → (t.mem st).state = 2)
            ∧ (∀ n, there (.router n) → n < 1296 → (t.router n).failed = true ∧ n ∈ t.mgs.deadSites)
            ∧ (∀ h l, there (.serdes h l) → h < 32 → l < 16 → l ∈ (t.port h).badLanes)
            ∧ (∀ b, b < 36 → there (.bedMonitor b) ∨ there (.bedPll b) → (t.bed b).state = .failedCore ∨ (t.bed b).state = .failedTransit)
            ∧ (∀ b, b < 36 → ¬there (.bedMonitor b) → ¬there (.bedPll b) → (∀ rs, (b, rs) ∉ found.sensors) → (t.bed b).state =
                if (s.bed b).state = .failedCore ∨ (s.bed b).state = .failedTransit then (s.bed b).state else .sleep)
            ∧ (found.found = [] → found.sensors = [] → (∀ b, b < 36 → (s.bed b).excluded = []) →
                ∀ k ∈ [3, 4, 5, 6, 7, 8, 9, 10, 11, 12, 14, 15, 16, 17, 18], SMap.look 3 t.mgs.testResult k = 0)))
    ∧ exec .borderRelease s = .next (if m.phase = .border
        then { s with mgs := { m with
          phase := .released, releasedAt := if m.releasedAt = 0 then m.tick else m.releasedAt, baseRoutes := true, mapBad := [] } } else s)
    ∧ (∀ f, f < 3 → let left := m.feeds.filter fun k => k != f
      let counted := { s.tally with feedDrops := min 0xFFFFFFFF (s.tally.feedDrops + 1) }
      let dark := m.phase = .released ∧ left = [] ∨ m.phase = .border ∧ left.length < 2
      (f ∉ m.feeds → exec (.feedDrop f) s = .next s)
      ∧ (f ∈ m.feeds → ¬dark → exec (.feedDrop f) s =
          .next ({ s with mgs := { m with feeds := left }, tally := counted }.event 0x0403 0x01FF 0xFFFF f))
      ∧ (f ∈ m.feeds → dark → Yields (exec (.feedDrop f) s) fun t =>
          t.mgs.phase = .standby ∧ t.mgs.feeds = left ∧ t.net = []
          ∧ (∀ k, t.core k = Core.reset)
          ∧ ∀ p, p < 64 → (s.part p).state ≠ .none → (t.part p).state = .ended)
      ∧ Yields (exec (.feedReconnect f) s) fun t =>
          (∀ k, k ∈ t.mgs.feeds ↔ k = f ∨ k ∈ m.feeds) ∧ t = State.noted { s with mgs := { m with feeds := t.mgs.feeds } } s)
    ∧ (let changed := fun (k : Nat) (n : Mgs) => (Host.Outcome.next ({ s with mgs := n }.event 0x0405 0x01FF 0xFFFF k) : Answer)
      (m.refA = true → exec (.refLoss 0) s = changed 0 { m with refA := false, refBInUse := m.refBInUse || m.refB })
      ∧ (m.refB = true → exec (.refLoss 1) s = changed 1 { m with refB := false, refBInUse := m.refBInUse && !m.refA })
      ∧ (m.refA = false → exec (.referenceRestored 0) s = changed 0 { m with refA := true, refBInUse := m.refBInUse && m.refB })
      ∧ (m.refB = false → exec (.referenceRestored 1) s = changed 1 { m with refB := true, refBInUse := m.refBInUse || !m.refA })
      ∧ (m.refA = false → exec (.refLoss 0) s = .next s) ∧ (m.refB = false → exec (.refLoss 1) s = .next s)
      ∧ (m.refA = true → exec (.referenceRestored 0) s = .next s) ∧ (m.refB = true → exec (.referenceRestored 1) s = .next s)
      ∧ ∀ bad, exec (.trellisPllFailover bad) s = changed 2 { m with tpll := if bad = true then 2 else 1 })
    ∧ exec (.coolLeak false) s = .next { s with mgs := { m with coolLeak := false } }
    ∧ exec (.coolLeak true) s = .next ({ s with mgs := { m with coolLeak := true } }.event Config.leakCode 0x01FF 0xFFFF 0)
    ∧ ∀ v, exec (.commissionInput v) s = .next { s with mgs := { m with commission := v } }

/-- BRANCH_FAULT, CORE_RAIL_FAULT, BED_PLL_LOCK_LOSS, TRANSIT_RAIL_SHORT, TRANSIT_CONVERTER_FAIL, VOLTAGE_MONITOR_CHECK, BED_WAKE,
BED_AWAKE, BED_SLEEP, BED_FREQ_STEP, POWER_CONTROL_PERIOD, THERMAL_STEP, THERMAL_SENSOR_CHECK, BED_DRAIN, BED_DRAIN_DONE, BED_CRIT,
OFF_HEAT_RECOVER (R297, R298, R300-R304, R306-R309, R315, R316, R319, R327). The model's choice are that a converter failure counts in
BED_TRIPS (log entry 39), the results of tests 7 to 11 and that a free bed runs a FULL_TEST as WAKING (log entry 40), the PARAM of the
events (log entry 43), and that what a bed controller's switchover holds is given again (log entry 86). -/
def Obligations.BedsTripWakeDrainAndCool : Prop :=
  ∀ (s : State) (b : Nat), b < 36 → let d := s.bed b; let m := s.mgs
    let failed := fun (t : State) => (t.bed b).state = .failedCore ∨ (t.bed b).state = .failedTransit
    let ended := fun (t : State) => ∀ p ∈ s.bedParts b, (s.part p).state.live = true → (t.part p).state = .binding
    let crossed := fun (rs : List Int) (t : State) => let e := t.bed b
      e.sensors = rs
      ∧ (∀ i n, (i, n) ∈ e.excluded ↔ i < 4 ∧ (sensorPasses rs i = false ∧ n = 0
          ∨ sensorPasses rs i = true ∧ ∃ o, d.excluded.find? (fun o => o.1 == i) = some o ∧ o.2 + 1 < 60 ∧ n = o.2 + 1))
      ∧ (e.excluded.length = 3 → e.thermal = min d.thermal 700)
      ∧ (e.excluded.length = 4 → failed t)
    let held := s.switching 1 b = true
    let tests := { d with state := .waking, freq := 0, fullTest := false, testing := true }
    let lit := d.state = .waking ∨ d.state = .awake ∨ d.state = .draining
    (s.railsUp = true →
      (∀ blown, d.branch = true → Yields (exec (.branchFault b blown) s) fun t => failed t ∧ (t.bed b).branch = false ∧ (t.bed b).freq = 0
        ∧ (d.latched = true ∨ blown = true → (t.bed b).latched = true) ∧ ended t)
      ∧ (lit → ∀ c ∈ [Instr.coreRailFault b, .bedPllLockLoss b], Yields (exec c s) fun t =>
          (t.bed b).state = .failedCore ∧ (t.bed b).freq = 0 ∧ (t.bed b).trips = min 0xFFFF (d.trips + 1)
          ∧ (∀ o, o ≠ b → t.bed o = s.bed o) ∧ ended t)
      ∧ (¬lit → ∀ c ∈ [Instr.coreRailFault b, .bedPllLockLoss b], exec c s = .next s)
      ∧ (d.state ≠ .failedTransit → Yields (exec (.transitRailShort b) s) fun t =>
          (t.bed b).state = .failedTransit ∧ (∀ n, n < 1296 → bedOf n = b → (t.router n).dead = true) ∧ ended t)
      ∧ (d.converter = true →
          (∀ c, c < 36 → ∃ f ∈ feeders c, f ≠ b ∧ (s.bed f).converter = true ∧ (s.bed f).branch = true) →
          exec (.transitConverterFail b) s = .next ((s.setBed b { d with
            converter := false, trips := min 0xFFFF (d.trips + 1) }).event 0x0401 b 0xFFFF b))
      ∧ (d.monitor = true → Yields (exec (.voltageMonitorCheck [b]) s) fun t =>
          failed t ∧ (t.bed b).monitor = false ∧ (t.bed b).freq = 0 ∧ ended t)
      ∧ Yields (exec (.voltageMonitorCheck []) s) (fun t =>
          SMap.look 3 t.mgs.testResult 4 = 0 ∧ SMap.look 0 t.mgs.testRuns 4 = min 0xFFFFFFFF (SMap.look 0 m.testRuns 4 + 1) ∧ t = { s with mgs := t.mgs })
      ∧ exec (.bedWake b) s = .next (if d.state = .sleep then s.setBed b { d with state := .waking } else s)
      ∧ ∀ rs : List Int, rs.length = 4 → Yields (exec (.thermalSensorCheck b rs) s) (crossed rs))
    ∧ (s.railsUp = false → ∀ c ∈ [Instr.branchFault b true, .coreRailFault b, .bedPllLockLoss b, .transitRailShort b, .transitConverterFail b,
        .bedWake b, .voltageMonitorCheck [b], .thermalSensorCheck b [1, 2, 3, 4]], exec c s = .next s)
    ∧ (∀ w x y z : Int, sensorPasses [w, x, y, z] 0 = true ↔
        -60 ≤ w - max (min x y) (min (max x y) z) ∧ w - max (min x y) (min (max x y) z) ≤ 60)
    ∧ (held → ∀ l r, ∀ c ∈ [Instr.bedAwake b l r, .bedSleep b, .bedFreqStep b], exec c s = .next s)
    ∧ (d.state = .waking → ¬held → Yields (exec (.bedAwake b [] []) s) fun t =>
        let e := if d.testing = true ∧ s.bedFree b = true then { d with state := .sleep, freq := 0, testing := false }
          else { d with state := .awake, freq := 400, testing := false }
        t.bed b = (if d.fullTest = true ∧ s.bedFree b = true then tests else e)
        ∧ (∀ k ∈ [7, 8, 9, 10], SMap.look 3 t.mgs.testResult k = 0) ∧ SMap.look 3 t.mgs.testResult 11 = (if d.excluded = [] then 0 else 2)
        ∧ (∀ n, n ∈ t.mgs.spares ↔ if d.testing = true ∧ bedOf n = b then n < 1296 ∧ n ∉ m.deadSites ∧ s.arrayAt n = none
            else n ∈ m.spares)
        ∧ t = { s with beds := t.beds, mgs := t.mgs })
    ∧ (d.state = .waking → ¬held → ∀ rs : List Int, rs.length = 4 → Yields (exec (.bedAwake b [] rs) s) (crossed rs))
    ∧ (d.state = .waking → ¬held → ∀ r, Yields (exec (.bedAwake b [.bedPll b] r) s) fun t =>
        (t.bed b).state = .failedCore ∧ SMap.look 3 t.mgs.testResult 10 = 2 ∧ ended t)
    ∧ (∀ n y f, d.state = .waking → ¬held → d.testing = false → d.fullTest = false → n < 1200 → y < 24 → f < 25 → s.bedOfArr n = b →
        (∀ o ∈ (s.arr n).outAll, o / 25 ≠ y) → m.softEntries < 65535 → Yields (exec (.bedAwake b [.core n y f] []) s) fun t =>
          (t.arr n).mapNext = (s.arr n).mapNext ++ [25 * y + f] ∧ (t.arr n).mappedOut = (s.arr n).mappedOut
          ∧ t.mgs.softEntries = m.softEntries + 1
          ∧ t.bed b = { d with state := .awake, freq := 400 } ∧ SMap.look 3 t.mgs.testResult 7 = 1
          ∧ t = { s with arrays := t.arrays, beds := t.beds, mgs := t.mgs,
                         gel := (s.event 0x0201 (0x0200 + n) 0xFFFF (n + 2 ^ 16 * (25 * y + f))).gel })
    ∧ (d.state ≠ .waking → ∀ l r, exec (.bedAwake b l r) s = .next s)
    ∧ (¬held → exec (.bedSleep b) s = .next (if d.state = .awake ∧ s.bedFree b = true ∧ b ∉ s.class0Beds
        then s.setBed b { d with state := .sleep, freq := 0 } else s))
    ∧ (∀ goal, ¬held → (d.state = .draining → goal = 400)
        → (d.state = .awake → goal = if m.feeds.length ≤ 1 then 400 else min d.fmax (min d.thermal m.ceiling)) →
        exec (.bedFreqStep b) s = .next (if d.state = .awake ∨ d.state = .draining
          then s.setBed b { d with freq := if d.freq < goal then min goal (d.freq + 25) else max goal (d.freq - 25) } else s))
    ∧ (∀ (now cost : Nat) (i o : Int) (flow : Nat), Yields (exec (.powerControlPeriod now cost i o flow) s) fun t => let n := t.mgs
        let cap := t.powerCap
        (cap < now → n.ceiling = max 400 (m.ceiling - 25) ∧ n.below = 0)
        ∧ (now ≤ cap → cap ≤ now + cost → n.ceiling = m.ceiling ∧ n.below = 0)
        ∧ (now + cost < cap → m.below < 9 → n.ceiling = m.ceiling ∧ n.below = m.below + 1)
        ∧ (now + cost < cap → 9 ≤ m.below → n.ceiling = min 1100 (m.ceiling + 25) ∧ n.below = 0)
        ∧ n = { m with powerNow := now, coolIn := i, coolOut := o, coolFlow := flow, ceiling := n.ceiling, below := n.below }
        ∧ t = State.noted { s with mgs := n } s)
    ∧ (∀ rs : List Int, rs.length = 4 → Yields (exec (.thermalStep b rs) s) fun t => let e := t.bed b
        let temp := e.temp; let limit := s.tune.throttleT * 10
        let top := if e.passing.length ≤ 1 then 700 else 1100
        e.sensors = rs ∧ (d.state ≠ .awake → e.thermal = d.thermal)
        ∧ (d.state = .awake → e.thermal = if limit ≤ temp then max 400 (d.thermal - 25)
            else if temp ≤ limit - 50 then min top (d.thermal + 25) else d.thermal)
        ∧ e = { d with sensors := rs, thermal := e.thermal } ∧ (∀ o, o ≠ b → t.bed o = s.bed o) ∧ t = { s with beds := t.beds })
    ∧ (d.state = .awake → d.thermal = 400 → s.tune.drainT * 10 ≤ d.temp → Yields (exec (.bedDrain b) s) fun t =>
        (t.bed b).state = .draining ∧ ∀ p ∈ s.bedParts b, let q := s.part p
          (q.state = .running → q.commitPending = false → s.canScan p = true → (t.part p).state = .quiescing)
          ∧ (q.state = .running → q.commitPending = false → s.canScan p = false → (t.part p).state = .binding)
          ∧ (q.state = .created ∨ q.state = .ready ∨ q.state = .placed ∨ q.state = .resumable → (t.part p).state = .binding))
    ∧ (d.state ≠ .draining → d.state ≠ .awake ∨ d.thermal ≠ 400 ∨ d.temp < s.tune.drainT * 10 → exec (.bedDrain b) s = .next s)
    ∧ exec (.bedDrainDone b) s = .next (if d.state = .draining ∧ s.bedFree b = true
        then (s.setBed b { d with state := .offHeat, freq := 0 }).event 0x0402 b 0xFFFF b else s)
    ∧ (∀ temp : Int, (lit → 1100 ≤ temp → Yields (exec (.bedCrit b temp) s) fun t =>
          t.bed b = { d with state := .offHeat, freq := 0 } ∧ ended t)
        ∧ (¬lit ∨ temp < 1100 → exec (.bedCrit b temp) s = .next s))
    ∧ exec (.offHeatRecover b) s = .next (if d.state = .offHeat ∧ d.temp ≤ s.tune.throttleT * 10 - 100
        then (s.setBed b (if d.fullTest = true ∧ s.bedFree b = true then tests else { d with state := .sleep })).event 0x0402 b 0xFFFF b else s)

/-- PERIODIC_CHECK, ENTROPY_TEST_FAIL, KEY_STORE_BANK_FAIL, MGC_FAIL, ATTACH_ROUTER_FAIL, NAND_CHANNEL_FAIL (R17, R61, R90, R267, R270,
R317, R318, R321, R322, R325). That a station already out counts as a second failed NAND channel is the model's choice (log entry 51), and
so are the PARAM of a check's event (log entry 43) and that a switching controller cannot be outvoted (log entry 86). -/
def Obligations.ChecksAndLossesTakeUnitsOutOfService : Prop :=
  ∀ (s : State), let m := s.mgs
    let up := fun (n : Nat) => min 0xFFFFFFFF (n + 1)
    (∀ n, n < 1200 → let a := s.arr n
      (s.nextCheck n = true ↔ s.idleArr n = true ∧ (a.failedOnce = true ∨ ∀ o, o < 1200 → s.idleArr o = true →
        s.bedOfArr o = s.bedOfArr n → (s.arr o).failedOnce = false ∧ a.lastCheck ≤ (s.arr o).lastCheck))
      ∧ (∀ sk l, s.nextCheck n = false ∨ s.acceptsMarked n sk = false → exec (.periodicCheck n sk l) s = .next s)
      ∧ (∀ sk, s.nextCheck n = true → s.acceptsMarked n sk = true →
        let fresh := { a with mappedOut := a.mappedOut ++ a.mapNext, mapNext := [], lastCheck := m.tick }
        let zeroised := fun (t : State) => ∀ k, t.core k = if keyArr k = n then Core.reset else s.core k
        Yields (exec (.periodicCheck n sk []) s) (fun t =>
          t.arr n = { fresh with failedOnce := false } ∧ (∀ o, o ≠ n → t.arr o = s.arr o) ∧ zeroised t
          ∧ t.tally = { s.tally with checkRuns := up s.tally.checkRuns, checkFails := t.tally.checkFails } ∧ SMap.look 3 t.mgs.testResult 9 = 0
          ∧ t = { s with cores := t.cores, arrays := t.arrays, tally := t.tally, mgs := t.mgs })
        ∧ (∀ c fmt pat, c < 576 → let f := 25 * (c / 24) + fresh.column (c % 24) (c / 24)
          let r := exec (.periodicCheck n sk [⟨c, fmt, pat⟩]) s
          (a.failedOnce = false → m.softEntries < 65535 → (∀ o ∈ fresh.mappedOut, o / 25 ≠ c / 24) → Yields r fun t =>
              t.arr n = { fresh with failedOnce := true, mapNext := [f] } ∧ zeroised t
              ∧ t.gel = (s.event 0x0201 (0x0200 + n) 0xFFFF (n + 2 ^ 16 * f + 2 ^ 32 * fmt + 2 ^ 40 * pat)).gel
              ∧ t.mgs.softEntries = m.softEntries + 1 ∧ t.mgs.deadSites = m.deadSites ∧ t.tally.checkFails = up s.tally.checkFails)
          ∧ (a.failedOnce = true → Yields r fun t => s.siteOf n ∈ t.mgs.deadSites ∧ t.tally.checkFails = up s.tally.checkFails))))
    ∧ (∀ k, k < 3 → let counted := fun (n : Mgs) =>
        ({ s with mgs := n, tally := { s.tally with entropyFails := up s.tally.entropyFails } } : State).event 0x0502 0x01FF 0xFFFF k
      (k ∈ m.entropy → exec (.entropyTestFail k false) s = .next (counted { m with
          entropy := (m.entropy.filter fun j => j != k) ++ m.spareSource.toList, spareSource := none }))
      ∧ (k ∉ m.entropy → m.spareSource = some k → exec (.entropyTestFail k false) s = .next (counted { m with spareSource := none }))
      ∧ (k ∉ m.entropy → m.spareSource ≠ some k → exec (.entropyTestFail k false) s = .next s)
      ∧ (k ∈ m.entropy ∨ m.spareSource = some k ∨ m.phase = .off → exec (.entropyTestFail k true) s = .next s)
      ∧ (k ∉ m.entropy → m.spareSource ≠ some k → m.phase ≠ .off → Yields (exec (.entropyTestFail k true) s) fun t =>
          (m.entropy.length < 2 → t = { s with mgs := { m with entropy := t.mgs.entropy } }
            ∧ ∀ j, j ∈ t.mgs.entropy ↔ j = k ∨ j ∈ m.entropy)
          ∧ (2 ≤ m.entropy.length → t = { s with mgs := { m with spareSource := some k } })))
    ∧ (∀ k, k < 2 → let left := m.banks.filter fun j => j != k
      (k ∉ m.banks → exec (.keyStoreBankFail k) s = .next s)
      ∧ (k ∈ m.banks → left ≠ [] → exec (.keyStoreBankFail k) s =
          .next ({ s with mgs := { m with banks := left } }.event 0x0502 0x01FF 0xFFFF (3 + k)))
      ∧ (k ∈ m.banks → left = [] → Yields (exec (.keyStoreBankFail k) s) fun t => t.mgs.banks = [] ∧ (∀ p, (t.part p).prk = [])
          ∧ ∀ p, p < 64 → (s.part p).state.live = true →
            (t.part p).state = if (s.part p).conf = true then .binding else (s.part p).state))
    ∧ (∀ k, k < 3 → let left := m.mgcs.filter fun j => j != k
      let votes := k ∈ m.mgcs ∧ s.switching 0 k = false
      (¬votes → exec (.mgcFail k) s = .next s)
      ∧ (votes → left ≠ [] ∨ m.phase = .off → exec (.mgcFail k) s = .next (({ s with
          mgs := { m with mgcs := left }
          fw := { s.fw with pending := s.fw.pending.filter fun e => e != (0, k) } } : State).event 0x0501 0x01FF 0xFFFF k))
      ∧ (votes → left = [] → m.phase ≠ .off → Yields (exec (.mgcFail k) s) fun t =>
          t.mgs.phase = .held ∧ t.mgs.mgcs = [] ∧ t.net = []
          ∧ (∀ k, t.core k = Core.reset)))
    ∧ (∀ st, st < 80 → let site := attachSite st
      s.railsUp = true → (s.router site).failed = false → (s.router site).dead = false →
      Yields (exec (.attachRouterFail site) s) fun t =>
        (t.router site).dead = true ∧ (t.router site).failed = true ∧ site ∈ t.mgs.deadSites
        ∧ (st < 40 → (t.mem st).state = 2) ∧ (40 ≤ st → st < 48 → (t.flash (st - 40)).state = 2)
        ∧ (48 ≤ st → (t.port (st - 48)).lost = true))
    ∧ ∀ n c, n < 8 → c < 4 → let f := s.flash n
      let marked := (s.setFlash n { f with badChannels := f.badChannels ++ [c] }).event 0x0303 (0x0140 + n) 0xFFFF c
      (c ∈ f.badChannels → exec (.nandChannelFail n c) s = .next s)
      ∧ (c ∉ f.badChannels → (∀ o, o < 8 → o ≠ n → c ∉ (s.flash o).badChannels ∧ (s.flash o).state ≠ 2) →
          exec (.nandChannelFail n c) s = .next marked)
      ∧ (∀ o, c ∉ f.badChannels → o < 8 → o ≠ n → c ∈ (s.flash o).badChannels ∨ (s.flash o).state = 2 →
          Yields (exec (.nandChannelFail n c) s) fun t =>
            (t.flash n).state = 2 ∧ (t.flash n).badChannels = f.badChannels ++ [c] ∧ ∀ o, o ≠ n → t.flash o = s.flash o)
end

