-- ==== Sys2Proof/Laws/Maps.lean ====
section
/-!
SUPPORT. What reading a sparse table gives after each operation on it, and that every operation keeps the canonical form (log
entries 8, 9).
-/
namespace Sys2Proof

variable {α : Type}

/-! ## Reading after an operation -/

@[simp] theorem SMap.look_nil (d : α) (i : Nat) : SMap.look d [] i = d := rfl

theorem SMap.look_cons (d : α) (k : Nat) (v : α) (m : SMap α) (i : Nat) :
    SMap.look d ((k, v) :: m) i = if i = k then v else SMap.look d m i := rfl

theorem SMap.look_ins (d : α) (m : SMap α) (i j : Nat) (v : α) :
    SMap.look d (SMap.ins i v m) j = if j = i then v else SMap.look d m j := by
  induction m with
  | nil => rfl
  | cons e m ih =>
    obtain ⟨k, w⟩ := e
    simp only [SMap.ins]
    split
    · rfl
    · split
      · next h =>
        subst h
        simp only [SMap.look_cons]
        split <;> rfl
      · simp only [SMap.look_cons, ih]
        split <;> split <;> simp_all

theorem SMap.look_del (d : α) (m : SMap α) (i j : Nat) :
    SMap.look d (SMap.del i m) j = if j = i then d else SMap.look d m j := by
  induction m with
  | nil => simp [SMap.del]
  | cons e m ih =>
    obtain ⟨k, w⟩ := e
    simp only [SMap.del]
    split
    · next h =>
      subst h
      rw [ih, SMap.look_cons]
      split <;> rfl
    · simp only [SMap.look_cons, ih]
      split <;> split <;> simp_all

/-- Reading after one write. -/
theorem SMap.look_put [DecidableEq α] (d : α) (m : SMap α) (i j : Nat) (v : α) :
    SMap.look d (SMap.put d m i v) j = if j = i then v else SMap.look d m j := by
  unfold SMap.put
  split
  · next h => subst h; exact SMap.look_del v m i j
  · exact SMap.look_ins d m i j v

@[simp] theorem SMap.look_put_same [DecidableEq α] (d : α) (m : SMap α) (i : Nat) (v : α) :
    SMap.look d (SMap.put d m i v) i = v := by
  rw [SMap.look_put, if_pos rfl]

theorem SMap.look_put_other [DecidableEq α] (d : α) (m : SMap α) {i j : Nat} (v : α) (h : j ≠ i) :
    SMap.look d (SMap.put d m i v) j = SMap.look d m j := by
  rw [SMap.look_put, if_neg h]

/-- A run of writes leaves the keys outside it. -/
theorem SMap.look_putAll_other [DecidableEq α] (d : α) (m : SMap α) (i j : Nat) (vs : List α)
    (h : j < i ∨ i + vs.length ≤ j) : SMap.look d (SMap.putAll d m i vs) j = SMap.look d m j := by
  induction vs generalizing m i with
  | nil => rfl
  | cons v vs ih =>
    simp only [List.length_cons] at h
    rw [SMap.putAll, ih _ _ (by omega), SMap.look_put_other _ _ _ (by omega)]

/-- A run of writes gives its own keys its values. -/
theorem SMap.look_putAll_in [DecidableEq α] (d : α) (m : SMap α) (i k : Nat) (vs : List α) (h : k < vs.length) :
    SMap.look d (SMap.putAll d m i vs) (i + k) = nth d vs k := by
  induction vs generalizing m i k with
  | nil => simp at h
  | cons v vs ih =>
    rw [SMap.putAll]
    cases k with
    | zero => rw [SMap.look_putAll_other _ _ _ _ _ (by omega)]; simp [nth]
    | succ k =>
      have e : i + (k + 1) = i + 1 + k := by omega
      rw [e, ih _ _ _ (by simpa using h)]
      rfl

/-- Keys that a filter on keys keeps read as before, the others as the default. -/
theorem SMap.look_filter (d : α) (m : SMap α) (p : Nat → Bool) (i : Nat) :
    SMap.look d (m.filter fun e => p e.1) i = if p i then SMap.look d m i else d := by
  induction m with
  | nil => simp
  | cons e m ih =>
    obtain ⟨k, w⟩ := e
    simp only [List.filter_cons]
    by_cases hk : p k = true
    · rw [if_pos hk, SMap.look_cons, SMap.look_cons, ih]
      by_cases hi : i = k
      · simp [hi, hk]
      · simp [hi]
    · rw [if_neg hk, ih, SMap.look_cons]
      by_cases hi : i = k
      · simp [hi, hk]
      · simp [hi]

theorem SMap.look_clear (d : α) (m : SMap α) (i n j : Nat) :
    SMap.look d (SMap.clear m i n) j = if i ≤ j ∧ j < i + n then d else SMap.look d m j := by
  unfold SMap.clear
  rw [SMap.look_filter d m (fun k => decide (k < i) || decide (i + n ≤ k))]
  by_cases h : i ≤ j ∧ j < i + n
  · rw [if_pos h, if_neg]
    simp
    omega
  · rw [if_neg h, if_pos]
    simp
    omega

@[simp] theorem SMap.span_length (d : α) (m : SMap α) (i n : Nat) : (SMap.span d m i n).length = n := by
  simp [SMap.span]

theorem SMap.del_eq_filter (m : SMap α) (i : Nat) : SMap.del i m = m.filter fun e => decide (e.1 ≠ i) := by
  induction m with
  | nil => rfl
  | cons e m ih =>
    obtain ⟨k, w⟩ := e
    simp only [SMap.del, List.filter_cons, ih]
    by_cases h : i = k
    · simp [h]
    · simp [h, Ne.symm h]

/-! ## The canonical form (log entry 9) -/

section canonical
variable [DecidableEq α] (d : α)

@[simp] theorem SMap.wf_nil : SMap.wf d [] = true := rfl

theorem SMap.wfFrom_mono {m : SMap α} {a b : Nat} (h : SMap.wfFrom d b m = true) (hab : a ≤ b) :
    SMap.wfFrom d a m = true := by
  cases m with
  | nil => rfl
  | cons e m =>
    obtain ⟨k, w⟩ := e
    simp only [SMap.wfFrom, Bool.and_eq_true, decide_eq_true_eq] at h ⊢
    exact ⟨⟨by omega, h.1.2⟩, h.2⟩

/-- A key below the bound reads as the default. -/
theorem SMap.look_below {m : SMap α} {lo i : Nat} (h : SMap.wfFrom d lo m = true) (hi : i < lo) :
    SMap.look d m i = d := by
  induction m generalizing lo with
  | nil => rfl
  | cons e m ih =>
    obtain ⟨k, w⟩ := e
    simp only [SMap.wfFrom, Bool.and_eq_true, decide_eq_true_eq] at h
    rw [SMap.look_cons, if_neg (by omega)]
    exact ih h.2 (by omega)

theorem SMap.wfFrom_ins {m : SMap α} {lo i : Nat} {v : α} (h : SMap.wfFrom d lo m = true) (hv : v ≠ d) (hi : lo ≤ i) :
    SMap.wfFrom d lo (SMap.ins i v m) = true := by
  induction m generalizing lo with
  | nil => simp [SMap.ins, SMap.wfFrom, hv, hi]
  | cons e m ih =>
    obtain ⟨k, w⟩ := e
    simp only [SMap.wfFrom, Bool.and_eq_true, decide_eq_true_eq] at h
    simp only [SMap.ins]
    split
    · simp only [SMap.wfFrom, Bool.and_eq_true, decide_eq_true_eq]
      exact ⟨⟨hi, hv⟩, ⟨by omega, h.1.2⟩, h.2⟩
    · split
      · next e => subst e; simp only [SMap.wfFrom, Bool.and_eq_true, decide_eq_true_eq]; exact ⟨⟨hi, hv⟩, h.2⟩
      · simp only [SMap.wfFrom, Bool.and_eq_true, decide_eq_true_eq]
        exact ⟨h.1, ih h.2 (by omega)⟩

theorem SMap.wfFrom_filter {m : SMap α} {lo : Nat} (p : Nat × α → Bool) (h : SMap.wfFrom d lo m = true) :
    SMap.wfFrom d lo (m.filter p) = true := by
  induction m generalizing lo with
  | nil => rfl
  | cons e m ih =>
    obtain ⟨k, w⟩ := e
    simp only [SMap.wfFrom, Bool.and_eq_true, decide_eq_true_eq] at h
    rw [List.filter_cons]
    split
    · simp only [SMap.wfFrom, Bool.and_eq_true, decide_eq_true_eq]
      exact ⟨h.1, ih h.2⟩
    · exact SMap.wfFrom_mono d (ih h.2) (by omega)

theorem SMap.wfFrom_put {m : SMap α} {lo i : Nat} {v : α} (h : SMap.wfFrom d lo m = true) (hi : lo ≤ i) :
    SMap.wfFrom d lo (SMap.put d m i v) = true := by
  unfold SMap.put
  split
  · rw [SMap.del_eq_filter]; exact SMap.wfFrom_filter d _ h
  · next hv => exact SMap.wfFrom_ins d h hv hi

theorem SMap.wf_put {m : SMap α} (i : Nat) (v : α) (h : SMap.wf d m = true) : SMap.wf d (SMap.put d m i v) = true :=
  SMap.wfFrom_put d h (Nat.zero_le i)

theorem SMap.wf_putAll {m : SMap α} (i : Nat) (vs : List α) (h : SMap.wf d m = true) :
    SMap.wf d (SMap.putAll d m i vs) = true := by
  induction vs generalizing m i with
  | nil => exact h
  | cons v vs ih => exact ih _ (SMap.wf_put d i v h)

theorem SMap.wf_filter {m : SMap α} (p : Nat × α → Bool) (h : SMap.wf d m = true) : SMap.wf d (m.filter p) = true :=
  SMap.wfFrom_filter d p h

theorem SMap.wf_clear {m : SMap α} (i n : Nat) (h : SMap.wf d m = true) : SMap.wf d (SMap.clear m i n) = true :=
  SMap.wf_filter d _ h

theorem SMap.wfFrom_mapV {m : SMap α} {lo : Nat} (f : Nat → α → α) (h : SMap.wfFrom d lo m = true) :
    SMap.wfFrom d lo (SMap.mapV d f m) = true := by
  induction m generalizing lo with
  | nil => rfl
  | cons e m ih =>
    obtain ⟨k, w⟩ := e
    simp only [SMap.wfFrom, Bool.and_eq_true, decide_eq_true_eq] at h
    exact SMap.wfFrom_put d (SMap.wfFrom_mono d (ih h.2) (by omega)) h.1.1

theorem SMap.wf_mapV {m : SMap α} (f : Nat → α → α) (h : SMap.wf d m = true) : SMap.wf d (SMap.mapV d f m) = true :=
  SMap.wfFrom_mapV d f h

/-- Changing every value with a function that keeps the default. -/
theorem SMap.look_mapV (f : Nat → α → α) (hf : ∀ i, f i d = d) (m : SMap α) (i : Nat) :
    SMap.look d (SMap.mapV d f m) i = f i (SMap.look d m i) := by
  induction m with
  | nil => exact (hf i).symm
  | cons e m ih =>
    obtain ⟨k, w⟩ := e
    rw [SMap.mapV, SMap.look_put, SMap.look_cons, ih]
    split
    · next e => rw [e]
    · rfl

/-- Every listed entry of a canonical table is no default, and reading its key gives it. -/
theorem SMap.look_mem {m : SMap α} {k : Nat} {v : α} (h : SMap.wf d m = true) (hm : (k, v) ∈ m) :
    SMap.look d m k = v := by
  suffices ∀ lo, SMap.wfFrom d lo m = true → lo ≤ k ∧ SMap.look d m k = v from (this 0 h).2
  clear h
  induction m with
  | nil => simp at hm
  | cons e m ih =>
    intro lo h
    obtain ⟨k', w⟩ := e
    simp only [SMap.wfFrom, Bool.and_eq_true, decide_eq_true_eq] at h
    rcases List.mem_cons.mp hm with hm | hm
    · cases hm
      exact ⟨h.1.1, by rw [SMap.look_cons, if_pos rfl]⟩
    · have := ih hm _ h.2
      refine ⟨by omega, ?_⟩
      rw [SMap.look_cons, if_neg (by omega)]
      exact this.2

end canonical

/-- A write, and a run of writes, keep a memory's canonical form. -/
theorem Memory.wf_put {m : SMap Byte} (i : Nat) (v : Byte) (h : Memory.wf m = true) : Memory.wf (SMap.put 0 m i v) = true :=
  SMap.wf_put 0 i v h

theorem Memory.wf_putAll {m : SMap Byte} (i : Nat) (vs : List Byte) (h : Memory.wf m = true) :
    Memory.wf (SMap.putAll 0 m i vs) = true :=
  SMap.wf_putAll 0 i vs h

theorem Memory.wf_clear {m : SMap Byte} (i n : Nat) (h : Memory.wf m = true) : Memory.wf (SMap.clear m i n) = true :=
  SMap.wf_clear 0 i n h

end Sys2Proof
end

