-- ==== Sys2Proof/Laws/Keeps.lean ====
section
/-!
SUPPORT. The relation `State.Kept`: what every command keeps of the state (Safety). It composes, so each operation of the model has one
lemma `<operation>_kept`, and each meaning one that says it of its next state.
-/
namespace Sys2Proof.Machine

/-- What every command keeps: the queue, how far the log exceeds its bound, the fuses. -/
def State.Kept (s t : State) : Prop :=
  t.pending = s.pending ∧ (s.LogOk → t.LogOk) ∧ t.mgs.fuses = s.mgs.fuses ∧ (s.TablesOk → t.TablesOk)

theorem State.Kept.refl (s : State) : s.Kept s := ⟨rfl, id, rfl, id⟩

theorem State.Kept.ite {s0 a b : State} {c : Prop} [Decidable c] (ha : s0.Kept a) (hb : s0.Kept b) :
    s0.Kept (if c then a else b) := by
  split <;> assumption

theorem State.Kept.foldl {s0 t : State} {α : Type} {g : State → α → State} {l : List α}
    (hg : ∀ u x, s0.Kept u → s0.Kept (g u x)) (h : s0.Kept t) : s0.Kept (l.foldl g t) := by
  induction l generalizing t with
  | nil => exact h
  | cons a l ih => exact ih (hg t a h)

theorem State.Kept.foldl_fst {s0 : State} {α β : Type} {g : State × β → α → State × β} {l : List α} {t : State × β}
    (hg : ∀ u x, s0.Kept u.1 → s0.Kept (g u x).1) (h : s0.Kept t.1) : s0.Kept (l.foldl g t).1 := by
  induction l generalizing t with
  | nil => exact h
  | cons a l ih => exact ih (hg t a h)

theorem State.Kept.upd {s0 x t : State} (h : s0.Kept x) (hp : t.pending = x.pending) (hg : t.gel.log = x.gel.log)
    (hf : t.mgs.fuses = x.mgs.fuses) (ht : x.TablesOk → t.TablesOk) : s0.Kept t :=
  ⟨hp.trans h.1, fun hl => by unfold State.LogOk; rw [hg]; exact h.2.1 hl, hf.trans h.2.2.1, fun k => ht (h.2.2.2 k)⟩

theorem State.Kept.of_pair {s0 u : State} {α : Type} {p : State × α} {a : α} (e : p = (u, a)) (h : s0.Kept p.1) : s0.Kept u := by
  subst e
  exact h

theorem State.Kept.mk {s0 x : State} {c a n i r m f v p q b ge tu ta mg fw o d}
    (h : s0.Kept x) (hg : Gel.log ge = x.gel.log) (hf : Mgs.fuses mg = x.mgs.fuses)
    (t1 : SMap.wf Core.reset x.cores = true → SMap.wf Core.reset c = true)
    (t2 : SMap.wf Arr.reset x.arrays = true → SMap.wf Arr.reset a = true)
    (t3 : SMap.wf Router.reset x.routers = true → SMap.wf Router.reset r = true)
    (t4 : SMap.wf Ms.reset x.ms = true → SMap.wf Ms.reset m = true)
    (t5 : SMap.wf Fs.reset x.fs = true → SMap.wf Fs.reset f = true)
    (t6 : SMap.wf none x.volumes = true → SMap.wf none v = true)
    (t7 : SMap.wf Part.reset x.parts = true → SMap.wf Part.reset p = true)
    (t8 : SMap.wf Port.reset x.ports = true → SMap.wf Port.reset q = true)
    (t9 : SMap.wf Bed.reset x.beds = true → SMap.wf Bed.reset b = true) :
    s0.Kept (State.mk x.pending c a n i r m f v p q b ge tu ta mg fw o d) :=
  State.Kept.upd h rfl hg hf fun k => ⟨t1 k.1, t2 k.2.1, t3 k.2.2.1, t4 k.2.2.2.1, t5 k.2.2.2.2.1, t6 k.2.2.2.2.2.1,
    t7 k.2.2.2.2.2.2.1, t8 k.2.2.2.2.2.2.2.1, t9 k.2.2.2.2.2.2.2.2⟩

theorem State.Kept.mk0 {s0 x : State} {n i ge tu ta mg fw o d}
    (h : s0.Kept x) (hg : Gel.log ge = x.gel.log) (hf : Mgs.fuses mg = x.mgs.fuses) :
    s0.Kept (State.mk x.pending x.cores x.arrays n i x.routers x.ms x.fs x.volumes x.parts x.ports x.beds ge tu ta mg fw o d) :=
  State.Kept.upd h rfl hg hf id

theorem Mgs.drbgServe_fuses {m n : Mgs} (h : m.drbgServe = some n) : n.fuses = m.fuses := by
  unfold Mgs.drbgServe at h
  split at h
  · cases h
    rfl
  · split at h
    · cases h
    · cases h
      rfl

theorem Mgs.drbg_getD_fuses (m : Mgs) : (m.drbgServe.getD m).fuses = m.fuses := by
  cases h : m.drbgServe with
  | none => rfl
  | some n => exact Mgs.drbgServe_fuses h

theorem Mgs.pickRef_fuses (m : Mgs) : m.pickRef.fuses = m.fuses := by
  unfold Mgs.pickRef
  repeat' first | rfl | split

theorem Mgs.setRef_fuses (m : Mgs) (r : Nat) (b : Bool) : (m.setRef r b).fuses = m.fuses := by
  unfold Mgs.setRef
  repeat' first | rfl | split

theorem State.event_kept {s0 : State} (s : State) (code source part param : Nat) (h0 : s0.Kept s) :
    s0.Kept (s.event code source part param) := by
  refine ⟨h0.1, ?_, h0.2.2⟩
  intro hl
  have hs := h0.2.1 hl
  unfold State.LogOk at hs ⊢
  by_cases hf : s.gel.log.length ≥ 65536
  · simp [State.event, hf]
    omega
  · simp [State.event, hf]
    omega

theorem guardUnit_kept {s0 t u : State} {ok : Bool} (h : s0.Kept t) (e : guardUnit ok t = .next u) : s0.Kept u := by
  unfold guardUnit at e
  split at e
  · cases e
    exact h
  · cases e

end Sys2Proof.Machine
end

