-- ==== Sys2Proof/Laws/KeepsCore.lean ====
section
/-!
SUPPORT. `_kept` lemmas (Laws/Keeps) of the operations on cores: slots, channels, the mesh and the trellis.
-/
namespace Sys2Proof.Machine

theorem State.setPart_kept {s0 : State} (s : State) (n : Nat) (p : Part) (h0 : s0.Kept s) :
    s0.Kept (State.setPart s n p) := by
  unfold State.setPart
  try dsimp only
  repeat' first
    | with_reducible assumption
    | fail_if_no_progress (with_reducible refine State.Kept.mk ?_ rfl rfl ?_ ?_ ?_ ?_ ?_ ?_ ?_ ?_ ?_ <;>
        first | with_reducible exact id | (with_reducible exact fun k => SMap.wf_put _ _ _ k)
              | (with_reducible exact fun k => SMap.wf_filter _ _ k) | (with_reducible exact fun k => SMap.wf_mapV _ _ k)
              | (with_reducible exact fun _ => SMap.wf_nil _) | skip)

theorem mapRouters_kept {s0 : State} (s : State) (f : Router → Router) (h0 : s0.Kept s) :
    s0.Kept (mapRouters s f) := by
  unfold mapRouters
  try dsimp only
  repeat' first
    | with_reducible assumption
    | fail_if_no_progress (with_reducible refine State.Kept.mk ?_ rfl rfl ?_ ?_ ?_ ?_ ?_ ?_ ?_ ?_ ?_ <;>
        first | with_reducible exact id | (with_reducible exact fun k => SMap.wf_put _ _ _ k)
              | (with_reducible exact fun k => SMap.wf_filter _ _ k) | (with_reducible exact fun k => SMap.wf_mapV _ _ k)
              | (with_reducible exact fun _ => SMap.wf_nil _) | skip)

theorem State.setPort_kept {s0 : State} (s : State) (n : Nat) (p : Port) (h0 : s0.Kept s) :
    s0.Kept (State.setPort s n p) := by
  unfold State.setPort
  try dsimp only
  repeat' first
    | with_reducible assumption
    | fail_if_no_progress (with_reducible refine State.Kept.mk ?_ rfl rfl ?_ ?_ ?_ ?_ ?_ ?_ ?_ ?_ ?_ <;>
        first | with_reducible exact id | (with_reducible exact fun k => SMap.wf_put _ _ _ k)
              | (with_reducible exact fun k => SMap.wf_filter _ _ k) | (with_reducible exact fun k => SMap.wf_mapV _ _ k)
              | (with_reducible exact fun _ => SMap.wf_nil _) | skip)

theorem mapPorts_kept {s0 : State} (s : State) (f : Port → Port) (h0 : s0.Kept s) :
    s0.Kept (mapPorts s f) := by
  unfold mapPorts
  try dsimp only
  repeat' first
    | with_reducible assumption
    | fail_if_no_progress (with_reducible refine State.Kept.mk ?_ rfl rfl ?_ ?_ ?_ ?_ ?_ ?_ ?_ ?_ ?_ <;>
        first | with_reducible exact id | (with_reducible exact fun k => SMap.wf_put _ _ _ k)
              | (with_reducible exact fun k => SMap.wf_filter _ _ k) | (with_reducible exact fun k => SMap.wf_mapV _ _ k)
              | (with_reducible exact fun _ => SMap.wf_nil _) | skip)

theorem mapCores_kept {s0 : State} (s : State) (sas : List Nat) (f : Core → Core) (h0 : s0.Kept s) :
    s0.Kept (mapCores s sas f) := by
  unfold mapCores
  try dsimp only
  repeat' first
    | with_reducible assumption
    | fail_if_no_progress (with_reducible refine State.Kept.mk ?_ rfl rfl ?_ ?_ ?_ ?_ ?_ ?_ ?_ ?_ ?_ <;>
        first | with_reducible exact id | (with_reducible exact fun k => SMap.wf_put _ _ _ k)
              | (with_reducible exact fun k => SMap.wf_filter _ _ k) | (with_reducible exact fun k => SMap.wf_mapV _ _ k)
              | (with_reducible exact fun _ => SMap.wf_nil _) | skip)
    | with_reducible refine State.Kept.ite ?_ ?_
    | split

theorem mapMs_kept {s0 : State} (s : State) (f : Ms → Ms) (h0 : s0.Kept s) :
    s0.Kept (mapMs s f) := by
  unfold mapMs
  try dsimp only
  repeat' first
    | with_reducible assumption
    | fail_if_no_progress (with_reducible refine State.Kept.mk ?_ rfl rfl ?_ ?_ ?_ ?_ ?_ ?_ ?_ ?_ ?_ <;>
        first | with_reducible exact id | (with_reducible exact fun k => SMap.wf_put _ _ _ k)
              | (with_reducible exact fun k => SMap.wf_filter _ _ k) | (with_reducible exact fun k => SMap.wf_mapV _ _ k)
              | (with_reducible exact fun _ => SMap.wf_nil _) | skip)

theorem flushTokens_kept {s0 : State} (s : State) (p : Nat) (old : Nat → Bool) (h0 : s0.Kept s) :
    s0.Kept (flushTokens s p old).1 := by
  unfold flushTokens
  try dsimp only
  repeat' first
    | with_reducible assumption
    | with_reducible apply mapRouters_kept
    | with_reducible apply State.setPort_kept
    | with_reducible apply mapPorts_kept
    | with_reducible apply mapCores_kept
    | with_reducible apply mapMs_kept
    | fail_if_no_progress with_reducible refine State.Kept.mk0 ?_ rfl rfl
    | with_reducible refine State.Kept.ite ?_ ?_
    | with_reducible refine State.Kept.foldl ?_ ?_
    | with_reducible refine State.Kept.foldl_fst ?_ ?_
    | split
    | (intro; try dsimp only)

theorem State.setCore_kept {s0 : State} (s : State) (k : Nat) (c : Core) (h0 : s0.Kept s) :
    s0.Kept (State.setCore s k c) := by
  unfold State.setCore
  try dsimp only
  repeat' first
    | with_reducible assumption
    | fail_if_no_progress (with_reducible refine State.Kept.mk ?_ rfl rfl ?_ ?_ ?_ ?_ ?_ ?_ ?_ ?_ ?_ <;>
        first | with_reducible exact id | (with_reducible exact fun k => SMap.wf_put _ _ _ k)
              | (with_reducible exact fun k => SMap.wf_filter _ _ k) | (with_reducible exact fun k => SMap.wf_mapV _ _ k)
              | (with_reducible exact fun _ => SMap.wf_nil _) | skip)

theorem State.restoreShadows_kept {s0 : State} (s : State) (p : Nat) (scratched : List Nat) (h0 : s0.Kept s) :
    s0.Kept (State.restoreShadows s p scratched) := by
  unfold State.restoreShadows
  try dsimp only
  repeat' first
    | with_reducible assumption
    | with_reducible apply State.setPart_kept
    | with_reducible apply mapCores_kept
    | with_reducible apply State.setCore_kept
    | fail_if_no_progress with_reducible refine State.Kept.mk0 ?_ rfl rfl
    | with_reducible refine State.Kept.foldl ?_ ?_
    | with_reducible refine State.Kept.foldl_fst ?_ ?_
    | (intro; try dsimp only)

theorem State.setLoader_kept {s0 : State} (s : State) (h : Nat) (l : Loader) (h0 : s0.Kept s) :
    s0.Kept (State.setLoader s h l) := by
  unfold State.setLoader
  try dsimp only
  repeat' first
    | with_reducible assumption
    | with_reducible apply State.setPort_kept
    | fail_if_no_progress with_reducible refine State.Kept.mk0 ?_ rfl rfl

theorem State.countReject_kept {s0 : State} (s : State) (h0 : s0.Kept s) :
    s0.Kept (State.countReject s) := by
  unfold State.countReject
  try dsimp only
  repeat' first
    | with_reducible assumption
    | fail_if_no_progress with_reducible refine State.Kept.mk0 ?_ rfl rfl

theorem State.endLoad_kept {s0 : State} (s : State) (h : Nat) (reason : Nat) (frame : Nat) (h0 : s0.Kept s) :
    s0.Kept (State.endLoad s h reason frame) := by
  unfold State.endLoad
  try dsimp only
  repeat' first
    | with_reducible assumption
    | with_reducible apply State.setPart_kept
    | with_reducible apply State.restoreShadows_kept
    | with_reducible apply State.setLoader_kept
    | with_reducible apply State.countReject_kept
    | fail_if_no_progress with_reducible refine State.Kept.mk0 ?_ rfl rfl

theorem abortLoads_kept {s0 : State} (s : State) (p : Nat) (h0 : s0.Kept s) :
    s0.Kept (abortLoads s p) := by
  unfold abortLoads
  try dsimp only
  repeat' first
    | with_reducible assumption
    | with_reducible apply State.endLoad_kept
    | fail_if_no_progress with_reducible refine State.Kept.mk0 ?_ rfl rfl
    | split

theorem State.setArr_kept {s0 : State} (s : State) (n : Nat) (a : Arr) (h0 : s0.Kept s) :
    s0.Kept (State.setArr s n a) := by
  unfold State.setArr
  try dsimp only
  repeat' first
    | with_reducible assumption
    | fail_if_no_progress (with_reducible refine State.Kept.mk ?_ rfl rfl ?_ ?_ ?_ ?_ ?_ ?_ ?_ ?_ ?_ <;>
        first | with_reducible exact id | (with_reducible exact fun k => SMap.wf_put _ _ _ k)
              | (with_reducible exact fun k => SMap.wf_filter _ _ k) | (with_reducible exact fun k => SMap.wf_mapV _ _ k)
              | (with_reducible exact fun _ => SMap.wf_nil _) | skip)

theorem freezeAll_kept {s0 : State} (s : State) (why : Freeze) (a2 : List Nat) (h0 : s0.Kept s) :
    s0.Kept (freezeAll s why a2) := by
  induction a2 generalizing s why h0 with
  | nil =>
    unfold freezeAll
    try dsimp only
    repeat' first
      | with_reducible assumption
      | with_reducible apply ih
      | with_reducible apply State.setArr_kept
      | fail_if_no_progress with_reducible refine State.Kept.mk0 ?_ rfl rfl
      | split
  | cons x xs ih =>
    unfold freezeAll
    try dsimp only
    repeat' first
      | with_reducible assumption
      | with_reducible apply ih
      | with_reducible apply State.setArr_kept
      | fail_if_no_progress with_reducible refine State.Kept.mk0 ?_ rfl rfl
      | split

theorem State.gather_kept {s0 : State} (s : State) (p : Nat) (h0 : s0.Kept s) :
    s0.Kept (State.gather s p) := by
  unfold State.gather
  try dsimp only
  repeat' first
    | with_reducible assumption
    | with_reducible apply State.setPart_kept
    | fail_if_no_progress with_reducible refine State.Kept.mk0 ?_ rfl rfl
    | with_reducible refine State.Kept.foldl ?_ ?_
    | with_reducible refine State.Kept.foldl_fst ?_ ?_
    | (intro; try dsimp only)

theorem startBindOff_kept {s0 : State} (s : State) (p : Nat) (why : Freeze) (torn : Bool) (h0 : s0.Kept s) :
    s0.Kept (startBindOff s p why torn) := by
  unfold startBindOff
  try dsimp only
  repeat' first
    | with_reducible assumption
    | with_reducible apply State.setPart_kept
    | with_reducible apply flushTokens_kept
    | with_reducible apply abortLoads_kept
    | with_reducible apply mapMs_kept
    | with_reducible apply freezeAll_kept
    | with_reducible apply State.gather_kept
    | fail_if_no_progress (with_reducible refine State.Kept.mk ?_ rfl rfl ?_ ?_ ?_ ?_ ?_ ?_ ?_ ?_ ?_ <;>
        first | with_reducible exact id | (with_reducible exact fun k => SMap.wf_put _ _ _ k)
              | (with_reducible exact fun k => SMap.wf_filter _ _ k) | (with_reducible exact fun k => SMap.wf_mapV _ _ k)
              | (with_reducible exact fun _ => SMap.wf_nil _) | skip)
    | with_reducible refine State.Kept.ite ?_ ?_
    | with_reducible refine State.Kept.of_pair ‹_› ?_
    | split

theorem faultPart_kept {s0 : State} (s : State) (p : Nat) (f : FaultInfo) (h0 : s0.Kept s) :
    s0.Kept (faultPart s p f) := by
  unfold faultPart
  try dsimp only
  repeat' first
    | with_reducible assumption
    | with_reducible apply State.setPart_kept
    | with_reducible apply startBindOff_kept
    | with_reducible apply State.event_kept
    | fail_if_no_progress with_reducible refine State.Kept.mk0 ?_ rfl rfl
    | with_reducible refine State.Kept.ite ?_ ?_
    | split

theorem stationFault_kept {s0 : State} (s : State) (p : Nat) (cause : Nat) (station : Nat) (region : Nat) (offset : Nat) (h0 : s0.Kept s) :
    s0.Kept (stationFault s p cause station region offset) := by
  unfold stationFault
  try dsimp only
  repeat' first
    | with_reducible assumption
    | with_reducible apply faultPart_kept
    | fail_if_no_progress with_reducible refine State.Kept.mk0 ?_ rfl rfl

theorem State.setVolume_kept {s0 : State} (s : State) (n : Nat) (v : Option Volume) (h0 : s0.Kept s) :
    s0.Kept (State.setVolume s n v) := by
  unfold State.setVolume
  try dsimp only
  repeat' first
    | with_reducible assumption
    | fail_if_no_progress (with_reducible refine State.Kept.mk ?_ rfl rfl ?_ ?_ ?_ ?_ ?_ ?_ ?_ ?_ ?_ <;>
        first | with_reducible exact id | (with_reducible exact fun k => SMap.wf_put _ _ _ k)
              | (with_reducible exact fun k => SMap.wf_filter _ _ k) | (with_reducible exact fun k => SMap.wf_mapV _ _ k)
              | (with_reducible exact fun _ => SMap.wf_nil _) | skip)

theorem State.setMem_kept {s0 : State} (s : State) (n : Nat) (m : Ms) (h0 : s0.Kept s) :
    s0.Kept (State.setMem s n m) := by
  unfold State.setMem
  try dsimp only
  repeat' first
    | with_reducible assumption
    | fail_if_no_progress (with_reducible refine State.Kept.mk ?_ rfl rfl ?_ ?_ ?_ ?_ ?_ ?_ ?_ ?_ ?_ <;>
        first | with_reducible exact id | (with_reducible exact fun k => SMap.wf_put _ _ _ k)
              | (with_reducible exact fun k => SMap.wf_filter _ _ k) | (with_reducible exact fun k => SMap.wf_mapV _ _ k)
              | (with_reducible exact fun _ => SMap.wf_nil _) | skip)

theorem State.readOver_kept {s0 : State} (s : State) (h : Nat) (rid : Nat) (bs : Option (List Byte)) (status : Nat) (h0 : s0.Kept s) :
    s0.Kept (State.readOver s h rid bs status) := by
  unfold State.readOver
  try dsimp only
  repeat' first
    | with_reducible assumption
    | with_reducible apply State.setPort_kept
    | fail_if_no_progress with_reducible refine State.Kept.mk0 ?_ rfl rfl

theorem State.hostOver_kept {s0 : State} (s : State) (h : Nat) (rid : Nat) (status : Nat) (h0 : s0.Kept s) :
    s0.Kept (State.hostOver s h rid status) := by
  unfold State.hostOver
  try dsimp only
  repeat' first
    | with_reducible assumption
    | with_reducible apply State.setPort_kept
    | fail_if_no_progress with_reducible refine State.Kept.mk0 ?_ rfl rfl
    | with_reducible refine State.Kept.ite ?_ ?_
    | split

theorem State.dropHost_kept {s0 : State} (s : State) (sel : Nat → Request → Bool) (status : Nat) (h0 : s0.Kept s) :
    s0.Kept (State.dropHost s sel status) := by
  unfold State.dropHost
  try dsimp only
  repeat' first
    | with_reducible assumption
    | with_reducible apply State.readOver_kept
    | with_reducible apply State.hostOver_kept
    | with_reducible apply mapMs_kept
    | fail_if_no_progress with_reducible refine State.Kept.mk0 ?_ rfl rfl
    | with_reducible refine State.Kept.ite ?_ ?_
    | with_reducible refine State.Kept.foldl ?_ ?_
    | with_reducible refine State.Kept.foldl_fst ?_ ?_
    | split
    | (intro; try dsimp only)

theorem State.inject_kept {s0 : State} (s : State) (part : Nat) (cls : Nat) (epoch : Nat) (loc : Loc) (entry : Nat) (body : Body) (h0 : s0.Kept s) :
    s0.Kept (State.inject s part cls epoch loc entry body) := by
  unfold State.inject
  try dsimp only
  repeat' first
    | with_reducible assumption
    | fail_if_no_progress with_reducible refine State.Kept.mk0 ?_ rfl rfl

theorem State.writeRegion_kept {s0 : State} (s : State) (p : Nat) (r : Nat) (o : Nat) (a4 : List Byte) (h0 : s0.Kept s) :
    s0.Kept (State.writeRegion s p r o a4) := by
  induction a4 generalizing s p r o h0 with
  | nil =>
    unfold State.writeRegion
    try dsimp only
    repeat' first
      | with_reducible assumption
      | with_reducible apply ih
      | with_reducible apply State.setMem_kept
      | fail_if_no_progress with_reducible refine State.Kept.mk0 ?_ rfl rfl
      | split
  | cons x xs ih =>
    unfold State.writeRegion
    try dsimp only
    repeat' first
      | with_reducible assumption
      | with_reducible apply ih
      | with_reducible apply State.setMem_kept
      | fail_if_no_progress with_reducible refine State.Kept.mk0 ?_ rfl rfl
      | split

theorem streamFault_kept {s0 : State} (s : State) (p : Nat) (cause : Nat) (station : Nat) (region : Nat) (offset : Nat) (sa : Nat) (x : Nat) (y : Nat) (h0 : s0.Kept s) :
    s0.Kept (streamFault s p cause station region offset sa x y) := by
  unfold streamFault
  try dsimp only
  repeat' first
    | with_reducible assumption
    | with_reducible apply faultPart_kept
    | fail_if_no_progress with_reducible refine State.Kept.mk0 ?_ rfl rfl

theorem faultArr_kept {s0 : State} (s : State) (sa : Nat) (f : FaultInfo) (h0 : s0.Kept s) :
    s0.Kept (faultArr s sa f) := by
  unfold faultArr
  try dsimp only
  repeat' first
    | with_reducible assumption
    | with_reducible apply faultPart_kept
    | fail_if_no_progress with_reducible refine State.Kept.mk0 ?_ rfl rfl
    | split

theorem State.stirPart_kept {s0 : State} (s : State) (p : Nat) (h0 : s0.Kept s) :
    s0.Kept (State.stirPart s p) := by
  unfold State.stirPart
  try dsimp only
  repeat' first
    | with_reducible assumption
    | with_reducible apply State.setPart_kept
    | fail_if_no_progress with_reducible refine State.Kept.mk0 ?_ rfl rfl

theorem State.stir_kept {s0 : State} (s : State) (sa : Nat) (h0 : s0.Kept s) :
    s0.Kept (State.stir s sa) := by
  unfold State.stir
  try dsimp only
  repeat' first
    | with_reducible assumption
    | with_reducible apply State.stirPart_kept
    | fail_if_no_progress with_reducible refine State.Kept.mk0 ?_ rfl rfl
    | split

theorem State.setBed_kept {s0 : State} (s : State) (n : Nat) (b : Bed) (h0 : s0.Kept s) :
    s0.Kept (State.setBed s n b) := by
  unfold State.setBed
  try dsimp only
  repeat' first
    | with_reducible assumption
    | fail_if_no_progress (with_reducible refine State.Kept.mk ?_ rfl rfl ?_ ?_ ?_ ?_ ?_ ?_ ?_ ?_ ?_ <;>
        first | with_reducible exact id | (with_reducible exact fun k => SMap.wf_put _ _ _ k)
              | (with_reducible exact fun k => SMap.wf_filter _ _ k) | (with_reducible exact fun k => SMap.wf_mapV _ _ k)
              | (with_reducible exact fun _ => SMap.wf_nil _) | skip)

theorem State.noted_kept {s0 : State} (s : State) (old : State) (h0 : s0.Kept s) :
    s0.Kept (State.noted s old) := by
  unfold State.noted
  try dsimp only
  repeat' first
    | with_reducible assumption
    | with_reducible apply State.event_kept
    | fail_if_no_progress with_reducible refine State.Kept.mk0 ?_ rfl rfl
    | with_reducible refine State.Kept.ite ?_ ?_
    | split

theorem mapParts_kept {s0 : State} (s : State) (f : Nat → Part → Part) (h0 : s0.Kept s) :
    s0.Kept (mapParts s f) := by
  unfold mapParts
  try dsimp only
  repeat' first
    | with_reducible assumption
    | fail_if_no_progress (with_reducible refine State.Kept.mk ?_ rfl rfl ?_ ?_ ?_ ?_ ?_ ?_ ?_ ?_ ?_ <;>
        first | with_reducible exact id | (with_reducible exact fun k => SMap.wf_put _ _ _ k)
              | (with_reducible exact fun k => SMap.wf_filter _ _ k) | (with_reducible exact fun k => SMap.wf_mapV _ _ k)
              | (with_reducible exact fun _ => SMap.wf_nil _) | skip)

theorem State.addSoft_kept {s0 : State} (s : State) (h0 : s0.Kept s) :
    s0.Kept (State.addSoft s) := by
  unfold State.addSoft
  try dsimp only
  repeat' first
    | with_reducible assumption
    | with_reducible apply State.event_kept
    | fail_if_no_progress with_reducible refine State.Kept.mk0 ?_ rfl rfl
    | with_reducible refine State.Kept.ite ?_ ?_
    | split

theorem State.injectFor_kept {s0 : State} (s : State) (p : Nat) (loc : Loc) (entry : Nat) (body : Body) (h0 : s0.Kept s) :
    s0.Kept (State.injectFor s p loc entry body) := by
  unfold State.injectFor
  try dsimp only
  repeat' first
    | with_reducible assumption
    | with_reducible apply State.inject_kept
    | fail_if_no_progress with_reducible refine State.Kept.mk0 ?_ rfl rfl

theorem State.consume_kept {s0 : State} (s : State) (id : Nat) (h0 : s0.Kept s) :
    s0.Kept (State.consume s id) := by
  unfold State.consume
  try dsimp only
  repeat' first
    | with_reducible assumption
    | fail_if_no_progress with_reducible refine State.Kept.mk0 ?_ rfl rfl

theorem State.moveSite_kept {s0 : State} (s : State) (n : Nat) (h0 : s0.Kept s) :
    s0.Kept (State.moveSite s n) := by
  unfold State.moveSite
  try dsimp only
  repeat' first
    | with_reducible assumption
    | with_reducible apply State.addSoft_kept
    | with_reducible apply State.event_kept
    | fail_if_no_progress (with_reducible refine State.Kept.mk ?_ rfl rfl ?_ ?_ ?_ ?_ ?_ ?_ ?_ ?_ ?_ <;>
        first | with_reducible exact id | (with_reducible exact fun k => SMap.wf_put _ _ _ k)
              | (with_reducible exact fun k => SMap.wf_filter _ _ k) | (with_reducible exact fun k => SMap.wf_mapV _ _ k)
              | (with_reducible exact fun _ => SMap.wf_nil _) | skip)
    | split

theorem State.moveDead_kept {s0 : State} (s : State) (a1 : List Nat) (h0 : s0.Kept s) :
    s0.Kept (State.moveDead s a1) := by
  induction a1 generalizing s h0 with
  | nil =>
    unfold State.moveDead
    try dsimp only
    repeat' first
      | with_reducible assumption
      | with_reducible apply ih
      | with_reducible apply State.moveSite_kept
      | fail_if_no_progress with_reducible refine State.Kept.mk0 ?_ rfl rfl
      | with_reducible refine State.Kept.ite ?_ ?_
      | split
  | cons x xs ih =>
    unfold State.moveDead
    try dsimp only
    repeat' first
      | with_reducible assumption
      | with_reducible apply ih
      | with_reducible apply State.moveSite_kept
      | fail_if_no_progress with_reducible refine State.Kept.mk0 ?_ rfl rfl
      | with_reducible refine State.Kept.ite ?_ ?_
      | split

theorem State.leaveSite_kept {s0 : State} (s : State) (site : Nat) (sas : List Nat) (h0 : s0.Kept s) :
    s0.Kept (State.leaveSite s site sas) := by
  unfold State.leaveSite
  try dsimp only
  repeat' first
    | with_reducible assumption
    | with_reducible apply State.moveDead_kept
    | with_reducible apply State.event_kept
    | fail_if_no_progress with_reducible refine State.Kept.mk0 ?_ rfl rfl
    | with_reducible refine State.Kept.ite ?_ ?_
    | split

theorem State.setFlash_kept {s0 : State} (s : State) (n : Nat) (f : Fs) (h0 : s0.Kept s) :
    s0.Kept (State.setFlash s n f) := by
  unfold State.setFlash
  try dsimp only
  repeat' first
    | with_reducible assumption
    | fail_if_no_progress (with_reducible refine State.Kept.mk ?_ rfl rfl ?_ ?_ ?_ ?_ ?_ ?_ ?_ ?_ ?_ <;>
        first | with_reducible exact id | (with_reducible exact fun k => SMap.wf_put _ _ _ k)
              | (with_reducible exact fun k => SMap.wf_filter _ _ k) | (with_reducible exact fun k => SMap.wf_mapV _ _ k)
              | (with_reducible exact fun _ => SMap.wf_nil _) | skip)

theorem State.setRouter_kept {s0 : State} (s : State) (n : Nat) (r : Router) (h0 : s0.Kept s) :
    s0.Kept (State.setRouter s n r) := by
  unfold State.setRouter
  try dsimp only
  repeat' first
    | with_reducible assumption
    | fail_if_no_progress (with_reducible refine State.Kept.mk ?_ rfl rfl ?_ ?_ ?_ ?_ ?_ ?_ ?_ ?_ ?_ <;>
        first | with_reducible exact id | (with_reducible exact fun k => SMap.wf_put _ _ _ k)
              | (with_reducible exact fun k => SMap.wf_filter _ _ k) | (with_reducible exact fun k => SMap.wf_mapV _ _ k)
              | (with_reducible exact fun _ => SMap.wf_nil _) | skip)

theorem State.retireSite_kept {s0 : State} (s : State) (n : Nat) (h0 : s0.Kept s) :
    s0.Kept (State.retireSite s n) := by
  unfold State.retireSite
  try dsimp only
  repeat' first
    | with_reducible assumption
    | with_reducible apply faultPart_kept
    | with_reducible apply State.leaveSite_kept
    | fail_if_no_progress with_reducible refine State.Kept.mk0 ?_ rfl rfl
    | with_reducible refine State.Kept.ite ?_ ?_
    | split

theorem State.mapOutAt_kept {s0 : State} (s : State) (n : Nat) (y : Nat) (f : Nat) (h0 : s0.Kept s) :
    s0.Kept (State.mapOutAt s n y f) := by
  unfold State.mapOutAt
  try dsimp only
  repeat' first
    | with_reducible assumption
    | with_reducible apply State.setArr_kept
    | with_reducible apply State.retireSite_kept
    | with_reducible apply State.addSoft_kept
    | fail_if_no_progress with_reducible refine State.Kept.mk0 ?_ rfl rfl
    | with_reducible refine State.Kept.ite ?_ ?_
    | split

theorem State.mapOut_kept {s0 : State} (s : State) (n : Nat) (c : Nat) (h0 : s0.Kept s) :
    s0.Kept (State.mapOut s n c) := by
  unfold State.mapOut
  try dsimp only
  repeat' first
    | with_reducible assumption
    | with_reducible apply State.mapOutAt_kept
    | fail_if_no_progress with_reducible refine State.Kept.mk0 ?_ rfl rfl

theorem State.emit_kept {s0 : State} (s : State) (o : Out) (h0 : s0.Kept s) :
    s0.Kept (State.emit s o) := by
  unfold State.emit
  try dsimp only
  repeat' first
    | with_reducible assumption
    | fail_if_no_progress with_reducible refine State.Kept.mk0 ?_ rfl rfl

theorem mapFs_kept {s0 : State} (s : State) (f : Fs → Fs) (h0 : s0.Kept s) :
    s0.Kept (mapFs s f) := by
  unfold mapFs
  try dsimp only
  repeat' first
    | with_reducible assumption
    | fail_if_no_progress (with_reducible refine State.Kept.mk ?_ rfl rfl ?_ ?_ ?_ ?_ ?_ ?_ ?_ ?_ ?_ <;>
        first | with_reducible exact id | (with_reducible exact fun k => SMap.wf_put _ _ _ k)
              | (with_reducible exact fun k => SMap.wf_filter _ _ k) | (with_reducible exact fun k => SMap.wf_mapV _ _ k)
              | (with_reducible exact fun _ => SMap.wf_nil _) | skip)

theorem streamFaultFor_kept {s0 : State} (s : State) (p : Nat) (cause : Nat) (station : Nat) (region : Nat) (offset : Nat) (a6 : Option Nat) (h0 : s0.Kept s) :
    s0.Kept (streamFaultFor s p cause station region offset a6) := by
  unfold streamFaultFor
  try dsimp only
  repeat' first
    | with_reducible assumption
    | with_reducible apply streamFault_kept
    | with_reducible apply stationFault_kept
    | fail_if_no_progress with_reducible refine State.Kept.mk0 ?_ rfl rfl
    | split

theorem State.draw_kept {s0 : State} (s : State) (h0 : s0.Kept s) :
    s0.Kept (State.draw s) := by
  unfold State.draw
  try dsimp only
  repeat' first
    | with_reducible assumption
    | fail_if_no_progress with_reducible refine State.Kept.mk0 ?_ rfl rfl

theorem State.passTicks_kept {s0 : State} (s : State) (n : Nat) (h0 : s0.Kept s) :
    s0.Kept (State.passTicks s n) := by
  unfold State.passTicks
  try dsimp only
  repeat' first
    | with_reducible assumption
    | with_reducible apply mapParts_kept
    | fail_if_no_progress with_reducible refine State.Kept.mk0 ?_ rfl rfl
    | with_reducible refine State.Kept.ite ?_ ?_
    | split

theorem State.passTo_kept {s0 : State} (s : State) (due : Nat) (h0 : s0.Kept s) :
    s0.Kept (State.passTo s due) := by
  unfold State.passTo
  try dsimp only
  repeat' first
    | with_reducible assumption
    | with_reducible apply State.passTicks_kept
    | fail_if_no_progress with_reducible refine State.Kept.mk0 ?_ rfl rfl

theorem State.replaceToken_kept {s0 : State} (s : State) (id : Nat) (ts : List Token) (h0 : s0.Kept s) :
    s0.Kept (State.replaceToken s id ts) := by
  unfold State.replaceToken
  try dsimp only
  repeat' first
    | with_reducible assumption
    | fail_if_no_progress with_reducible refine State.Kept.mk0 ?_ rfl rfl
    | with_reducible refine State.Kept.ite ?_ ?_
    | split

theorem trapPart_kept {s0 : State} (s : State) (sa : Nat) (x : Nat) (y : Nat) (e : TrapEvent) (multi : Bool) (h0 : s0.Kept s) :
    s0.Kept (trapPart s sa x y e multi) := by
  unfold trapPart
  try dsimp only
  repeat' first
    | with_reducible assumption
    | with_reducible apply State.setPart_kept
    | with_reducible apply startBindOff_kept
    | with_reducible apply freezeAll_kept
    | with_reducible apply State.event_kept
    | fail_if_no_progress with_reducible refine State.Kept.mk0 ?_ rfl rfl
    | with_reducible refine State.Kept.ite ?_ ?_
    | split

theorem schedFault_kept {s0 : State} (s : State) (sa : Nat) (x : Nat) (y : Nat) (slot : Nat) (cause : Nat) (fireCycle : Nat) (h0 : s0.Kept s) :
    s0.Kept (schedFault s sa x y slot cause fireCycle) := by
  unfold schedFault
  try dsimp only
  repeat' first
    | with_reducible assumption
    | with_reducible apply State.setPart_kept
    | with_reducible apply faultPart_kept
    | fail_if_no_progress with_reducible refine State.Kept.mk0 ?_ rfl rfl
    | with_reducible refine State.Kept.ite ?_ ?_
    | split

theorem thawAll_kept {s0 : State} (s : State) (a1 : List Nat) (h0 : s0.Kept s) :
    s0.Kept (thawAll s a1) := by
  induction a1 generalizing s h0 with
  | nil =>
    unfold thawAll
    try dsimp only
    repeat' first
      | with_reducible assumption
      | with_reducible apply ih
      | with_reducible apply State.setArr_kept
      | fail_if_no_progress with_reducible refine State.Kept.mk0 ?_ rfl rfl
      | split
  | cons x xs ih =>
    unfold thawAll
    try dsimp only
    repeat' first
      | with_reducible assumption
      | with_reducible apply ih
      | with_reducible apply State.setArr_kept
      | fail_if_no_progress with_reducible refine State.Kept.mk0 ?_ rfl rfl
      | split

theorem State.unlessHeld_kept {s0 : State} (s : State) (held : Bool) (t : State) (h0 : s0.Kept s) (h1 : s0.Kept t) :
    s0.Kept (State.unlessHeld s held t) := by
  unfold State.unlessHeld
  try dsimp only
  repeat' first
    | with_reducible assumption
    | fail_if_no_progress with_reducible refine State.Kept.mk0 ?_ rfl rfl
    | with_reducible refine State.Kept.ite ?_ ?_
    | split

theorem State.tickOnce_kept {s0 : State} (s : State) (h0 : s0.Kept s) :
    s0.Kept (State.tickOnce s) := by
  unfold State.tickOnce
  try dsimp only
  repeat' first
    | with_reducible assumption
    | with_reducible apply State.passTicks_kept
    | fail_if_no_progress with_reducible refine State.Kept.mk0 ?_ rfl rfl

theorem State.unpoisonRegion_kept {s0 : State} (s : State) (p : Nat) (r : Nat) (o : Nat) (n : Nat) (h0 : s0.Kept s) :
    s0.Kept (State.unpoisonRegion s p r o n) := by
  unfold State.unpoisonRegion
  try dsimp only
  repeat' first
    | with_reducible assumption
    | with_reducible apply State.setMem_kept
    | fail_if_no_progress with_reducible refine State.Kept.mk0 ?_ rfl rfl
    | with_reducible refine State.Kept.foldl ?_ ?_
    | with_reducible refine State.Kept.foldl_fst ?_ ?_
    | (intro; try dsimp only)

theorem withToken_kept {s0 : State} (s : State) (id : Nat) (f : Token → State) (h0 : s0.Kept s) (h1 : ∀ v0, s0.Kept (f v0)) :
    s0.Kept (withToken s id f) := by
  unfold withToken
  try dsimp only
  repeat' first
    | with_reducible assumption
    | with_reducible apply h1
    | fail_if_no_progress with_reducible refine State.Kept.mk0 ?_ rfl rfl
    | split

theorem State.afterCount_kept {s0 : State} (s : State) (sa : Nat) (x : Nat) (y : Nat) (r : Core × Bool) (f : FaultInfo) (h0 : s0.Kept s) :
    s0.Kept (State.afterCount s sa x y r f) := by
  unfold State.afterCount
  try dsimp only
  repeat' first
    | with_reducible assumption
    | with_reducible apply faultArr_kept
    | with_reducible apply State.setCore_kept
    | fail_if_no_progress with_reducible refine State.Kept.mk0 ?_ rfl rfl
    | with_reducible refine State.Kept.ite ?_ ?_
    | split

theorem State.note_kept {s0 : State} (s : State) (sa : Nat) (ns : List TrapNote) (h0 : s0.Kept s) :
    s0.Kept (State.note s sa ns) := by
  unfold State.note
  try dsimp only
  repeat' first
    | with_reducible assumption
    | with_reducible apply State.setArr_kept
    | fail_if_no_progress with_reducible refine State.Kept.mk0 ?_ rfl rfl
    | with_reducible refine State.Kept.ite ?_ ?_
    | split

theorem State.trap_kept {s0 : State} (s : State) (sa : Nat) (x : Nat) (y : Nat) (d : Nat) (es : List TrapEvent) (h0 : s0.Kept s) :
    s0.Kept (State.trap s sa x y d es) := by
  unfold State.trap
  try dsimp only
  repeat' first
    | with_reducible assumption
    | with_reducible apply State.note_kept
    | fail_if_no_progress with_reducible refine State.Kept.mk0 ?_ rfl rfl

theorem State.trapLanding_kept {s0 : State} (s : State) (sa : Nat) (x : Nat) (y : Nat) (es : List TrapEvent) (h0 : s0.Kept s) :
    s0.Kept (State.trapLanding s sa x y es) := by
  unfold State.trapLanding
  try dsimp only
  repeat' first
    | with_reducible assumption
    | with_reducible apply State.note_kept
    | fail_if_no_progress with_reducible refine State.Kept.mk0 ?_ rfl rfl

theorem State.insertMma_kept {s0 : State} (s : State) (sa : Nat) (x : Nat) (y : Nat) (m : MmaPend) (rest : List MmaPend) (n : Nat) (h0 : s0.Kept s) :
    s0.Kept (State.insertMma s sa x y m rest n) := by
  unfold State.insertMma
  try dsimp only
  repeat' first
    | with_reducible assumption
    | with_reducible apply State.setCore_kept
    | with_reducible apply State.trap_kept
    | fail_if_no_progress with_reducible refine State.Kept.mk0 ?_ rfl rfl
    | with_reducible refine State.Kept.ite ?_ ?_
    | split

theorem State.insertBefore_kept {s0 : State} (s : State) (sa : Nat) (x : Nat) (y : Nat) (d : Nat) (a5 : List MmaPend) (h0 : s0.Kept s) :
    s0.Kept (State.insertBefore s sa x y d a5) := by
  induction a5 generalizing s sa x y d h0 with
  | nil =>
    unfold State.insertBefore
    try dsimp only
    repeat' first
      | with_reducible assumption
      | with_reducible apply ih
      | with_reducible apply State.insertMma_kept
      | fail_if_no_progress with_reducible refine State.Kept.mk0 ?_ rfl rfl
      | with_reducible refine State.Kept.ite ?_ ?_
      | split
  | cons x xs ih =>
    unfold State.insertBefore
    try dsimp only
    repeat' first
      | with_reducible assumption
      | with_reducible apply ih
      | with_reducible apply State.insertMma_kept
      | fail_if_no_progress with_reducible refine State.Kept.mk0 ?_ rfl rfl
      | with_reducible refine State.Kept.ite ?_ ?_
      | split

theorem State.softRow_kept {s0 : State} (s : State) (sa : Nat) (x : Nat) (y : Nat) (unit : Nat) (h0 : s0.Kept s) :
    s0.Kept (State.softRow s sa x y unit) := by
  unfold State.softRow
  try dsimp only
  repeat' first
    | with_reducible assumption
    | with_reducible apply State.setArr_kept
    | with_reducible apply State.mapOut_kept
    | with_reducible apply State.retireSite_kept
    | with_reducible apply State.addSoft_kept
    | fail_if_no_progress with_reducible refine State.Kept.mk0 ?_ rfl rfl
    | with_reducible refine State.Kept.ite ?_ ?_
    | split

theorem State.credit_kept {s0 : State} (s : State) (p : Nat) (f : Option Feeder) (n : Nat) (h0 : s0.Kept s) :
    s0.Kept (State.credit s p f n) := by
  unfold State.credit
  try dsimp only
  repeat' first
    | with_reducible assumption
    | with_reducible apply State.setRouter_kept
    | with_reducible apply State.injectFor_kept
    | with_reducible apply State.setMem_kept
    | fail_if_no_progress with_reducible refine State.Kept.mk0 ?_ rfl rfl
    | split

theorem State.scratchCe_kept {s0 : State} (s : State) (sa : Nat) (x : Nat) (y : Nat) (unit : Option Nat) (h0 : s0.Kept s) :
    s0.Kept (State.scratchCe s sa x y unit) := by
  unfold State.scratchCe
  try dsimp only
  repeat' first
    | with_reducible assumption
    | with_reducible apply State.setArr_kept
    | with_reducible apply State.softRow_kept
    | fail_if_no_progress with_reducible refine State.Kept.mk0 ?_ rfl rfl
    | with_reducible refine State.Kept.ite ?_ ?_
    | split

theorem State.scratchUe_kept {s0 : State} (s : State) (sa : Nat) (x : Nat) (y : Nat) (slot : Nat) (d : Nat) (unit : Nat) (h0 : s0.Kept s) :
    s0.Kept (State.scratchUe s sa x y slot d unit) := by
  unfold State.scratchUe
  try dsimp only
  repeat' first
    | with_reducible assumption
    | with_reducible apply faultArr_kept
    | with_reducible apply State.softRow_kept
    | fail_if_no_progress with_reducible refine State.Kept.mk0 ?_ rfl rfl

theorem State.portRead_kept {s0 : State} (s : State) (sa : Nat) (x : Nat) (y : Nat) (us : List Nat) (ecc : ReadEcc) (f : State → State) (h0 : s0.Kept s) (h1 : ∀ v0, s0.Kept v0 → s0.Kept (f v0)) :
    s0.Kept (State.portRead s sa x y us ecc f) := by
  unfold State.portRead
  try dsimp only
  repeat' first
    | with_reducible assumption
    | with_reducible apply h1
    | with_reducible apply State.scratchCe_kept
    | with_reducible apply State.scratchUe_kept
    | fail_if_no_progress with_reducible refine State.Kept.mk0 ?_ rfl rfl
    | split

theorem State.fire_kept {s0 : State} (s : State) (sa : Nat) (x : Nat) (y : Nat) (d : Nat) (c : Core) (h0 : s0.Kept s) :
    s0.Kept (State.fire s sa x y d c) := by
  unfold State.fire
  try dsimp only
  repeat' first
    | with_reducible assumption
    | with_reducible apply State.setCore_kept
    | fail_if_no_progress with_reducible refine State.Kept.mk0 ?_ rfl rfl

theorem State.fireTo_kept {s0 : State} (s : State) (sa : Nat) (d : Nat) (h0 : s0.Kept s) :
    s0.Kept (State.fireTo s sa d) := by
  unfold State.fireTo
  try dsimp only
  repeat' first
    | with_reducible assumption
    | with_reducible apply State.setArr_kept
    | with_reducible apply State.stir_kept
    | fail_if_no_progress with_reducible refine State.Kept.mk0 ?_ rfl rfl
    | with_reducible refine State.Kept.ite ?_ ?_
    | split

theorem State.settleStore_kept {s0 : State} (s : State) (d : Nat) (k : Nat) (h0 : s0.Kept s) :
    s0.Kept (State.settleStore s d k) := by
  unfold State.settleStore
  try dsimp only
  repeat' first
    | with_reducible assumption
    | with_reducible apply State.insertBefore_kept
    | fail_if_no_progress with_reducible refine State.Kept.mk0 ?_ rfl rfl

theorem State.retireMsg_kept {s0 : State} (s : State) (k : Nat) (ring : Nat) (h0 : s0.Kept s) :
    s0.Kept (State.retireMsg s k ring) := by
  unfold State.retireMsg
  try dsimp only
  repeat' first
    | with_reducible assumption
    | with_reducible apply State.credit_kept
    | with_reducible apply State.setCore_kept
    | fail_if_no_progress with_reducible refine State.Kept.mk0 ?_ rfl rfl
    | split

theorem State.settleCore_kept {s0 : State} (s : State) (d : Nat) (k : Nat) (h0 : s0.Kept s) :
    s0.Kept (State.settleCore s d k) := by
  unfold State.settleCore
  try dsimp only
  repeat' first
    | with_reducible assumption
    | with_reducible apply State.retireMsg_kept
    | with_reducible apply State.setCore_kept
    | fail_if_no_progress with_reducible refine State.Kept.mk0 ?_ rfl rfl
    | with_reducible refine State.Kept.ite ?_ ?_
    | with_reducible refine State.Kept.foldl ?_ ?_
    | with_reducible refine State.Kept.foldl_fst ?_ ?_
    | split
    | (intro; try dsimp only)

theorem State.settle_kept {s0 : State} (s : State) (sa : Nat) (d : Nat) (h0 : s0.Kept s) :
    s0.Kept (State.settle s sa d) := by
  unfold State.settle
  try dsimp only
  repeat' first
    | with_reducible assumption
    | with_reducible apply State.settleStore_kept
    | with_reducible apply State.settleCore_kept
    | fail_if_no_progress with_reducible refine State.Kept.mk0 ?_ rfl rfl
    | with_reducible refine State.Kept.foldl ?_ ?_
    | with_reducible refine State.Kept.foldl_fst ?_ ?_
    | (intro; try dsimp only)

theorem State.takeTrap_kept {s0 : State} (s : State) (sa : Nat) (h0 : s0.Kept s) :
    s0.Kept (State.takeTrap s sa) := by
  unfold State.takeTrap
  try dsimp only
  repeat' first
    | with_reducible assumption
    | with_reducible apply State.setArr_kept
    | with_reducible apply trapPart_kept
    | fail_if_no_progress with_reducible refine State.Kept.mk0 ?_ rfl rfl
    | split

theorem State.latch_kept {s0 : State} (s : State) (sa : Nat) (h0 : s0.Kept s) :
    s0.Kept (State.latch s sa) := by
  unfold State.latch
  try dsimp only
  repeat' first
    | with_reducible assumption
    | with_reducible apply State.settle_kept
    | with_reducible apply State.takeTrap_kept
    | fail_if_no_progress with_reducible refine State.Kept.mk0 ?_ rfl rfl
    | with_reducible refine State.Kept.ite ?_ ?_
    | split

theorem slotFault_kept {s0 : State} (s : State) (sa : Nat) (x : Nat) (y : Nat) (c : Core) (cause : Nat) (d : Nat) (h0 : s0.Kept s) :
    s0.Kept (slotFault s sa x y c cause d) := by
  unfold slotFault
  try dsimp only
  repeat' first
    | with_reducible assumption
    | with_reducible apply State.fire_kept
    | with_reducible apply schedFault_kept
    | fail_if_no_progress with_reducible refine State.Kept.mk0 ?_ rfl rfl

theorem State.reach_kept {s0 : State} (s : State) (sa : Nat) (d : Nat) (h0 : s0.Kept s) :
    s0.Kept (State.reach s sa d) := by
  unfold State.reach
  try dsimp only
  repeat' first
    | with_reducible assumption
    | with_reducible apply State.fireTo_kept
    | with_reducible apply State.settle_kept
    | fail_if_no_progress with_reducible refine State.Kept.mk0 ?_ rfl rfl

theorem State.pass_kept {s0 : State} (s : State) (sa : Nat) (d : Nat) (h0 : s0.Kept s) :
    s0.Kept (State.pass s sa d) := by
  unfold State.pass
  try dsimp only
  repeat' first
    | with_reducible assumption
    | with_reducible apply State.latch_kept
    | with_reducible apply State.reach_kept
    | fail_if_no_progress with_reducible refine State.Kept.mk0 ?_ rfl rfl

theorem State.withSlot_kept {s0 : State} (s : State) (sa : Nat) (x : Nat) (y : Nat) (cls : Nat) (op : Nat) (f : State → Core → W64 → Nat → State) (h0 : s0.Kept s) (h1 : ∀ v0 v1 v2 v3, s0.Kept v0 → s0.Kept (f v0 v1 v2 v3)) :
    s0.Kept (State.withSlot s sa x y cls op f) := by
  unfold State.withSlot
  try dsimp only
  repeat' first
    | with_reducible assumption
    | with_reducible apply h1
    | with_reducible apply State.pass_kept
    | with_reducible apply State.latch_kept
    | fail_if_no_progress with_reducible refine State.Kept.mk0 ?_ rfl rfl
    | with_reducible refine State.Kept.ite ?_ ?_
    | split

theorem State.haltCore_kept {s0 : State} (s : State) (k : Nat) (d : Nat) (h0 : s0.Kept s) :
    s0.Kept (State.haltCore s k d) := by
  unfold State.haltCore
  try dsimp only
  repeat' first
    | with_reducible assumption
    | with_reducible apply State.setCore_kept
    | fail_if_no_progress with_reducible refine State.Kept.mk0 ?_ rfl rfl

theorem State.holdCycle_kept {s0 : State} (s : State) (sa : Nat) (d : Nat) (h0 : s0.Kept s) :
    s0.Kept (State.holdCycle s sa d) := by
  unfold State.holdCycle
  try dsimp only
  repeat' first
    | with_reducible assumption
    | with_reducible apply State.fireTo_kept
    | with_reducible apply State.latch_kept
    | with_reducible apply State.settle_kept
    | with_reducible apply State.setCore_kept
    | fail_if_no_progress with_reducible refine State.Kept.mk0 ?_ rfl rfl
    | with_reducible refine State.Kept.ite ?_ ?_
    | with_reducible refine State.Kept.foldl ?_ ?_
    | with_reducible refine State.Kept.foldl_fst ?_ ?_
    | split
    | (intro; try dsimp only)

theorem State.runOut_kept {s0 : State} (s : State) (sa : Nat) (h0 : s0.Kept s) :
    s0.Kept (State.runOut s sa) := by
  unfold State.runOut
  try dsimp only
  repeat' first
    | with_reducible assumption
    | with_reducible apply State.setArr_kept
    | with_reducible apply State.pass_kept
    | fail_if_no_progress with_reducible refine State.Kept.mk0 ?_ rfl rfl
    | with_reducible refine State.Kept.ite ?_ ?_
    | split

theorem State.runOuts_kept {s0 : State} (s : State) (sas : List Nat) (h0 : s0.Kept s) :
    s0.Kept (State.runOuts s sas) := by
  unfold State.runOuts
  try dsimp only
  repeat' first
    | with_reducible assumption
    | with_reducible apply State.runOut_kept
    | fail_if_no_progress with_reducible refine State.Kept.mk0 ?_ rfl rfl
    | with_reducible refine State.Kept.foldl ?_ ?_
    | with_reducible refine State.Kept.foldl_fst ?_ ?_
    | (intro; try dsimp only)

theorem execCclr_kept {s u : State} {sa : Nat} {x : Nat} {y : Nat} (h0 : execCclr sa x y s = .next u) : s.Kept u := by
  unfold execCclr at h0
  refine guardUnit_kept ?_ h0
  clear h0
  try dsimp only
  repeat' first
    | with_reducible exact State.Kept.refl s
    | with_reducible assumption
    | with_reducible apply State.fire_kept
    | with_reducible apply State.withSlot_kept
    | fail_if_no_progress with_reducible refine State.Kept.mk0 ?_ rfl rfl
    | (intro; try dsimp only)

theorem execCdec_kept {s u : State} {sa : Nat} {x : Nat} {y : Nat} (h0 : execCdec sa x y s = .next u) : s.Kept u := by
  unfold execCdec at h0
  refine guardUnit_kept ?_ h0
  clear h0
  try dsimp only
  repeat' first
    | with_reducible exact State.Kept.refl s
    | with_reducible assumption
    | with_reducible apply State.withSlot_kept
    | with_reducible apply State.afterCount_kept
    | fail_if_no_progress with_reducible refine State.Kept.mk0 ?_ rfl rfl
    | (intro; try dsimp only)

theorem execCinc_kept {s u : State} {sa : Nat} {x : Nat} {y : Nat} (h0 : execCinc sa x y s = .next u) : s.Kept u := by
  unfold execCinc at h0
  refine guardUnit_kept ?_ h0
  clear h0
  try dsimp only
  repeat' first
    | with_reducible exact State.Kept.refl s
    | with_reducible assumption
    | with_reducible apply State.withSlot_kept
    | with_reducible apply State.afterCount_kept
    | fail_if_no_progress with_reducible refine State.Kept.mk0 ?_ rfl rfl
    | (intro; try dsimp only)

theorem execFclr_kept {s u : State} {sa : Nat} {x : Nat} {y : Nat} (h0 : execFclr sa x y s = .next u) : s.Kept u := by
  unfold execFclr at h0
  refine guardUnit_kept ?_ h0
  clear h0
  try dsimp only
  repeat' first
    | with_reducible exact State.Kept.refl s
    | with_reducible assumption
    | with_reducible apply State.fire_kept
    | with_reducible apply State.withSlot_kept
    | fail_if_no_progress with_reducible refine State.Kept.mk0 ?_ rfl rfl
    | (intro; try dsimp only)

theorem execFset_kept {s u : State} {sa : Nat} {x : Nat} {y : Nat} (h0 : execFset sa x y s = .next u) : s.Kept u := by
  unfold execFset at h0
  refine guardUnit_kept ?_ h0
  clear h0
  try dsimp only
  repeat' first
    | with_reducible exact State.Kept.refl s
    | with_reducible assumption
    | with_reducible apply State.fire_kept
    | with_reducible apply State.withSlot_kept
    | fail_if_no_progress with_reducible refine State.Kept.mk0 ?_ rfl rfl
    | (intro; try dsimp only)

theorem execHalt_kept {s u : State} {sa : Nat} {x : Nat} {y : Nat} (h0 : execHalt sa x y s = .next u) : s.Kept u := by
  unfold execHalt at h0
  refine guardUnit_kept ?_ h0
  clear h0
  try dsimp only
  repeat' first
    | with_reducible exact State.Kept.refl s
    | with_reducible assumption
    | with_reducible apply State.withSlot_kept
    | with_reducible apply State.haltCore_kept
    | fail_if_no_progress with_reducible refine State.Kept.mk0 ?_ rfl rfl
    | (intro; try dsimp only)

theorem execHold_kept {s u : State} {sa : Nat} (h0 : execHold sa s = .next u) : s.Kept u := by
  unfold execHold at h0
  refine guardUnit_kept ?_ h0
  clear h0
  try dsimp only
  repeat' first
    | with_reducible exact State.Kept.refl s
    | with_reducible assumption
    | with_reducible apply State.holdCycle_kept
    | fail_if_no_progress with_reducible refine State.Kept.mk0 ?_ rfl rfl
    | with_reducible refine State.Kept.ite ?_ ?_
    | split

theorem execLoop_kept {s u : State} {sa : Nat} {x : Nat} {y : Nat} (h0 : execLoop sa x y s = .next u) : s.Kept u := by
  unfold execLoop at h0
  refine guardUnit_kept ?_ h0
  clear h0
  try dsimp only
  repeat' first
    | with_reducible exact State.Kept.refl s
    | with_reducible assumption
    | with_reducible apply State.withSlot_kept
    | with_reducible apply State.setCore_kept
    | fail_if_no_progress with_reducible refine State.Kept.mk0 ?_ rfl rfl
    | (intro; try dsimp only)

theorem execNop_kept {s u : State} {sa : Nat} {x : Nat} {y : Nat} (h0 : execNop sa x y s = .next u) : s.Kept u := by
  unfold execNop at h0
  refine guardUnit_kept ?_ h0
  clear h0
  try dsimp only
  repeat' first
    | with_reducible exact State.Kept.refl s
    | with_reducible assumption
    | with_reducible apply State.fire_kept
    | with_reducible apply State.withSlot_kept
    | fail_if_no_progress with_reducible refine State.Kept.mk0 ?_ rfl rfl
    | (intro; try dsimp only)

theorem execWait_kept {s u : State} {sa : Nat} {x : Nat} {y : Nat} (h0 : execWait sa x y s = .next u) : s.Kept u := by
  unfold execWait at h0
  refine guardUnit_kept ?_ h0
  clear h0
  try dsimp only
  repeat' first
    | with_reducible exact State.Kept.refl s
    | with_reducible assumption
    | with_reducible apply State.withSlot_kept
    | with_reducible apply State.setCore_kept
    | fail_if_no_progress with_reducible refine State.Kept.mk0 ?_ rfl rfl
    | (intro; try dsimp only)

theorem State.mdrain_kept {s0 : State} (s : State) (sa : Nat) (x : Nat) (y : Nat) (c : Core) (w : W64) (d : Nat) (h0 : s0.Kept s) :
    s0.Kept (State.mdrain s sa x y c w d) := by
  unfold State.mdrain
  try dsimp only
  repeat' first
    | with_reducible assumption
    | with_reducible apply State.fire_kept
    | with_reducible apply slotFault_kept
    | with_reducible apply State.trap_kept
    | fail_if_no_progress with_reducible refine State.Kept.mk0 ?_ rfl rfl
    | with_reducible refine State.Kept.ite ?_ ?_
    | split

theorem State.mload_kept {s0 : State} (s : State) (sa : Nat) (x : Nat) (y : Nat) (c : Core) (w : W64) (d : Nat) (ecc : ReadEcc) (h0 : s0.Kept s) :
    s0.Kept (State.mload s sa x y c w d ecc) := by
  unfold State.mload
  try dsimp only
  repeat' first
    | with_reducible assumption
    | with_reducible apply State.fire_kept
    | with_reducible apply State.scratchCe_kept
    | with_reducible apply State.scratchUe_kept
    | with_reducible apply slotFault_kept
    | fail_if_no_progress with_reducible refine State.Kept.mk0 ?_ rfl rfl
    | with_reducible refine State.Kept.ite ?_ ?_
    | split

theorem State.mma_kept {s0 : State} (s : State) (sa : Nat) (x : Nat) (y : Nat) (c : Core) (w : W64) (d : Nat) (ecc : ReadEcc) (h0 : s0.Kept s) :
    s0.Kept (State.mma s sa x y c w d ecc) := by
  unfold State.mma
  try dsimp only
  repeat' first
    | with_reducible assumption
    | with_reducible apply State.fire_kept
    | with_reducible apply State.scratchCe_kept
    | with_reducible apply State.scratchUe_kept
    | with_reducible apply slotFault_kept
    | with_reducible apply State.trap_kept
    | fail_if_no_progress with_reducible refine State.Kept.mk0 ?_ rfl rfl
    | with_reducible refine State.Kept.ite ?_ ?_
    | split

theorem State.mnode_kept {s0 : State} (s : State) (sa : Nat) (x : Nat) (y : Nat) (c : Core) (w : W64) (d : Nat) (h0 : s0.Kept s) :
    s0.Kept (State.mnode s sa x y c w d) := by
  unfold State.mnode
  try dsimp only
  repeat' first
    | with_reducible assumption
    | with_reducible apply State.fire_kept
    | with_reducible apply slotFault_kept
    | with_reducible apply State.trap_kept
    | fail_if_no_progress with_reducible refine State.Kept.mk0 ?_ rfl rfl
    | with_reducible refine State.Kept.ite ?_ ?_
    | split

theorem State.tload_kept {s0 : State} (s : State) (sa : Nat) (x : Nat) (y : Nat) (c : Core) (w : W64) (d : Nat) (ecc : ReadEcc) (h0 : s0.Kept s) :
    s0.Kept (State.tload s sa x y c w d ecc) := by
  unfold State.tload
  try dsimp only
  repeat' first
    | with_reducible assumption
    | with_reducible apply State.fire_kept
    | with_reducible apply State.scratchCe_kept
    | with_reducible apply State.scratchUe_kept
    | with_reducible apply slotFault_kept
    | fail_if_no_progress with_reducible refine State.Kept.mk0 ?_ rfl rfl
    | with_reducible refine State.Kept.ite ?_ ?_
    | split

theorem State.tstore_kept {s0 : State} (s : State) (sa : Nat) (x : Nat) (y : Nat) (c : Core) (w : W64) (d : Nat) (h0 : s0.Kept s) :
    s0.Kept (State.tstore s sa x y c w d) := by
  unfold State.tstore
  try dsimp only
  repeat' first
    | with_reducible assumption
    | with_reducible apply State.fire_kept
    | with_reducible apply slotFault_kept
    | fail_if_no_progress with_reducible refine State.Kept.mk0 ?_ rfl rfl
    | with_reducible refine State.Kept.ite ?_ ?_
    | split

theorem execMdrain_kept {s u : State} {sa : Nat} {x : Nat} {y : Nat} (h0 : execMdrain sa x y s = .next u) : s.Kept u := by
  unfold execMdrain at h0
  refine guardUnit_kept ?_ h0
  clear h0
  try dsimp only
  repeat' first
    | with_reducible exact State.Kept.refl s
    | with_reducible assumption
    | with_reducible apply State.withSlot_kept
    | with_reducible apply State.mdrain_kept
    | fail_if_no_progress with_reducible refine State.Kept.mk0 ?_ rfl rfl
    | (intro; try dsimp only)

theorem execMload_kept {s u : State} {sa : Nat} {x : Nat} {y : Nat} {ecc : ReadEcc} (h0 : execMload sa x y ecc s = .next u) : s.Kept u := by
  unfold execMload at h0
  refine guardUnit_kept ?_ h0
  clear h0
  try dsimp only
  repeat' first
    | with_reducible exact State.Kept.refl s
    | with_reducible assumption
    | with_reducible apply State.withSlot_kept
    | with_reducible apply State.mload_kept
    | fail_if_no_progress with_reducible refine State.Kept.mk0 ?_ rfl rfl
    | (intro; try dsimp only)

theorem execMma_kept {s u : State} {sa : Nat} {x : Nat} {y : Nat} {ecc : ReadEcc} (h0 : execMma sa x y ecc s = .next u) : s.Kept u := by
  unfold execMma at h0
  refine guardUnit_kept ?_ h0
  clear h0
  try dsimp only
  repeat' first
    | with_reducible exact State.Kept.refl s
    | with_reducible assumption
    | with_reducible apply State.withSlot_kept
    | with_reducible apply State.mma_kept
    | fail_if_no_progress with_reducible refine State.Kept.mk0 ?_ rfl rfl
    | (intro; try dsimp only)

theorem execMmaLeafInsert_kept {s u : State} {sa : Nat} {x : Nat} {y : Nat} (h0 : execMmaLeafInsert sa x y s = .next u) : s.Kept u := by
  unfold execMmaLeafInsert at h0
  refine guardUnit_kept ?_ h0
  clear h0
  try dsimp only
  repeat' first
    | with_reducible exact State.Kept.refl s
    | with_reducible assumption
    | with_reducible apply State.pass_kept
    | with_reducible apply State.latch_kept
    | with_reducible apply State.insertMma_kept
    | fail_if_no_progress with_reducible refine State.Kept.mk0 ?_ rfl rfl
    | with_reducible refine State.Kept.ite ?_ ?_
    | split

theorem execMnode_kept {s u : State} {sa : Nat} {x : Nat} {y : Nat} (h0 : execMnode sa x y s = .next u) : s.Kept u := by
  unfold execMnode at h0
  refine guardUnit_kept ?_ h0
  clear h0
  try dsimp only
  repeat' first
    | with_reducible exact State.Kept.refl s
    | with_reducible assumption
    | with_reducible apply State.withSlot_kept
    | with_reducible apply State.mnode_kept
    | fail_if_no_progress with_reducible refine State.Kept.mk0 ?_ rfl rfl
    | (intro; try dsimp only)

theorem execTload_kept {s u : State} {sa : Nat} {x : Nat} {y : Nat} {ecc : ReadEcc} (h0 : execTload sa x y ecc s = .next u) : s.Kept u := by
  unfold execTload at h0
  refine guardUnit_kept ?_ h0
  clear h0
  try dsimp only
  repeat' first
    | with_reducible exact State.Kept.refl s
    | with_reducible assumption
    | with_reducible apply State.withSlot_kept
    | with_reducible apply State.tload_kept
    | fail_if_no_progress with_reducible refine State.Kept.mk0 ?_ rfl rfl
    | (intro; try dsimp only)

theorem execTstore_kept {s u : State} {sa : Nat} {x : Nat} {y : Nat} (h0 : execTstore sa x y s = .next u) : s.Kept u := by
  unfold execTstore at h0
  refine guardUnit_kept ?_ h0
  clear h0
  try dsimp only
  repeat' first
    | with_reducible exact State.Kept.refl s
    | with_reducible assumption
    | with_reducible apply State.withSlot_kept
    | with_reducible apply State.tstore_kept
    | fail_if_no_progress with_reducible refine State.Kept.mk0 ?_ rfl rfl
    | (intro; try dsimp only)

theorem State.landVector_kept {s0 : State} (s : State) (sa : Nat) (x : Nat) (y : Nat) (v : VecPend) (rest : List VecPend) (h0 : s0.Kept s) :
    s0.Kept (State.landVector s sa x y v rest) := by
  unfold State.landVector
  try dsimp only
  repeat' first
    | with_reducible assumption
    | with_reducible apply State.setCore_kept
    | fail_if_no_progress with_reducible refine State.Kept.mk0 ?_ rfl rfl

theorem State.mcheck_kept {s0 : State} (s : State) (sa : Nat) (x : Nat) (y : Nat) (c : Core) (w : W64) (d : Nat) (ecc : ReadEcc) (h0 : s0.Kept s) :
    s0.Kept (State.mcheck s sa x y c w d ecc) := by
  unfold State.mcheck
  try dsimp only
  repeat' first
    | with_reducible assumption
    | with_reducible apply State.fire_kept
    | with_reducible apply State.insertBefore_kept
    | with_reducible apply State.scratchCe_kept
    | with_reducible apply State.scratchUe_kept
    | with_reducible apply slotFault_kept
    | with_reducible apply State.trap_kept
    | fail_if_no_progress with_reducible refine State.Kept.mk0 ?_ rfl rfl
    | with_reducible refine State.Kept.ite ?_ ?_
    | with_reducible refine State.Kept.foldl ?_ ?_
    | with_reducible refine State.Kept.foldl_fst ?_ ?_
    | split
    | (intro; try dsimp only)

theorem State.vectorDone_kept {s0 : State} (s : State) (sa : Nat) (x : Nat) (y : Nat) (c : Core) (d : Nat) (occ : Nat) (regs : List Nat) (v : VecOut) (h0 : s0.Kept s) :
    s0.Kept (State.vectorDone s sa x y c d occ regs v) := by
  unfold State.vectorDone
  try dsimp only
  repeat' first
    | with_reducible assumption
    | with_reducible apply State.fire_kept
    | with_reducible apply State.trap_kept
    | fail_if_no_progress with_reducible refine State.Kept.mk0 ?_ rfl rfl
    | with_reducible refine State.Kept.ite ?_ ?_
    | split

theorem State.vacc_kept {s0 : State} (s : State) (sa : Nat) (x : Nat) (y : Nat) (c : Core) (w : W64) (d : Nat) (h0 : s0.Kept s) :
    s0.Kept (State.vacc s sa x y c w d) := by
  unfold State.vacc
  try dsimp only
  repeat' first
    | with_reducible assumption
    | with_reducible apply State.vectorDone_kept
    | with_reducible apply slotFault_kept
    | fail_if_no_progress with_reducible refine State.Kept.mk0 ?_ rfl rfl
    | with_reducible refine State.Kept.ite ?_ ?_
    | split

theorem State.vcvt_kept {s0 : State} (s : State) (sa : Nat) (x : Nat) (y : Nat) (c : Core) (w : W64) (d : Nat) (h0 : s0.Kept s) :
    s0.Kept (State.vcvt s sa x y c w d) := by
  unfold State.vcvt
  try dsimp only
  repeat' first
    | with_reducible assumption
    | with_reducible apply State.vectorDone_kept
    | with_reducible apply slotFault_kept
    | fail_if_no_progress with_reducible refine State.Kept.mk0 ?_ rfl rfl
    | with_reducible refine State.Kept.ite ?_ ?_
    | split

theorem State.vrow_kept {s0 : State} (s : State) (sa : Nat) (x : Nat) (y : Nat) (c : Core) (w : W64) (d : Nat) (h0 : s0.Kept s) :
    s0.Kept (State.vrow s sa x y c w d) := by
  unfold State.vrow
  try dsimp only
  repeat' first
    | with_reducible assumption
    | with_reducible apply State.vectorDone_kept
    | with_reducible apply slotFault_kept
    | fail_if_no_progress with_reducible refine State.Kept.mk0 ?_ rfl rfl
    | with_reducible refine State.Kept.ite ?_ ?_
    | split

theorem State.vrun_kept {s0 : State} (s : State) (sa : Nat) (x : Nat) (y : Nat) (c : Core) (w : W64) (d : Nat) (h0 : s0.Kept s) :
    s0.Kept (State.vrun s sa x y c w d) := by
  unfold State.vrun
  try dsimp only
  repeat' first
    | with_reducible assumption
    | with_reducible apply State.vectorDone_kept
    | with_reducible apply slotFault_kept
    | fail_if_no_progress with_reducible refine State.Kept.mk0 ?_ rfl rfl
    | with_reducible refine State.Kept.ite ?_ ?_
    | split

theorem execMcheck_kept {s u : State} {sa : Nat} {x : Nat} {y : Nat} {ecc : ReadEcc} (h0 : execMcheck sa x y ecc s = .next u) : s.Kept u := by
  unfold execMcheck at h0
  refine guardUnit_kept ?_ h0
  clear h0
  try dsimp only
  repeat' first
    | with_reducible exact State.Kept.refl s
    | with_reducible assumption
    | with_reducible apply State.withSlot_kept
    | with_reducible apply State.mcheck_kept
    | fail_if_no_progress with_reducible refine State.Kept.mk0 ?_ rfl rfl
    | (intro; try dsimp only)

theorem execVacc_kept {s u : State} {sa : Nat} {x : Nat} {y : Nat} (h0 : execVacc sa x y s = .next u) : s.Kept u := by
  unfold execVacc at h0
  refine guardUnit_kept ?_ h0
  clear h0
  try dsimp only
  repeat' first
    | with_reducible exact State.Kept.refl s
    | with_reducible assumption
    | with_reducible apply State.withSlot_kept
    | with_reducible apply State.vacc_kept
    | fail_if_no_progress with_reducible refine State.Kept.mk0 ?_ rfl rfl
    | (intro; try dsimp only)

theorem execVcvt_kept {s u : State} {sa : Nat} {x : Nat} {y : Nat} (h0 : execVcvt sa x y s = .next u) : s.Kept u := by
  unfold execVcvt at h0
  refine guardUnit_kept ?_ h0
  clear h0
  try dsimp only
  repeat' first
    | with_reducible exact State.Kept.refl s
    | with_reducible assumption
    | with_reducible apply State.withSlot_kept
    | with_reducible apply State.vcvt_kept
    | fail_if_no_progress with_reducible refine State.Kept.mk0 ?_ rfl rfl
    | (intro; try dsimp only)

theorem execVectorResultWrite_kept {s u : State} {sa : Nat} {x : Nat} {y : Nat} (h0 : execVectorResultWrite sa x y s = .next u) : s.Kept u := by
  unfold execVectorResultWrite at h0
  refine guardUnit_kept ?_ h0
  clear h0
  try dsimp only
  repeat' first
    | with_reducible exact State.Kept.refl s
    | with_reducible assumption
    | with_reducible apply State.landVector_kept
    | with_reducible apply State.pass_kept
    | with_reducible apply State.latch_kept
    | fail_if_no_progress with_reducible refine State.Kept.mk0 ?_ rfl rfl
    | with_reducible refine State.Kept.ite ?_ ?_
    | split

theorem execVrow_kept {s u : State} {sa : Nat} {x : Nat} {y : Nat} (h0 : execVrow sa x y s = .next u) : s.Kept u := by
  unfold execVrow at h0
  refine guardUnit_kept ?_ h0
  clear h0
  try dsimp only
  repeat' first
    | with_reducible exact State.Kept.refl s
    | with_reducible assumption
    | with_reducible apply State.withSlot_kept
    | with_reducible apply State.vrow_kept
    | fail_if_no_progress with_reducible refine State.Kept.mk0 ?_ rfl rfl
    | (intro; try dsimp only)

theorem execVrun_kept {s u : State} {sa : Nat} {x : Nat} {y : Nat} (h0 : execVrun sa x y s = .next u) : s.Kept u := by
  unfold execVrun at h0
  refine guardUnit_kept ?_ h0
  clear h0
  try dsimp only
  repeat' first
    | with_reducible exact State.Kept.refl s
    | with_reducible assumption
    | with_reducible apply State.withSlot_kept
    | with_reducible apply State.vrun_kept
    | fail_if_no_progress with_reducible refine State.Kept.mk0 ?_ rfl rfl
    | (intro; try dsimp only)

theorem State.steerDone_kept {s0 : State} (s : State) (sa : Nat) (x : Nat) (y : Nat) (slot : Nat) (d : Nat) (r : Core × Nat) (h0 : s0.Kept s) :
    s0.Kept (State.steerDone s sa x y slot d r) := by
  unfold State.steerDone
  try dsimp only
  repeat' first
    | with_reducible assumption
    | with_reducible apply State.setCore_kept
    | with_reducible apply schedFault_kept
    | fail_if_no_progress with_reducible refine State.Kept.mk0 ?_ rfl rfl
    | with_reducible refine State.Kept.ite ?_ ?_
    | split

theorem State.steerArrive_kept {s0 : State} (s : State) (sa : Nat) (x : Nat) (y : Nat) (u : Nat) (d : Nat) (item : SteerItem) (h0 : s0.Kept s) :
    s0.Kept (State.steerArrive s sa x y u d item) := by
  unfold State.steerArrive
  try dsimp only
  repeat' first
    | with_reducible assumption
    | with_reducible apply State.steerDone_kept
    | fail_if_no_progress with_reducible refine State.Kept.mk0 ?_ rfl rfl
    | with_reducible refine State.Kept.ite ?_ ?_
    | split

theorem State.stok_kept {s0 : State} (s : State) (sa : Nat) (x : Nat) (y : Nat) (c : Core) (w : W64) (d : Nat) (h0 : s0.Kept s) :
    s0.Kept (State.stok s sa x y c w d) := by
  unfold State.stok
  try dsimp only
  repeat' first
    | with_reducible assumption
    | with_reducible apply State.steerDone_kept
    | fail_if_no_progress with_reducible refine State.Kept.mk0 ?_ rfl rfl
    | with_reducible refine State.Kept.ite ?_ ?_
    | split

theorem execSteerItemArrival_kept {s u : State} {sa : Nat} {x : Nat} {y : Nat} {unit : Nat} {mport : Nat} {cycle : Nat} {item : SteerItem} (h0 : execSteerItemArrival sa x y unit mport cycle item s = .next u) : s.Kept u := by
  unfold execSteerItemArrival at h0
  refine guardUnit_kept ?_ h0
  clear h0
  try dsimp only
  repeat' first
    | with_reducible exact State.Kept.refl s
    | with_reducible assumption
    | with_reducible apply State.pass_kept
    | with_reducible apply State.latch_kept
    | with_reducible apply State.steerArrive_kept
    | fail_if_no_progress with_reducible refine State.Kept.mk0 ?_ rfl rfl
    | with_reducible refine State.Kept.ite ?_ ?_
    | split

theorem execSteerSkew_kept {s u : State} {sa : Nat} {x : Nat} {y : Nat} {unit : Nat} (h0 : execSteerSkew sa x y unit s = .next u) : s.Kept u := by
  unfold execSteerSkew at h0
  refine guardUnit_kept ?_ h0
  clear h0
  try dsimp only
  repeat' first
    | with_reducible exact State.Kept.refl s
    | with_reducible assumption
    | with_reducible apply State.pass_kept
    | with_reducible apply State.latch_kept
    | with_reducible apply State.setCore_kept
    | with_reducible apply schedFault_kept
    | fail_if_no_progress with_reducible refine State.Kept.mk0 ?_ rfl rfl
    | with_reducible refine State.Kept.ite ?_ ?_
    | split

theorem execStok_kept {s u : State} {sa : Nat} {x : Nat} {y : Nat} (h0 : execStok sa x y s = .next u) : s.Kept u := by
  unfold execStok at h0
  refine guardUnit_kept ?_ h0
  clear h0
  try dsimp only
  repeat' first
    | with_reducible exact State.Kept.refl s
    | with_reducible assumption
    | with_reducible apply State.withSlot_kept
    | with_reducible apply State.stok_kept
    | fail_if_no_progress with_reducible refine State.Kept.mk0 ?_ rfl rfl
    | (intro; try dsimp only)

theorem State.channelFault_kept {s0 : State} (s : State) (sa : Nat) (x : Nat) (y : Nat) (h0 : s0.Kept s) :
    s0.Kept (State.channelFault s sa x y) := by
  unfold State.channelFault
  try dsimp only
  repeat' first
    | with_reducible assumption
    | with_reducible apply faultArr_kept
    | fail_if_no_progress with_reducible refine State.Kept.mk0 ?_ rfl rfl

theorem State.drainPort_kept {s0 : State} (s : State) (sa : Nat) (x : Nat) (y : Nat) (port : Nat) (ecc : ReadEcc) (h0 : s0.Kept s) :
    s0.Kept (State.drainPort s sa x y port ecc) := by
  unfold State.drainPort
  try dsimp only
  repeat' first
    | with_reducible assumption
    | with_reducible apply State.injectFor_kept
    | with_reducible apply State.portRead_kept
    | with_reducible apply State.setCore_kept
    | with_reducible apply State.stir_kept
    | fail_if_no_progress with_reducible refine State.Kept.mk0 ?_ rfl rfl
    | with_reducible refine State.Kept.ite ?_ ?_
    | split
    | (intro; try dsimp only)

theorem State.landRing_kept {s0 : State} (s9 : State) (sa : Nat) (x : Nat) (y : Nat) (t : Token) (m : Message) (h0 : s0.Kept s9) :
    s0.Kept (State.landRing s9 sa x y t m) := by
  unfold State.landRing
  try dsimp only
  repeat' first
    | with_reducible assumption
    | with_reducible apply State.credit_kept
    | with_reducible apply State.latch_kept
    | with_reducible apply State.setCore_kept
    | with_reducible apply State.stir_kept
    | with_reducible apply State.channelFault_kept
    | with_reducible apply State.trapLanding_kept
    | fail_if_no_progress with_reducible refine State.Kept.mk0 ?_ rfl rfl
    | with_reducible refine State.Kept.ite ?_ ?_
    | split

theorem State.landWrite_kept {s0 : State} (s9 : State) (sa : Nat) (x : Nat) (y : Nat) (mport : Nat) (m : Message) (h0 : s0.Kept s9) :
    s0.Kept (State.landWrite s9 sa x y mport m) := by
  unfold State.landWrite
  try dsimp only
  repeat' first
    | with_reducible assumption
    | with_reducible apply State.stir_kept
    | with_reducible apply State.afterCount_kept
    | with_reducible apply State.channelFault_kept
    | fail_if_no_progress with_reducible refine State.Kept.mk0 ?_ rfl rfl
    | with_reducible refine State.Kept.ite ?_ ?_
    | split

theorem State.returnCredit_kept {s0 : State} (s : State) (sa : Nat) (x : Nat) (y : Nat) (port : Nat) (h0 : s0.Kept s) :
    s0.Kept (State.returnCredit s sa x y port) := by
  unfold State.returnCredit
  try dsimp only
  repeat' first
    | with_reducible assumption
    | with_reducible apply State.setCore_kept
    | with_reducible apply State.stir_kept
    | with_reducible apply State.consume_kept
    | fail_if_no_progress with_reducible refine State.Kept.mk0 ?_ rfl rfl
    | split

theorem State.send_kept {s0 : State} (s : State) (sa : Nat) (x : Nat) (y : Nat) (c : Core) (w : W64) (d : Nat) (direct : Bool) (h0 : s0.Kept s) :
    s0.Kept (State.send s sa x y c w d direct) := by
  unfold State.send
  try dsimp only
  repeat' first
    | with_reducible assumption
    | with_reducible apply State.fire_kept
    | with_reducible apply slotFault_kept
    | fail_if_no_progress with_reducible refine State.Kept.mk0 ?_ rfl rfl
    | with_reducible refine State.Kept.ite ?_ ?_
    | split

theorem execCreditReturn_kept {s u : State} {sa : Nat} {x : Nat} {y : Nat} {port : Nat} (h0 : execCreditReturn sa x y port s = .next u) : s.Kept u := by
  unfold execCreditReturn at h0
  refine guardUnit_kept ?_ h0
  clear h0
  try dsimp only
  repeat' first
    | with_reducible exact State.Kept.refl s
    | with_reducible assumption
    | with_reducible apply State.returnCredit_kept
    | fail_if_no_progress with_reducible refine State.Kept.mk0 ?_ rfl rfl

theorem execDirectWriteArrival_kept {s u : State} {tok : Nat} {mport : Nat} (h0 : execDirectWriteArrival tok mport s = .next u) : s.Kept u := by
  unfold execDirectWriteArrival at h0
  refine guardUnit_kept ?_ h0
  clear h0
  try dsimp only
  repeat' first
    | with_reducible exact State.Kept.refl s
    | with_reducible assumption
    | with_reducible apply State.landWrite_kept
    | with_reducible apply withToken_kept
    | with_reducible apply State.consume_kept
    | fail_if_no_progress with_reducible refine State.Kept.mk0 ?_ rfl rfl
    | with_reducible refine State.Kept.ite ?_ ?_
    | split
    | (intro; try dsimp only)

theorem execRingMessageArrival_kept {s u : State} {tok : Nat} {mport : Nat} (h0 : execRingMessageArrival tok mport s = .next u) : s.Kept u := by
  unfold execRingMessageArrival at h0
  refine guardUnit_kept ?_ h0
  clear h0
  try dsimp only
  repeat' first
    | with_reducible exact State.Kept.refl s
    | with_reducible assumption
    | with_reducible apply State.landRing_kept
    | with_reducible apply withToken_kept
    | with_reducible apply State.consume_kept
    | fail_if_no_progress with_reducible refine State.Kept.mk0 ?_ rfl rfl
    | with_reducible refine State.Kept.ite ?_ ?_
    | split
    | (intro; try dsimp only)

theorem execRwrite_kept {s u : State} {sa : Nat} {x : Nat} {y : Nat} (h0 : execRwrite sa x y s = .next u) : s.Kept u := by
  unfold execRwrite at h0
  refine guardUnit_kept ?_ h0
  clear h0
  try dsimp only
  repeat' first
    | with_reducible exact State.Kept.refl s
    | with_reducible assumption
    | with_reducible apply State.withSlot_kept
    | with_reducible apply State.send_kept
    | fail_if_no_progress with_reducible refine State.Kept.mk0 ?_ rfl rfl
    | (intro; try dsimp only)

theorem execSend_kept {s u : State} {sa : Nat} {x : Nat} {y : Nat} (h0 : execSend sa x y s = .next u) : s.Kept u := by
  unfold execSend at h0
  refine guardUnit_kept ?_ h0
  clear h0
  try dsimp only
  repeat' first
    | with_reducible exact State.Kept.refl s
    | with_reducible assumption
    | with_reducible apply State.withSlot_kept
    | with_reducible apply State.send_kept
    | fail_if_no_progress with_reducible refine State.Kept.mk0 ?_ rfl rfl
    | (intro; try dsimp only)

theorem execSendDrained_kept {s u : State} {sa : Nat} {x : Nat} {y : Nat} {port : Nat} {ecc : ReadEcc} (h0 : execSendDrained sa x y port ecc s = .next u) : s.Kept u := by
  unfold execSendDrained at h0
  refine guardUnit_kept ?_ h0
  clear h0
  try dsimp only
  repeat' first
    | with_reducible exact State.Kept.refl s
    | with_reducible assumption
    | with_reducible apply State.drainPort_kept
    | fail_if_no_progress with_reducible refine State.Kept.mk0 ?_ rfl rfl

theorem State.countTile_kept {s0 : State} (s : State) (sa : Nat) (x : Nat) (y : Nat) (n : Nat) (c : Core) (h0 : s0.Kept s) :
    s0.Kept (State.countTile s sa x y n c) := by
  unfold State.countTile
  try dsimp only
  repeat' first
    | with_reducible assumption
    | with_reducible apply State.setCore_kept
    | with_reducible apply State.afterCount_kept
    | fail_if_no_progress with_reducible refine State.Kept.mk0 ?_ rfl rfl
    | with_reducible refine State.Kept.ite ?_ ?_
    | split

theorem State.ackTile_kept {s0 : State} (s9 : State) (sa : Nat) (x : Nat) (y : Nat) (n : Nat) (t : Nat) (h0 : s0.Kept s9) :
    s0.Kept (State.ackTile s9 sa x y n t) := by
  unfold State.ackTile
  try dsimp only
  repeat' first
    | with_reducible assumption
    | with_reducible apply State.setPart_kept
    | with_reducible apply State.countTile_kept
    | with_reducible apply State.stir_kept
    | fail_if_no_progress with_reducible refine State.Kept.mk0 ?_ rfl rfl
    | with_reducible refine State.Kept.ite ?_ ?_
    | split

theorem State.fetched_kept {s0 : State} (s : State) (sa : Nat) (x : Nat) (y : Nat) (d : Nat) (us : List Nat) (ecc : ReadEcc) (f : State → State) (h0 : s0.Kept s) (h1 : ∀ v0, s0.Kept v0 → s0.Kept (f v0)) :
    s0.Kept (State.fetched s sa x y d us ecc f) := by
  unfold State.fetched
  try dsimp only
  repeat' first
    | with_reducible assumption
    | with_reducible apply h1
    | with_reducible apply State.fire_kept
    | with_reducible apply State.scratchCe_kept
    | with_reducible apply State.scratchUe_kept
    | fail_if_no_progress with_reducible refine State.Kept.mk0 ?_ rfl rfl
    | split

theorem State.landTile_kept {s0 : State} (s9 : State) (sa : Nat) (x : Nat) (y : Nat) (n : Nat) (late : Bool) (t : Nat) (raddr : Nat) (seq : Nat) (data : List Byte) (h0 : s0.Kept s9) :
    s0.Kept (State.landTile s9 sa x y n late t raddr seq data) := by
  unfold State.landTile
  try dsimp only
  repeat' first
    | with_reducible assumption
    | with_reducible apply State.countTile_kept
    | with_reducible apply faultArr_kept
    | with_reducible apply State.setCore_kept
    | with_reducible apply State.stir_kept
    | fail_if_no_progress with_reducible refine State.Kept.mk0 ?_ rfl rfl
    | with_reducible refine State.Kept.ite ?_ ?_
    | split

theorem State.sendRequest_kept {s0 : State} (s : State) (sa : Nat) (x : Nat) (y : Nat) (d : Nat) (t : Nat) (h0 : s0.Kept s) :
    s0.Kept (State.sendRequest s sa x y d t) := by
  unfold State.sendRequest
  try dsimp only
  repeat' first
    | with_reducible assumption
    | with_reducible apply State.injectFor_kept
    | fail_if_no_progress with_reducible refine State.Kept.mk0 ?_ rfl rfl
    | with_reducible refine State.Kept.ite ?_ ?_
    | split

theorem State.sendRequests_kept {s0 : State} (s : State) (sa : Nat) (x : Nat) (y : Nat) (d : Nat) (a5 : Nat) (a6 : Nat) (h0 : s0.Kept s) :
    s0.Kept (State.sendRequests s sa x y d a5 a6) := by
  induction a6 generalizing s sa x y d a5 h0 with
  | zero =>
    unfold State.sendRequests
    try dsimp only
    repeat' first
      | with_reducible assumption
      | with_reducible apply ih
      | with_reducible apply State.sendRequest_kept
      | fail_if_no_progress with_reducible refine State.Kept.mk0 ?_ rfl rfl
      | split
  | succ n ih =>
    unfold State.sendRequests
    try dsimp only
    repeat' first
      | with_reducible assumption
      | with_reducible apply ih
      | with_reducible apply State.sendRequest_kept
      | fail_if_no_progress with_reducible refine State.Kept.mk0 ?_ rfl rfl
      | split

theorem State.sfetch_kept {s0 : State} (s : State) (sa : Nat) (x : Nat) (y : Nat) (c : Core) (w : W64) (d : Nat) (h0 : s0.Kept s) :
    s0.Kept (State.sfetch s sa x y c w d) := by
  unfold State.sfetch
  try dsimp only
  repeat' first
    | with_reducible assumption
    | with_reducible apply State.fire_kept
    | with_reducible apply State.setPart_kept
    | with_reducible apply State.sendRequests_kept
    | with_reducible apply slotFault_kept
    | with_reducible apply State.sendRequest_kept
    | fail_if_no_progress with_reducible refine State.Kept.mk0 ?_ rfl rfl
    | with_reducible refine State.Kept.ite ?_ ?_
    | split

theorem State.srel_kept {s0 : State} (s : State) (sa : Nat) (x : Nat) (y : Nat) (c : Core) (w : W64) (d : Nat) (h0 : s0.Kept s) :
    s0.Kept (State.srel s sa x y c w d) := by
  unfold State.srel
  try dsimp only
  repeat' first
    | with_reducible assumption
    | with_reducible apply State.fire_kept
    | with_reducible apply State.injectFor_kept
    | with_reducible apply slotFault_kept
    | with_reducible apply State.sendRequest_kept
    | fail_if_no_progress with_reducible refine State.Kept.mk0 ?_ rfl rfl
    | with_reducible refine State.Kept.ite ?_ ?_
    | split

theorem execSfetch_kept {s u : State} {sa : Nat} {x : Nat} {y : Nat} {ecc : ReadEcc} (h0 : execSfetch sa x y ecc s = .next u) : s.Kept u := by
  unfold execSfetch at h0
  refine guardUnit_kept ?_ h0
  clear h0
  try dsimp only
  repeat' first
    | with_reducible exact State.Kept.refl s
    | with_reducible assumption
    | with_reducible apply State.withSlot_kept
    | with_reducible apply State.fetched_kept
    | with_reducible apply State.sfetch_kept
    | fail_if_no_progress with_reducible refine State.Kept.mk0 ?_ rfl rfl
    | (intro; try dsimp only)

theorem execSrel_kept {s u : State} {sa : Nat} {x : Nat} {y : Nat} {ecc : ReadEcc} (h0 : execSrel sa x y ecc s = .next u) : s.Kept u := by
  unfold execSrel at h0
  refine guardUnit_kept ?_ h0
  clear h0
  try dsimp only
  repeat' first
    | with_reducible exact State.Kept.refl s
    | with_reducible assumption
    | with_reducible apply State.withSlot_kept
    | with_reducible apply State.fetched_kept
    | with_reducible apply State.srel_kept
    | fail_if_no_progress with_reducible refine State.Kept.mk0 ?_ rfl rfl
    | (intro; try dsimp only)

theorem execTileLanding_kept {s u : State} {tok : Nat} (h0 : execTileLanding tok s = .next u) : s.Kept u := by
  unfold execTileLanding at h0
  refine guardUnit_kept ?_ h0
  clear h0
  try dsimp only
  repeat' first
    | with_reducible exact State.Kept.refl s
    | with_reducible assumption
    | with_reducible apply State.landTile_kept
    | with_reducible apply withToken_kept
    | with_reducible apply State.consume_kept
    | fail_if_no_progress with_reducible refine State.Kept.mk0 ?_ rfl rfl
    | with_reducible refine State.Kept.ite ?_ ?_
    | split
    | (intro; try dsimp only)

theorem execWriteAck_kept {s u : State} {tok : Nat} (h0 : execWriteAck tok s = .next u) : s.Kept u := by
  unfold execWriteAck at h0
  refine guardUnit_kept ?_ h0
  clear h0
  try dsimp only
  repeat' first
    | with_reducible exact State.Kept.refl s
    | with_reducible assumption
    | with_reducible apply withToken_kept
    | with_reducible apply State.consume_kept
    | with_reducible apply State.ackTile_kept
    | fail_if_no_progress with_reducible refine State.Kept.mk0 ?_ rfl rfl
    | with_reducible refine State.Kept.ite ?_ ?_
    | split
    | (intro; try dsimp only)

theorem State.routeLostAt_kept {s0 : State} (s : State) (site : Nat) (a2 : List Nat) (h0 : s0.Kept s) :
    s0.Kept (State.routeLostAt s site a2) := by
  induction a2 generalizing s site h0 with
  | nil =>
    unfold State.routeLostAt
    try dsimp only
    repeat' first
      | with_reducible assumption
      | with_reducible apply ih
      | with_reducible apply faultPart_kept
      | fail_if_no_progress with_reducible refine State.Kept.mk0 ?_ rfl rfl
      | with_reducible refine State.Kept.ite ?_ ?_
      | split
  | cons x xs ih =>
    unfold State.routeLostAt
    try dsimp only
    repeat' first
      | with_reducible assumption
      | with_reducible apply ih
      | with_reducible apply faultPart_kept
      | fail_if_no_progress with_reducible refine State.Kept.mk0 ?_ rfl rfl
      | with_reducible refine State.Kept.ite ?_ ?_
      | split

theorem State.killDir_kept {s0 : State} (s : State) (site : Nat) (dir : Nat) (h0 : s0.Kept s) :
    s0.Kept (State.killDir s site dir) := by
  unfold State.killDir
  try dsimp only
  repeat' first
    | with_reducible assumption
    | with_reducible apply State.setRouter_kept
    | with_reducible apply State.routeLostAt_kept
    | with_reducible apply State.event_kept
    | fail_if_no_progress with_reducible refine State.Kept.mk0 ?_ rfl rfl
    | with_reducible refine State.Kept.ite ?_ ?_
    | split

theorem State.spareLane_kept {s0 : State} (s : State) (site : Nat) (dir : Nat) (lane : Nat) (h0 : s0.Kept s) :
    s0.Kept (State.spareLane s site dir lane) := by
  unfold State.spareLane
  try dsimp only
  repeat' first
    | with_reducible assumption
    | with_reducible apply State.setRouter_kept
    | with_reducible apply State.routeLostAt_kept
    | with_reducible apply State.leaveSite_kept
    | with_reducible apply State.killDir_kept
    | with_reducible apply State.addSoft_kept
    | with_reducible apply State.event_kept
    | fail_if_no_progress with_reducible refine State.Kept.mk0 ?_ rfl rfl
    | with_reducible refine State.Kept.ite ?_ ?_
    | split

theorem State.dropRoute_kept {s0 : State} (s : State) (site : Nat) (t : Token) (h0 : s0.Kept s) :
    s0.Kept (State.dropRoute s site t) := by
  unfold State.dropRoute
  try dsimp only
  repeat' first
    | with_reducible assumption
    | with_reducible apply faultPart_kept
    | with_reducible apply State.consume_kept
    | fail_if_no_progress with_reducible refine State.Kept.mk0 ?_ rfl rfl
    | with_reducible refine State.Kept.ite ?_ ?_
    | split

theorem State.markLane_kept {s0 : State} (s : State) (site : Nat) (key : Nat) (h0 : s0.Kept s) :
    s0.Kept (State.markLane s site key) := by
  unfold State.markLane
  try dsimp only
  repeat' first
    | with_reducible assumption
    | with_reducible apply State.setRouter_kept
    | fail_if_no_progress with_reducible refine State.Kept.mk0 ?_ rfl rfl
    | with_reducible refine State.Kept.ite ?_ ?_
    | split

theorem State.laneError_kept {s0 : State} (s : State) (site : Nat) (key : Nat) (h0 : s0.Kept s) :
    s0.Kept (State.laneError s site key) := by
  unfold State.laneError
  try dsimp only
  repeat' first
    | with_reducible assumption
    | with_reducible apply State.setRouter_kept
    | with_reducible apply State.markLane_kept
    | fail_if_no_progress with_reducible refine State.Kept.mk0 ?_ rfl rfl
    | with_reducible refine State.Kept.ite ?_ ?_
    | split

theorem State.flits_kept {s0 : State} (s : State) (t : Token) (ecc : FlitEcc) (f : State → State) (h0 : s0.Kept s) (h1 : ∀ v0, s0.Kept v0 → s0.Kept (f v0)) :
    s0.Kept (State.flits s t ecc f) := by
  unfold State.flits
  try dsimp only
  repeat' first
    | with_reducible assumption
    | with_reducible apply h1
    | with_reducible apply State.laneError_kept
    | with_reducible apply State.markLane_kept
    | with_reducible apply State.consume_kept
    | fail_if_no_progress with_reducible refine State.Kept.mk0 ?_ rfl rfl
    | split

theorem State.forward_kept {s0 : State} (s : State) (site : Nat) (t : Token) (h0 : s0.Kept s) :
    s0.Kept (State.forward s site t) := by
  unfold State.forward
  try dsimp only
  repeat' first
    | with_reducible assumption
    | with_reducible apply State.replaceToken_kept
    | with_reducible apply State.dropRoute_kept
    | with_reducible apply State.consume_kept
    | fail_if_no_progress with_reducible refine State.Kept.mk0 ?_ rfl rfl
    | with_reducible refine State.Kept.ite ?_ ?_
    | split

theorem State.mergedRelease_kept {s0 : State} (s : State) (g : Tree) (t : Nat) (ecc : ReadEcc) (h0 : s0.Kept s) :
    s0.Kept (State.mergedRelease s g t ecc) := by
  unfold State.mergedRelease
  try dsimp only
  repeat' first
    | with_reducible assumption
    | with_reducible apply State.portRead_kept
    | with_reducible apply State.setCore_kept
    | with_reducible apply State.sendRequest_kept
    | fail_if_no_progress with_reducible refine State.Kept.mk0 ?_ rfl rfl
    | with_reducible refine State.Kept.ite ?_ ?_
    | split
    | (intro; try dsimp only)

theorem State.sendWaits_kept {s0 : State} (s : State) (sa : Nat) (x : Nat) (y : Nat) (d : Nat) (h0 : s0.Kept s) :
    s0.Kept (State.sendWaits s sa x y d) := by
  unfold State.sendWaits
  try dsimp only
  repeat' first
    | with_reducible assumption
    | with_reducible apply State.setCore_kept
    | with_reducible apply State.sendRequest_kept
    | fail_if_no_progress with_reducible refine State.Kept.mk0 ?_ rfl rfl
    | with_reducible refine State.Kept.ite ?_ ?_
    | with_reducible refine State.Kept.foldl ?_ ?_
    | with_reducible refine State.Kept.foldl_fst ?_ ?_
    | split
    | (intro; try dsimp only)

theorem State.sendAllWaits_kept {s0 : State} (s : State) (errs : List (Nat × ReadEcc)) (a2 : List (Nat × Core)) (h0 : s0.Kept s) :
    s0.Kept (State.sendAllWaits s errs a2) := by
  induction a2 generalizing s errs h0 with
  | nil =>
    unfold State.sendAllWaits
    try dsimp only
    repeat' first
      | with_reducible assumption
      | with_reducible apply ih
      | with_reducible apply State.sendWaits_kept
      | with_reducible apply State.portRead_kept
      | fail_if_no_progress with_reducible refine State.Kept.mk0 ?_ rfl rfl
      | with_reducible refine State.Kept.foldl ?_ ?_
      | with_reducible refine State.Kept.foldl_fst ?_ ?_
      | split
      | (intro; try dsimp only)
  | cons x xs ih =>
    unfold State.sendAllWaits
    try dsimp only
    repeat' first
      | with_reducible assumption
      | with_reducible apply ih
      | with_reducible apply State.sendWaits_kept
      | with_reducible apply State.portRead_kept
      | fail_if_no_progress with_reducible refine State.Kept.mk0 ?_ rfl rfl
      | with_reducible refine State.Kept.foldl ?_ ?_
      | with_reducible refine State.Kept.foldl_fst ?_ ?_
      | split
      | (intro; try dsimp only)

theorem State.redAdd_kept {s0 : State} (s : State) (site : Nat) (slot : Nat) (h0 : s0.Kept s) :
    s0.Kept (State.redAdd s site slot) := by
  unfold State.redAdd
  try dsimp only
  repeat' first
    | with_reducible assumption
    | with_reducible apply State.setRouter_kept
    | with_reducible apply State.credit_kept
    | with_reducible apply State.inject_kept
    | fail_if_no_progress with_reducible refine State.Kept.mk0 ?_ rfl rfl
    | split

theorem State.redInput_kept {s0 : State} (s : State) (t : Token) (m : Message) (w : W64) (b : RedBuf) (put : State → RedBuf → State) (f : FaultInfo) (h0 : s0.Kept s) (h1 : ∀ v0 v1, s0.Kept v0 → s0.Kept (put v0 v1)) :
    s0.Kept (State.redInput s t m w b put f) := by
  unfold State.redInput
  try dsimp only
  repeat' first
    | with_reducible assumption
    | with_reducible apply h1
    | with_reducible apply State.credit_kept
    | with_reducible apply faultPart_kept
    | with_reducible apply State.consume_kept
    | fail_if_no_progress with_reducible refine State.Kept.mk0 ?_ rfl rfl
    | with_reducible refine State.Kept.ite ?_ ?_
    | split

theorem State.releaseAt_kept {s0 : State} (s : State) (site : Nat) (tok : Token) (g : Tree) (tile : Nat) (branch : Nat) (ecc : ReadEcc) (h0 : s0.Kept s) :
    s0.Kept (State.releaseAt s site tok g tile branch ecc) := by
  unfold State.releaseAt
  try dsimp only
  repeat' first
    | with_reducible assumption
    | with_reducible apply State.setRouter_kept
    | with_reducible apply State.replaceToken_kept
    | with_reducible apply State.mergedRelease_kept
    | with_reducible apply State.consume_kept
    | fail_if_no_progress with_reducible refine State.Kept.mk0 ?_ rfl rfl
    | with_reducible refine State.Kept.ite ?_ ?_
    | with_reducible refine State.Kept.foldl ?_ ?_
    | with_reducible refine State.Kept.foldl_fst ?_ ?_
    | split
    | (intro; try dsimp only)

theorem State.staRedAdd_kept {s0 : State} (s : State) (ms : Nat) (slot : Nat) (h0 : s0.Kept s) :
    s0.Kept (State.staRedAdd s ms slot) := by
  unfold State.staRedAdd
  try dsimp only
  repeat' first
    | with_reducible assumption
    | with_reducible apply State.credit_kept
    | with_reducible apply State.inject_kept
    | with_reducible apply State.setMem_kept
    | fail_if_no_progress with_reducible refine State.Kept.mk0 ?_ rfl rfl
    | split

theorem State.tookTurn_kept {s0 : State} (s : State) (site : Nat) (t : Token) (h0 : s0.Kept s) :
    s0.Kept (State.tookTurn s site t) := by
  unfold State.tookTurn
  try dsimp only
  repeat' first
    | with_reducible assumption
    | with_reducible apply State.setRouter_kept
    | fail_if_no_progress with_reducible refine State.Kept.mk0 ?_ rfl rfl
    | with_reducible refine State.Kept.ite ?_ ?_
    | split

theorem execLaneSpare_kept {s u : State} {site : Nat} {dir : Nat} {lane : Nat} (h0 : execLaneSpare site dir lane s = .next u) : s.Kept u := by
  unfold execLaneSpare at h0
  refine guardUnit_kept ?_ h0
  clear h0
  try dsimp only
  repeat' first
    | with_reducible exact State.Kept.refl s
    | with_reducible assumption
    | with_reducible apply State.spareLane_kept
    | fail_if_no_progress with_reducible refine State.Kept.mk0 ?_ rfl rfl
    | with_reducible refine State.Kept.ite ?_ ?_
    | split

theorem execReductionAdd_kept {s u : State} {site : Nat} {slot : Nat} (h0 : execReductionAdd site slot s = .next u) : s.Kept u := by
  unfold execReductionAdd at h0
  refine guardUnit_kept ?_ h0
  clear h0
  try dsimp only
  repeat' first
    | with_reducible exact State.Kept.refl s
    | with_reducible assumption
    | with_reducible apply State.redAdd_kept
    | fail_if_no_progress with_reducible refine State.Kept.mk0 ?_ rfl rfl
    | with_reducible refine State.Kept.ite ?_ ?_
    | split

theorem execReductionInput_kept {s u : State} {tok : Nat} (h0 : execReductionInput tok s = .next u) : s.Kept u := by
  unfold execReductionInput at h0
  refine guardUnit_kept ?_ h0
  clear h0
  try dsimp only
  repeat' first
    | with_reducible exact State.Kept.refl s
    | with_reducible assumption
    | with_reducible apply State.setRouter_kept
    | with_reducible apply withToken_kept
    | with_reducible apply State.redInput_kept
    | fail_if_no_progress with_reducible refine State.Kept.mk0 ?_ rfl rfl
    | with_reducible refine State.Kept.ite ?_ ?_
    | split
    | (intro; try dsimp only)

theorem execReleaseToken_kept {s u : State} {tok : Nat} {ecc : ReadEcc} (h0 : execReleaseToken tok ecc s = .next u) : s.Kept u := by
  unfold execReleaseToken at h0
  refine guardUnit_kept ?_ h0
  clear h0
  try dsimp only
  repeat' first
    | with_reducible exact State.Kept.refl s
    | with_reducible assumption
    | with_reducible apply withToken_kept
    | with_reducible apply State.releaseAt_kept
    | with_reducible apply State.consume_kept
    | fail_if_no_progress with_reducible refine State.Kept.mk0 ?_ rfl rfl
    | with_reducible refine State.Kept.ite ?_ ?_
    | split
    | (intro; try dsimp only)

theorem execRouterMessage_kept {s u : State} {tok : Nat} {ecc : FlitEcc} (h0 : execRouterMessage tok ecc s = .next u) : s.Kept u := by
  unfold execRouterMessage at h0
  refine guardUnit_kept ?_ h0
  clear h0
  try dsimp only
  repeat' first
    | with_reducible exact State.Kept.refl s
    | with_reducible assumption
    | with_reducible apply withToken_kept
    | with_reducible apply State.forward_kept
    | with_reducible apply State.consume_kept
    | with_reducible apply State.tookTurn_kept
    | with_reducible apply State.flits_kept
    | fail_if_no_progress with_reducible refine State.Kept.mk0 ?_ rfl rfl
    | with_reducible refine State.Kept.ite ?_ ?_
    | split
    | (intro; try dsimp only)

theorem execStationRedAdd_kept {s u : State} {ms : Nat} {slot : Nat} (h0 : execStationRedAdd ms slot s = .next u) : s.Kept u := by
  unfold execStationRedAdd at h0
  refine guardUnit_kept ?_ h0
  clear h0
  try dsimp only
  repeat' first
    | with_reducible exact State.Kept.refl s
    | with_reducible assumption
    | with_reducible apply State.staRedAdd_kept
    | fail_if_no_progress with_reducible refine State.Kept.mk0 ?_ rfl rfl
    | with_reducible refine State.Kept.ite ?_ ?_
    | split

theorem execStationRedInput_kept {s u : State} {tok : Nat} (h0 : execStationRedInput tok s = .next u) : s.Kept u := by
  unfold execStationRedInput at h0
  refine guardUnit_kept ?_ h0
  clear h0
  try dsimp only
  repeat' first
    | with_reducible exact State.Kept.refl s
    | with_reducible assumption
    | with_reducible apply withToken_kept
    | with_reducible apply State.setMem_kept
    | with_reducible apply State.redInput_kept
    | fail_if_no_progress with_reducible refine State.Kept.mk0 ?_ rfl rfl
    | with_reducible refine State.Kept.ite ?_ ?_
    | split
    | (intro; try dsimp only)

end Sys2Proof.Machine
end

