-- ==== Sys2Proof/Laws/KeepsMemory.lean ====
section
/-!
SUPPORT. `_kept` lemmas (Laws/Keeps) of the operations on memory stations, parameters and the slow tier.
-/
namespace Sys2Proof.Machine

theorem Reading.checked_kept {s0 : State} (rd : Reading) (p : Nat) (r : Nat) (w : Nat × Nat) (h0 : s0.Kept rd.1) :
    s0.Kept (Reading.checked rd p r w).1 := by
  unfold Reading.checked
  try dsimp only
  repeat' first
    | with_reducible assumption
    | fail_if_no_progress with_reducible refine State.Kept.mk0 ?_ rfl rfl
    | with_reducible refine State.Kept.ite ?_ ?_
    | split

theorem Reading.next_kept {s0 : State} (rd : Reading) (h0 : s0.Kept rd.1) :
    s0.Kept (Reading.next rd).1 := by
  unfold Reading.next
  try dsimp only
  repeat' first
    | with_reducible assumption
    | fail_if_no_progress with_reducible refine State.Kept.mk0 ?_ rfl rfl

theorem State.stationLostFor_kept {s0 : State} (s : State) (cause : Nat) (station : Nat) (a3 : List Nat) (h0 : s0.Kept s) :
    s0.Kept (State.stationLostFor s cause station a3) := by
  induction a3 generalizing s cause station h0 with
  | nil =>
    unfold State.stationLostFor
    try dsimp only
    repeat' first
      | with_reducible assumption
      | with_reducible apply ih
      | with_reducible apply stationFault_kept
      | fail_if_no_progress with_reducible refine State.Kept.mk0 ?_ rfl rfl
      | split
  | cons x xs ih =>
    unfold State.stationLostFor
    try dsimp only
    repeat' first
      | with_reducible assumption
      | with_reducible apply ih
      | with_reducible apply stationFault_kept
      | fail_if_no_progress with_reducible refine State.Kept.mk0 ?_ rfl rfl
      | split

theorem State.refuseCommit_kept {s0 : State} (s : State) (h : Nat) (reason : Nat) (h0 : s0.Kept s) :
    s0.Kept (State.refuseCommit s h reason) := by
  unfold State.refuseCommit
  try dsimp only
  repeat' first
    | with_reducible assumption
    | with_reducible apply State.setPart_kept
    | with_reducible apply State.setLoader_kept
    | with_reducible apply State.countReject_kept
    | fail_if_no_progress with_reducible refine State.Kept.mk0 ?_ rfl rfl

theorem State.refusePlaced_kept {s0 : State} (s : State) (st : Nat) (a2 : List Nat) (h0 : s0.Kept s) :
    s0.Kept (State.refusePlaced s st a2) := by
  induction a2 generalizing s st h0 with
  | nil =>
    unfold State.refusePlaced
    try dsimp only
    repeat' first
      | with_reducible assumption
      | with_reducible apply ih
      | with_reducible apply State.refuseCommit_kept
      | fail_if_no_progress with_reducible refine State.Kept.mk0 ?_ rfl rfl
      | with_reducible refine State.Kept.ite ?_ ?_
      | split
  | cons x xs ih =>
    unfold State.refusePlaced
    try dsimp only
    repeat' first
      | with_reducible assumption
      | with_reducible apply ih
      | with_reducible apply State.refuseCommit_kept
      | fail_if_no_progress with_reducible refine State.Kept.mk0 ?_ rfl rfl
      | with_reducible refine State.Kept.ite ?_ ?_
      | split

theorem State.updVolume_kept {s0 : State} (s : State) (p : Nat) (r : Nat) (f : Volume → Volume) (h0 : s0.Kept s) :
    s0.Kept (State.updVolume s p r f) := by
  unfold State.updVolume
  try dsimp only
  repeat' first
    | with_reducible assumption
    | with_reducible apply State.setVolume_kept
    | fail_if_no_progress with_reducible refine State.Kept.mk0 ?_ rfl rfl
    | split

theorem State.dirtyLost_kept {s0 : State} (s : State) (a1 : List (Nat × DirEnt)) (h0 : s0.Kept s) :
    s0.Kept (State.dirtyLost s a1) := by
  induction a1 generalizing s h0 with
  | nil =>
    unfold State.dirtyLost
    try dsimp only
    repeat' first
      | with_reducible assumption
      | with_reducible apply ih
      | with_reducible apply State.updVolume_kept
      | fail_if_no_progress with_reducible refine State.Kept.mk0 ?_ rfl rfl
      | with_reducible refine State.Kept.ite ?_ ?_
      | split
  | cons x xs ih =>
    unfold State.dirtyLost
    try dsimp only
    repeat' first
      | with_reducible assumption
      | with_reducible apply ih
      | with_reducible apply State.updVolume_kept
      | fail_if_no_progress with_reducible refine State.Kept.mk0 ?_ rfl rfl
      | with_reducible refine State.Kept.ite ?_ ?_
      | split

theorem State.updMem_kept {s0 : State} (s : State) (st : Nat) (f : Ms → Ms) (h0 : s0.Kept s) :
    s0.Kept (State.updMem s st f) := by
  unfold State.updMem
  try dsimp only
  repeat' first
    | with_reducible assumption
    | with_reducible apply State.setMem_kept
    | fail_if_no_progress with_reducible refine State.Kept.mk0 ?_ rfl rfl

theorem State.loseMs_kept {s0 : State} (s : State) (st : Nat) (h0 : s0.Kept s) :
    s0.Kept (State.loseMs s st) := by
  unfold State.loseMs
  try dsimp only
  repeat' first
    | with_reducible assumption
    | with_reducible apply State.stationLostFor_kept
    | with_reducible apply State.refusePlaced_kept
    | with_reducible apply State.dirtyLost_kept
    | with_reducible apply State.updMem_kept
    | with_reducible apply State.dropHost_kept
    | with_reducible apply State.event_kept
    | fail_if_no_progress with_reducible refine State.Kept.mk0 ?_ rfl rfl
    | with_reducible refine State.Kept.ite ?_ ?_
    | split

theorem State.poisonSector_kept {s0 : State} (s : State) (st : Nat) (a : Nat) (h0 : s0.Kept s) :
    s0.Kept (State.poisonSector s st a) := by
  unfold State.poisonSector
  try dsimp only
  repeat' first
    | with_reducible assumption
    | with_reducible apply State.loseMs_kept
    | with_reducible apply State.updMem_kept
    | with_reducible apply State.setMem_kept
    | fail_if_no_progress with_reducible refine State.Kept.mk0 ?_ rfl rfl
    | with_reducible refine State.Kept.ite ?_ ?_
    | split

theorem State.readSpots_kept {s0 : State} (s : State) (errs : List SymErr) (a2 : Nat) (a3 : List (Nat × Nat)) (h0 : s0.Kept s) :
    s0.Kept (State.readSpots s errs a2 a3).1 := by
  induction a3 generalizing s errs a2 h0 with
  | nil =>
    unfold State.readSpots
    try dsimp only
    repeat' first
      | with_reducible assumption
      | with_reducible apply ih
      | with_reducible apply State.poisonSector_kept
      | with_reducible apply State.updMem_kept
      | fail_if_no_progress with_reducible refine State.Kept.mk0 ?_ rfl rfl
      | with_reducible refine State.Kept.ite ?_ ?_
      | split
  | cons x xs ih =>
    unfold State.readSpots
    try dsimp only
    repeat' first
      | with_reducible assumption
      | with_reducible apply ih
      | with_reducible apply State.poisonSector_kept
      | with_reducible apply State.updMem_kept
      | fail_if_no_progress with_reducible refine State.Kept.mk0 ?_ rfl rfl
      | with_reducible refine State.Kept.ite ?_ ?_
      | split

theorem Reading.range_kept {s0 : State} (rd : Reading) (p : Nat) (r : Nat) (errs : List SymErr) (w : Nat × Nat) (h0 : s0.Kept rd.1) :
    s0.Kept (Reading.range rd p r errs w).1 := by
  unfold Reading.range
  try dsimp only
  repeat' first
    | with_reducible assumption
    | with_reducible apply State.readSpots_kept
    | fail_if_no_progress with_reducible refine State.Kept.mk0 ?_ rfl rfl
    | with_reducible refine State.Kept.of_pair ‹_› ?_
    | split

theorem Reading.ranges_kept {s0 : State} (rd : Reading) (p : Nat) (r : Nat) (errs : List SymErr) (l : List (Nat × Nat)) (h0 : s0.Kept rd.1) :
    s0.Kept (Reading.ranges rd p r errs l).1 := by
  unfold Reading.ranges
  try dsimp only
  repeat' first
    | with_reducible assumption
    | with_reducible apply Reading.range_kept
    | fail_if_no_progress with_reducible refine State.Kept.mk0 ?_ rfl rfl
    | with_reducible refine State.Kept.foldl ?_ ?_
    | with_reducible refine State.Kept.foldl_fst ?_ ?_
    | with_reducible refine State.Kept.of_pair ‹_› ?_
    | (intro; try dsimp only)

theorem State.readSectors_kept {s0 : State} (s : State) (st : Nat) (errs : List SymErr) (a3 : Nat) (a4 : Nat) (a5 : Nat) (h0 : s0.Kept s) :
    s0.Kept (State.readSectors s st errs a3 a4 a5).1 := by
  induction a5 generalizing s st errs a3 a4 h0 with
  | zero =>
    unfold State.readSectors
    try dsimp only
    repeat' first
      | with_reducible assumption
      | with_reducible apply ih
      | with_reducible apply State.poisonSector_kept
      | with_reducible apply State.updMem_kept
      | fail_if_no_progress with_reducible refine State.Kept.mk0 ?_ rfl rfl
      | with_reducible refine State.Kept.ite ?_ ?_
      | split
  | succ n ih =>
    unfold State.readSectors
    try dsimp only
    repeat' first
      | with_reducible assumption
      | with_reducible apply ih
      | with_reducible apply State.poisonSector_kept
      | with_reducible apply State.updMem_kept
      | fail_if_no_progress with_reducible refine State.Kept.mk0 ?_ rfl rfl
      | with_reducible refine State.Kept.ite ?_ ?_
      | split

theorem State.readStack_kept {s0 : State} (s : State) (st : Nat) (a : Nat) (n : Nat) (errs : List SymErr) (h0 : s0.Kept s) :
    s0.Kept (State.readStack s st a n errs).1 := by
  unfold State.readStack
  try dsimp only
  repeat' first
    | with_reducible assumption
    | with_reducible apply State.readSectors_kept
    | fail_if_no_progress with_reducible refine State.Kept.mk0 ?_ rfl rfl
    | with_reducible refine State.Kept.of_pair ‹_› ?_

theorem State.saveBlock_kept {s0 : State} (s : State) (st : Nat) (k : Nat) (d : DirEnt) (errs : List SymErr) (h0 : s0.Kept s) :
    s0.Kept (State.saveBlock s st k d errs).1 := by
  unfold State.saveBlock
  try dsimp only
  repeat' first
    | with_reducible assumption
    | with_reducible apply State.updVolume_kept
    | with_reducible apply State.readStack_kept
    | fail_if_no_progress with_reducible refine State.Kept.mk0 ?_ rfl rfl
    | with_reducible refine State.Kept.of_pair ‹_› ?_
    | split

theorem State.useSlot_kept {s0 : State} (s : State) (st : Nat) (k : Nat) (d : DirEnt) (h0 : s0.Kept s) :
    s0.Kept (State.useSlot s st k d) := by
  unfold State.useSlot
  try dsimp only
  repeat' first
    | with_reducible assumption
    | with_reducible apply State.saveBlock_kept
    | with_reducible apply State.updMem_kept
    | fail_if_no_progress with_reducible refine State.Kept.mk0 ?_ rfl rfl
    | with_reducible refine State.Kept.ite ?_ ?_
    | with_reducible refine State.Kept.of_pair ‹_› ?_
    | split

theorem State.countEviction_kept {s0 : State} (s : State) (h0 : s0.Kept s) :
    s0.Kept (State.countEviction s) := by
  unfold State.countEviction
  try dsimp only
  repeat' first
    | with_reducible assumption
    | fail_if_no_progress with_reducible refine State.Kept.mk0 ?_ rfl rfl

theorem State.startJob_kept {s0 s t : State} {st p : Nat} {j : Job} (e : s.startJob st p j = some t)
    (h : s0.Kept s) : s0.Kept t := by
  unfold State.startJob at e
  split at e
  · cases e
    exact State.updMem_kept _ _ _ h
  · split at e
    · cases e
      exact h
    · cases e

theorem State.stageInto_kept {s0 : State} (s : State) (st : Nat) (k : Nat) (p : Nat) (r : Nat) (b : Nat) (h0 : s0.Kept s) :
    s0.Kept (State.stageInto s st k p r b).1 := by
  unfold State.stageInto
  try dsimp only
  repeat' first
    | with_reducible assumption
    | with_reducible apply State.updMem_kept
    | fail_if_no_progress with_reducible refine State.Kept.mk0 ?_ rfl rfl
    | with_reducible refine State.startJob_kept ‹_› ?_
    | split

theorem State.sweepOnce_kept {s0 : State} (s : State) (st : Nat) (p : Nat) (h0 : s0.Kept s) :
    s0.Kept (State.sweepOnce s st p).1 := by
  unfold State.sweepOnce
  try dsimp only
  repeat' first
    | with_reducible assumption
    | with_reducible apply State.updMem_kept
    | fail_if_no_progress with_reducible refine State.Kept.mk0 ?_ rfl rfl

theorem State.victim_kept {s0 : State} (s : State) (st : Nat) (p : Nat) (h0 : s0.Kept s) :
    s0.Kept (State.victim s st p).1 := by
  unfold State.victim
  try dsimp only
  repeat' first
    | with_reducible assumption
    | with_reducible apply State.sweepOnce_kept
    | fail_if_no_progress with_reducible refine State.Kept.mk0 ?_ rfl rfl
    | with_reducible refine State.Kept.of_pair ‹_› ?_
    | split

theorem State.takeSlot_kept {s0 : State} (s : State) (st : Nat) (p : Nat) (r : Nat) (b : Nat) (h0 : s0.Kept s) :
    s0.Kept (State.takeSlot s st p r b).1 := by
  unfold State.takeSlot
  try dsimp only
  repeat' first
    | with_reducible assumption
    | with_reducible apply State.countEviction_kept
    | with_reducible apply State.stageInto_kept
    | with_reducible apply State.updMem_kept
    | with_reducible apply State.victim_kept
    | fail_if_no_progress with_reducible refine State.Kept.mk0 ?_ rfl rfl
    | with_reducible refine State.Kept.ite ?_ ?_
    | with_reducible refine State.startJob_kept ‹_› ?_
    | with_reducible refine State.Kept.of_pair ‹_› ?_
    | split

theorem State.want_kept {s0 : State} (s : State) (p : Nat) (r : Nat) (b : Nat) (h0 : s0.Kept s) :
    s0.Kept (State.want s p r b).1 := by
  unfold State.want
  try dsimp only
  repeat' first
    | with_reducible assumption
    | with_reducible apply State.useSlot_kept
    | with_reducible apply State.takeSlot_kept
    | fail_if_no_progress with_reducible refine State.Kept.mk0 ?_ rfl rfl
    | with_reducible refine State.Kept.of_pair ‹_› ?_
    | split

theorem State.dispatch_kept {s0 : State} (s : State) (st : Nat) (a2 : Nat) (h0 : s0.Kept s) :
    s0.Kept (State.dispatch s st a2) := by
  induction a2 generalizing s st h0 with
  | zero =>
    unfold State.dispatch
    try dsimp only
    repeat' first
      | with_reducible assumption
      | with_reducible apply ih
      | with_reducible apply State.updMem_kept
      | fail_if_no_progress with_reducible refine State.Kept.mk0 ?_ rfl rfl
      | split
  | succ n ih =>
    unfold State.dispatch
    try dsimp only
    repeat' first
      | with_reducible assumption
      | with_reducible apply ih
      | with_reducible apply State.updMem_kept
      | fail_if_no_progress with_reducible refine State.Kept.mk0 ?_ rfl rfl
      | split

theorem State.dispatchAll_kept {s0 : State} (s : State) (a1 : List Nat) (h0 : s0.Kept s) :
    s0.Kept (State.dispatchAll s a1) := by
  induction a1 generalizing s h0 with
  | nil =>
    unfold State.dispatchAll
    try dsimp only
    repeat' first
      | with_reducible assumption
      | with_reducible apply ih
      | with_reducible apply State.dispatch_kept
      | fail_if_no_progress with_reducible refine State.Kept.mk0 ?_ rfl rfl
      | split
  | cons x xs ih =>
    unfold State.dispatchAll
    try dsimp only
    repeat' first
      | with_reducible assumption
      | with_reducible apply ih
      | with_reducible apply State.dispatch_kept
      | fail_if_no_progress with_reducible refine State.Kept.mk0 ?_ rfl rfl
      | split

theorem State.wantAll_kept {s0 : State} (s : State) (p : Nat) (r : Nat) (a3 : List Nat) (h0 : s0.Kept s) :
    s0.Kept (State.wantAll s p r a3) := by
  induction a3 generalizing s p r h0 with
  | nil =>
    unfold State.wantAll
    try dsimp only
    repeat' first
      | with_reducible assumption
      | with_reducible apply ih
      | with_reducible apply State.want_kept
      | fail_if_no_progress with_reducible refine State.Kept.mk0 ?_ rfl rfl
      | with_reducible refine State.Kept.of_pair ‹_› ?_
      | split
  | cons x xs ih =>
    unfold State.wantAll
    try dsimp only
    repeat' first
      | with_reducible assumption
      | with_reducible apply ih
      | with_reducible apply State.want_kept
      | fail_if_no_progress with_reducible refine State.Kept.mk0 ?_ rfl rfl
      | with_reducible refine State.Kept.of_pair ‹_› ?_
      | split

theorem State.useBlocks_kept {s0 : State} (s : State) (p : Nat) (r : Nat) (a3 : List Nat) (h0 : s0.Kept s) :
    s0.Kept (State.useBlocks s p r a3) := by
  induction a3 generalizing s p r h0 with
  | nil =>
    unfold State.useBlocks
    try dsimp only
    repeat' first
      | with_reducible assumption
      | with_reducible apply ih
      | with_reducible apply State.useSlot_kept
      | fail_if_no_progress with_reducible refine State.Kept.mk0 ?_ rfl rfl
      | split
  | cons x xs ih =>
    unfold State.useBlocks
    try dsimp only
    repeat' first
      | with_reducible assumption
      | with_reducible apply ih
      | with_reducible apply State.useSlot_kept
      | fail_if_no_progress with_reducible refine State.Kept.mk0 ?_ rfl rfl
      | split

theorem State.pumpThread_kept {s0 : State} (s : State) (st : Nat) (k : Nat) (t : Thread) (h0 : s0.Kept s) :
    s0.Kept (State.pumpThread s st k t) := by
  unfold State.pumpThread
  try dsimp only
  repeat' first
    | with_reducible assumption
    | with_reducible apply State.wantAll_kept
    | with_reducible apply State.useBlocks_kept
    | with_reducible apply State.updMem_kept
    | fail_if_no_progress with_reducible refine State.Kept.mk0 ?_ rfl rfl
    | with_reducible refine State.Kept.ite ?_ ?_
    | split

theorem State.pumpThreads_kept {s0 : State} (s : State) (a1 : List (Nat × Nat × Thread)) (h0 : s0.Kept s) :
    s0.Kept (State.pumpThreads s a1) := by
  induction a1 generalizing s h0 with
  | nil =>
    unfold State.pumpThreads
    try dsimp only
    repeat' first
      | with_reducible assumption
      | with_reducible apply ih
      | with_reducible apply State.pumpThread_kept
      | fail_if_no_progress with_reducible refine State.Kept.mk0 ?_ rfl rfl
      | split
  | cons x xs ih =>
    unfold State.pumpThreads
    try dsimp only
    repeat' first
      | with_reducible assumption
      | with_reducible apply ih
      | with_reducible apply State.pumpThread_kept
      | fail_if_no_progress with_reducible refine State.Kept.mk0 ?_ rfl rfl
      | split

theorem State.reserve_kept {s0 : State} (s : State) (e : PendEnt) (blocked : List (Nat × Nat)) (a3 : List (Nat × Nat)) (h0 : s0.Kept s) :
    s0.Kept (State.reserve s e blocked a3).1 := by
  induction a3 generalizing s e blocked h0 with
  | nil =>
    unfold State.reserve
    try dsimp only
    repeat' first
      | with_reducible assumption
      | with_reducible apply ih
      | with_reducible apply State.want_kept
      | fail_if_no_progress with_reducible refine State.Kept.mk0 ?_ rfl rfl
      | with_reducible refine State.Kept.ite ?_ ?_
      | with_reducible refine State.Kept.of_pair ‹_› ?_
      | split
  | cons x xs ih =>
    unfold State.reserve
    try dsimp only
    repeat' first
      | with_reducible assumption
      | with_reducible apply ih
      | with_reducible apply State.want_kept
      | fail_if_no_progress with_reducible refine State.Kept.mk0 ?_ rfl rfl
      | with_reducible refine State.Kept.ite ?_ ?_
      | with_reducible refine State.Kept.of_pair ‹_› ?_
      | split

theorem State.ackRequest_kept {s0 : State} (s : State) (st : Nat) (a : Active) (h0 : s0.Kept s) :
    s0.Kept (State.ackRequest s st a) := by
  unfold State.ackRequest
  try dsimp only
  repeat' first
    | with_reducible assumption
    | with_reducible apply State.inject_kept
    | with_reducible apply State.updMem_kept
    | with_reducible apply State.hostOver_kept
    | fail_if_no_progress with_reducible refine State.Kept.mk0 ?_ rfl rfl
    | split

theorem State.partQueued_kept {s0 : State} (s : State) (rid : Nat) (h0 : s0.Kept s) :
    s0.Kept (State.partQueued s rid) := by
  unfold State.partQueued
  try dsimp only
  repeat' first
    | with_reducible assumption
    | with_reducible apply State.ackRequest_kept
    | with_reducible apply State.updMem_kept
    | fail_if_no_progress with_reducible refine State.Kept.mk0 ?_ rfl rfl
    | with_reducible refine State.Kept.ite ?_ ?_
    | split

theorem State.updPend_kept {s0 : State} (s : State) (e : PendEnt) (f : PendEnt → PendEnt) (h0 : s0.Kept s) :
    s0.Kept (State.updPend s e f) := by
  unfold State.updPend
  try dsimp only
  repeat' first
    | with_reducible assumption
    | with_reducible apply mapMs_kept
    | fail_if_no_progress with_reducible refine State.Kept.mk0 ?_ rfl rfl
    | with_reducible refine State.Kept.ite ?_ ?_
    | split

theorem State.noteHeld_kept {s0 : State} (s : State) (e : PendEnt) (n : Nat) (h0 : s0.Kept s) :
    s0.Kept (State.noteHeld s e n) := by
  unfold State.noteHeld
  try dsimp only
  repeat' first
    | with_reducible assumption
    | with_reducible apply State.partQueued_kept
    | with_reducible apply State.updPend_kept
    | fail_if_no_progress with_reducible refine State.Kept.mk0 ?_ rfl rfl
    | with_reducible refine State.Kept.ite ?_ ?_
    | split

theorem State.stagePends_kept {s0 : State} (s : State) (blocked : List (Nat × Nat)) (a2 : List PendEnt) (h0 : s0.Kept s) :
    s0.Kept (State.stagePends s blocked a2) := by
  induction a2 generalizing s blocked h0 with
  | nil =>
    unfold State.stagePends
    try dsimp only
    repeat' first
      | with_reducible assumption
      | with_reducible apply ih
      | with_reducible apply State.reserve_kept
      | with_reducible apply State.noteHeld_kept
      | fail_if_no_progress with_reducible refine State.Kept.mk0 ?_ rfl rfl
      | with_reducible refine State.Kept.of_pair ‹_› ?_
      | split
  | cons x xs ih =>
    unfold State.stagePends
    try dsimp only
    repeat' first
      | with_reducible assumption
      | with_reducible apply ih
      | with_reducible apply State.reserve_kept
      | with_reducible apply State.noteHeld_kept
      | fail_if_no_progress with_reducible refine State.Kept.mk0 ?_ rfl rfl
      | with_reducible refine State.Kept.of_pair ‹_› ?_
      | split

theorem State.pump_kept {s0 : State} (s : State) (h0 : s0.Kept s) :
    s0.Kept (State.pump s) := by
  unfold State.pump
  try dsimp only
  repeat' first
    | with_reducible assumption
    | with_reducible apply State.dispatchAll_kept
    | with_reducible apply State.pumpThreads_kept
    | with_reducible apply State.stagePends_kept
    | fail_if_no_progress with_reducible refine State.Kept.mk0 ?_ rfl rfl

theorem State.sealGranule_kept {s0 : State} (s : State) (p : Nat) (r : Nat) (g : Nat) (h0 : s0.Kept s) :
    s0.Kept (State.sealGranule s p r g) := by
  unfold State.sealGranule
  try dsimp only
  repeat' first
    | with_reducible assumption
    | with_reducible apply State.updMem_kept
    | fail_if_no_progress with_reducible refine State.Kept.mk0 ?_ rfl rfl

theorem State.sealRange_kept {s0 : State} (s : State) (p : Nat) (r : Nat) (o : Nat) (n : Nat) (h0 : s0.Kept s) :
    s0.Kept (State.sealRange s p r o n) := by
  unfold State.sealRange
  try dsimp only
  repeat' first
    | with_reducible assumption
    | with_reducible apply State.sealGranule_kept
    | fail_if_no_progress with_reducible refine State.Kept.mk0 ?_ rfl rfl
    | with_reducible refine State.Kept.ite ?_ ?_
    | with_reducible refine State.Kept.foldl ?_ ?_
    | with_reducible refine State.Kept.foldl_fst ?_ ?_
    | split
    | (intro; try dsimp only)

theorem State.cleanRange_kept {s0 : State} (s : State) (p : Nat) (r : Nat) (w : Nat × Nat) (h0 : s0.Kept s) :
    s0.Kept (State.cleanRange s p r w) := by
  unfold State.cleanRange
  try dsimp only
  repeat' first
    | with_reducible assumption
    | with_reducible apply State.updMem_kept
    | fail_if_no_progress with_reducible refine State.Kept.mk0 ?_ rfl rfl
    | with_reducible refine State.Kept.foldl ?_ ?_
    | with_reducible refine State.Kept.foldl_fst ?_ ?_
    | (intro; try dsimp only)

theorem State.storeRegion_kept {s0 : State} (s : State) (p : Nat) (r : Nat) (o : Nat) (bs : List Byte) (h0 : s0.Kept s) :
    s0.Kept (State.storeRegion s p r o bs) := by
  unfold State.storeRegion
  try dsimp only
  repeat' first
    | with_reducible assumption
    | with_reducible apply State.sealRange_kept
    | with_reducible apply State.writeRegion_kept
    | with_reducible apply State.cleanRange_kept
    | fail_if_no_progress with_reducible refine State.Kept.mk0 ?_ rfl rfl

theorem State.reading_kept {s0 : State} (s : State) (k : optParam Nat 0) (h0 : s0.Kept s) :
    s0.Kept (State.reading s k).1 := by
  unfold State.reading
  try dsimp only
  repeat' first
    | with_reducible assumption
    | fail_if_no_progress with_reducible refine State.Kept.mk0 ?_ rfl rfl

theorem State.cleanRanges_kept {s0 : State} (s : State) (p : Nat) (r : Nat) (a3 : List (Nat × Nat)) (h0 : s0.Kept s) :
    s0.Kept (State.cleanRanges s p r a3) := by
  induction a3 generalizing s p r h0 with
  | nil =>
    unfold State.cleanRanges
    try dsimp only
    repeat' first
      | with_reducible assumption
      | with_reducible apply ih
      | with_reducible apply State.cleanRange_kept
      | fail_if_no_progress with_reducible refine State.Kept.mk0 ?_ rfl rfl
      | split
  | cons x xs ih =>
    unfold State.cleanRanges
    try dsimp only
    repeat' first
      | with_reducible assumption
      | with_reducible apply ih
      | with_reducible apply State.cleanRange_kept
      | fail_if_no_progress with_reducible refine State.Kept.mk0 ?_ rfl rfl
      | split

theorem State.loseFs_kept {s0 : State} (s : State) (n : Nat) (h0 : s0.Kept s) :
    s0.Kept (State.loseFs s n) := by
  unfold State.loseFs
  try dsimp only
  repeat' first
    | with_reducible assumption
    | with_reducible apply State.stationLostFor_kept
    | with_reducible apply State.setFlash_kept
    | with_reducible apply State.event_kept
    | fail_if_no_progress with_reducible refine State.Kept.mk0 ?_ rfl rfl
    | with_reducible refine State.Kept.ite ?_ ?_
    | split

theorem State.cryptoErase_kept {s0 : State} (s : State) (p : Nat) (h0 : s0.Kept s) :
    s0.Kept (State.cryptoErase s p) := by
  unfold State.cryptoErase
  try dsimp only
  repeat' first
    | with_reducible assumption
    | fail_if_no_progress (with_reducible refine State.Kept.mk ?_ rfl rfl ?_ ?_ ?_ ?_ ?_ ?_ ?_ ?_ ?_ <;>
        first | with_reducible exact id | (with_reducible exact fun k => SMap.wf_put _ _ _ k)
              | (with_reducible exact fun k => SMap.wf_filter _ _ k) | (with_reducible exact fun k => SMap.wf_mapV _ _ k)
              | (with_reducible exact fun _ => SMap.wf_nil _) | skip)
    | with_reducible refine State.Kept.ite ?_ ?_
    | with_reducible refine State.Kept.foldl ?_ ?_
    | with_reducible refine State.Kept.foldl_fst ?_ ?_
    | split
    | (intro; try dsimp only)

theorem State.loadKeys_kept {s0 : State} (s : State) (p : Nat) (h0 : s0.Kept s) :
    s0.Kept (State.loadKeys s p) := by
  unfold State.loadKeys
  try dsimp only
  repeat' first
    | with_reducible assumption
    | with_reducible apply State.updMem_kept
    | with_reducible apply State.setFlash_kept
    | fail_if_no_progress with_reducible refine State.Kept.mk0 ?_ rfl rfl
    | with_reducible refine State.Kept.ite ?_ ?_
    | with_reducible refine State.Kept.foldl ?_ ?_
    | with_reducible refine State.Kept.foldl_fst ?_ ?_
    | split
    | (intro; try dsimp only)

theorem State.loadVolKeys_kept {s0 : State} (s : State) (a1 : Option Nat) (h0 : s0.Kept s) :
    s0.Kept (State.loadVolKeys s a1) := by
  unfold State.loadVolKeys
  try dsimp only
  repeat' first
    | with_reducible assumption
    | with_reducible apply State.loadKeys_kept
    | fail_if_no_progress with_reducible refine State.Kept.mk0 ?_ rfl rfl
    | split

theorem State.readEdges_kept {s0 : State} (s : State) (st : Nat) (a : Nat) (errs : List SymErr) (a4 : List Nat) (h0 : s0.Kept s) :
    s0.Kept (State.readEdges s st a errs a4).1 := by
  induction a4 generalizing s st a errs h0 with
  | nil =>
    unfold State.readEdges
    try dsimp only
    repeat' first
      | with_reducible assumption
      | with_reducible apply ih
      | with_reducible apply State.readSectors_kept
      | fail_if_no_progress with_reducible refine State.Kept.mk0 ?_ rfl rfl
      | with_reducible refine State.Kept.of_pair ‹_› ?_
      | split
  | cons x xs ih =>
    unfold State.readEdges
    try dsimp only
    repeat' first
      | with_reducible assumption
      | with_reducible apply ih
      | with_reducible apply State.readSectors_kept
      | fail_if_no_progress with_reducible refine State.Kept.mk0 ?_ rfl rfl
      | with_reducible refine State.Kept.of_pair ‹_› ?_
      | split

theorem State.access_kept {s0 : State} (s : State) (st : Nat) (a : Active) (errs : List SymErr) (h0 : s0.Kept s) :
    s0.Kept (State.access s st a errs) := by
  unfold State.access
  try dsimp only
  repeat' first
    | with_reducible assumption
    | with_reducible apply State.storeRegion_kept
    | with_reducible apply State.readEdges_kept
    | with_reducible apply State.ackRequest_kept
    | with_reducible apply State.updMem_kept
    | with_reducible apply State.hostOver_kept
    | with_reducible apply State.readStack_kept
    | with_reducible apply streamFault_kept
    | fail_if_no_progress with_reducible refine State.Kept.mk0 ?_ rfl rfl
    | with_reducible refine State.Kept.ite ?_ ?_
    | with_reducible refine State.Kept.of_pair ‹_› ?_
    | split

theorem State.sendParts_kept {s0 : State} (s : State) (p : Nat) (a2 : List (Nat × GradPart)) (h0 : s0.Kept s) :
    s0.Kept (State.sendParts s p a2) := by
  induction a2 generalizing s p h0 with
  | nil =>
    unfold State.sendParts
    try dsimp only
    repeat' first
      | with_reducible assumption
      | with_reducible apply ih
      | with_reducible apply State.injectFor_kept
      | fail_if_no_progress with_reducible refine State.Kept.mk0 ?_ rfl rfl
      | split
  | cons x xs ih =>
    unfold State.sendParts
    try dsimp only
    repeat' first
      | with_reducible assumption
      | with_reducible apply ih
      | with_reducible apply State.injectFor_kept
      | fail_if_no_progress with_reducible refine State.Kept.mk0 ?_ rfl rfl
      | split

theorem State.issueUpdate_kept {s0 : State} (s : State) (st : Nat) (a : Active) (h0 : s0.Kept s) :
    s0.Kept (State.issueUpdate s st a) := by
  unfold State.issueUpdate
  try dsimp only
  repeat' first
    | with_reducible assumption
    | with_reducible apply State.ackRequest_kept
    | with_reducible apply State.sendParts_kept
    | with_reducible apply State.updMem_kept
    | with_reducible apply streamFault_kept
    | fail_if_no_progress with_reducible refine State.Kept.mk0 ?_ rfl rfl
    | with_reducible refine State.Kept.ite ?_ ?_
    | split

theorem State.issue_kept {s0 : State} (s : State) (st : Nat) (a : Active) (h0 : s0.Kept s) :
    s0.Kept (State.issue s st a) := by
  unfold State.issue
  try dsimp only
  repeat' first
    | with_reducible assumption
    | with_reducible apply State.issueUpdate_kept
    | with_reducible apply State.pump_kept
    | with_reducible apply streamFault_kept
    | fail_if_no_progress with_reducible refine State.Kept.mk0 ?_ rfl rfl
    | split

theorem State.takeSlots_kept {s0 : State} (s : State) (st : Nat) (a2 : List Request) (h0 : s0.Kept s) :
    s0.Kept (State.takeSlots s st a2) := by
  induction a2 generalizing s st h0 with
  | nil =>
    unfold State.takeSlots
    try dsimp only
    repeat' first
      | with_reducible assumption
      | with_reducible apply ih
      | with_reducible apply State.updMem_kept
      | fail_if_no_progress with_reducible refine State.Kept.mk0 ?_ rfl rfl
      | split
  | cons x xs ih =>
    unfold State.takeSlots
    try dsimp only
    repeat' first
      | with_reducible assumption
      | with_reducible apply ih
      | with_reducible apply State.updMem_kept
      | fail_if_no_progress with_reducible refine State.Kept.mk0 ?_ rfl rfl
      | split

theorem State.admitOne_kept {s0 : State} (s9 : State) (st : Nat) (h0 : s0.Kept s9) :
    s0.Kept (State.admitOne s9 st) := by
  unfold State.admitOne
  try dsimp only
  repeat' first
    | with_reducible assumption
    | with_reducible apply State.issue_kept
    | with_reducible apply State.takeSlots_kept
    | with_reducible apply State.updMem_kept
    | fail_if_no_progress with_reducible refine State.Kept.mk0 ?_ rfl rfl
    | with_reducible refine State.Kept.ite ?_ ?_
    | split

theorem State.noteLate_kept {s0 : State} (s : State) (st : Nat) (r : Request) (h0 : s0.Kept s) :
    s0.Kept (State.noteLate s st r) := by
  unfold State.noteLate
  try dsimp only
  repeat' first
    | with_reducible assumption
    | with_reducible apply State.setPart_kept
    | with_reducible apply State.updMem_kept
    | fail_if_no_progress with_reducible refine State.Kept.mk0 ?_ rfl rfl
    | with_reducible refine State.Kept.ite ?_ ?_
    | split

theorem State.queueRequest_kept {s0 : State} (s : State) (st : Nat) (r : Request) (h0 : s0.Kept s) :
    s0.Kept (State.queueRequest s st r) := by
  unfold State.queueRequest
  try dsimp only
  repeat' first
    | with_reducible assumption
    | with_reducible apply State.updMem_kept
    | with_reducible apply State.noteLate_kept
    | fail_if_no_progress with_reducible refine State.Kept.mk0 ?_ rfl rfl

theorem State.arrive_kept {s0 : State} (s : State) (t : Token) (st : Nat) (r : Request) (h0 : s0.Kept s) :
    s0.Kept (State.arrive s t st r) := by
  unfold State.arrive
  try dsimp only
  repeat' first
    | with_reducible assumption
    | with_reducible apply State.queueRequest_kept
    | with_reducible apply State.consume_kept
    | with_reducible apply streamFault_kept
    | fail_if_no_progress with_reducible refine State.Kept.mk0 ?_ rfl rfl
    | with_reducible refine State.Kept.ite ?_ ?_
    | split

theorem State.hostRead_kept {s0 : State} (s : State) (st : Nat) (h : Nat) (a : Active) (errs : List SymErr) (h0 : s0.Kept s) :
    s0.Kept (State.hostRead s st h a errs) := by
  unfold State.hostRead
  try dsimp only
  repeat' first
    | with_reducible assumption
    | with_reducible apply Reading.checked_kept
    | with_reducible apply State.reading_kept
    | with_reducible apply State.readOver_kept
    | with_reducible apply State.updMem_kept
    | with_reducible apply Reading.range_kept
    | fail_if_no_progress with_reducible refine State.Kept.mk0 ?_ rfl rfl
    | with_reducible refine State.Kept.ite ?_ ?_
    | with_reducible refine State.Kept.of_pair ‹_› ?_
    | split

theorem State.sendTile_kept {s0 : State} (s : State) (st : Nat) (r : Request) (a3 : Nat) (a4 : Nat) (a5 : Nat) (a6 : List Byte) (h0 : s0.Kept s) :
    s0.Kept (State.sendTile s st r a3 a4 a5 a6) := by
  induction a3 generalizing s st r a4 a5 a6 h0 with
  | zero =>
    unfold State.sendTile
    try dsimp only
    repeat' first
      | with_reducible assumption
      | with_reducible apply ih
      | with_reducible apply State.inject_kept
      | fail_if_no_progress with_reducible refine State.Kept.mk0 ?_ rfl rfl
      | split
  | succ n ih =>
    unfold State.sendTile
    try dsimp only
    repeat' first
      | with_reducible assumption
      | with_reducible apply ih
      | with_reducible apply State.inject_kept
      | fail_if_no_progress with_reducible refine State.Kept.mk0 ?_ rfl rfl
      | split

theorem State.respond_kept {s0 : State} (s : State) (st : Nat) (a : Active) (h0 : s0.Kept s) :
    s0.Kept (State.respond s st a) := by
  unfold State.respond
  try dsimp only
  repeat' first
    | with_reducible assumption
    | with_reducible apply State.sendTile_kept
    | with_reducible apply State.updMem_kept
    | fail_if_no_progress with_reducible refine State.Kept.mk0 ?_ rfl rfl

theorem State.stackAccess_kept {s0 : State} (s : State) (st : Nat) (rid : Nat) (errs : List SymErr) (h0 : s0.Kept s) :
    s0.Kept (State.stackAccess s st rid errs) := by
  unfold State.stackAccess
  try dsimp only
  repeat' first
    | with_reducible assumption
    | with_reducible apply State.hostRead_kept
    | with_reducible apply State.updMem_kept
    | with_reducible apply State.access_kept
    | fail_if_no_progress with_reducible refine State.Kept.mk0 ?_ rfl rfl
    | with_reducible refine State.Kept.ite ?_ ?_
    | split

theorem State.takeRow_kept {s0 : State} (s : State) (st : Nat) (k : Nat) (a : Active) (bs : List Byte) (h0 : s0.Kept s) :
    s0.Kept (State.takeRow s st k a bs) := by
  unfold State.takeRow
  try dsimp only
  repeat' first
    | with_reducible assumption
    | with_reducible apply State.pump_kept
    | with_reducible apply State.updMem_kept
    | fail_if_no_progress with_reducible refine State.Kept.mk0 ?_ rfl rfl
    | with_reducible refine State.Kept.ite ?_ ?_
    | split

theorem State.threadReturn_kept {s0 : State} (s : State) (st : Nat) (k : Nat) (errs : List SymErr) (h0 : s0.Kept s) :
    s0.Kept (State.threadReturn s st k errs) := by
  unfold State.threadReturn
  try dsimp only
  repeat' first
    | with_reducible assumption
    | with_reducible apply State.takeRow_kept
    | with_reducible apply State.reading_kept
    | with_reducible apply State.updMem_kept
    | with_reducible apply Reading.range_kept
    | with_reducible apply streamFault_kept
    | fail_if_no_progress with_reducible refine State.Kept.mk0 ?_ rfl rfl
    | with_reducible refine State.Kept.ite ?_ ?_
    | with_reducible refine State.Kept.of_pair ‹_› ?_
    | split

theorem State.tileResponse_kept {s0 : State} (s : State) (st : Nat) (rid : Nat) (h0 : s0.Kept s) :
    s0.Kept (State.tileResponse s st rid) := by
  unfold State.tileResponse
  try dsimp only
  repeat' first
    | with_reducible assumption
    | with_reducible apply State.updMem_kept
    | with_reducible apply State.respond_kept
    | fail_if_no_progress with_reducible refine State.Kept.mk0 ?_ rfl rfl
    | with_reducible refine State.Kept.ite ?_ ?_
    | split

theorem State.zeroWrite_kept {s0 : State} (s : State) (st : Nat) (h0 : s0.Kept s) :
    s0.Kept (State.zeroWrite s st) := by
  unfold State.zeroWrite
  try dsimp only
  repeat' first
    | with_reducible assumption
    | with_reducible apply State.setMem_kept
    | fail_if_no_progress with_reducible refine State.Kept.mk0 ?_ rfl rfl
    | split

theorem execPseThreadReturn_kept {s u : State} {ms : Nat} {thread : Nat} {errs : List SymErr} (h0 : execPseThreadReturn ms thread errs s = .next u) : s.Kept u := by
  unfold execPseThreadReturn at h0
  refine guardUnit_kept ?_ h0
  clear h0
  try dsimp only
  repeat' first
    | with_reducible exact State.Kept.refl s
    | with_reducible assumption
    | with_reducible apply State.threadReturn_kept
    | fail_if_no_progress with_reducible refine State.Kept.mk0 ?_ rfl rfl

theorem execStackAccessComplete_kept {s u : State} {ms : Nat} {rid : Nat} {errs : List SymErr} (h0 : execStackAccessComplete ms rid errs s = .next u) : s.Kept u := by
  unfold execStackAccessComplete at h0
  refine guardUnit_kept ?_ h0
  clear h0
  try dsimp only
  repeat' first
    | with_reducible exact State.Kept.refl s
    | with_reducible assumption
    | with_reducible apply State.stackAccess_kept
    | fail_if_no_progress with_reducible refine State.Kept.mk0 ?_ rfl rfl

theorem execStreamRequestAdmit_kept {s u : State} {ms : Nat} (h0 : execStreamRequestAdmit ms s = .next u) : s.Kept u := by
  unfold execStreamRequestAdmit at h0
  refine guardUnit_kept ?_ h0
  clear h0
  try dsimp only
  repeat' first
    | with_reducible exact State.Kept.refl s
    | with_reducible assumption
    | with_reducible apply State.unlessHeld_kept
    | with_reducible apply State.admitOne_kept
    | fail_if_no_progress with_reducible refine State.Kept.mk0 ?_ rfl rfl

theorem execStreamRequestArrival_kept {s u : State} {tok : Nat} (h0 : execStreamRequestArrival tok s = .next u) : s.Kept u := by
  unfold execStreamRequestArrival at h0
  refine guardUnit_kept ?_ h0
  clear h0
  try dsimp only
  repeat' first
    | with_reducible exact State.Kept.refl s
    | with_reducible assumption
    | with_reducible apply withToken_kept
    | with_reducible apply State.arrive_kept
    | fail_if_no_progress with_reducible refine State.Kept.mk0 ?_ rfl rfl
    | with_reducible refine State.Kept.ite ?_ ?_
    | split
    | (intro; try dsimp only)

theorem execTileResponse_kept {s u : State} {ms : Nat} {rid : Nat} (h0 : execTileResponse ms rid s = .next u) : s.Kept u := by
  unfold execTileResponse at h0
  refine guardUnit_kept ?_ h0
  clear h0
  try dsimp only
  repeat' first
    | with_reducible exact State.Kept.refl s
    | with_reducible assumption
    | with_reducible apply State.tileResponse_kept
    | fail_if_no_progress with_reducible refine State.Kept.mk0 ?_ rfl rfl

theorem execZeroWriteDone_kept {s u : State} {ms : Nat} (h0 : execZeroWriteDone ms s = .next u) : s.Kept u := by
  unfold execZeroWriteDone at h0
  refine guardUnit_kept ?_ h0
  clear h0
  try dsimp only
  repeat' first
    | with_reducible exact State.Kept.refl s
    | with_reducible assumption
    | with_reducible apply State.zeroWrite_kept
    | fail_if_no_progress with_reducible refine State.Kept.mk0 ?_ rfl rfl

theorem Reading.masterCode_kept {s0 : State} (rd : Reading) (p : Nat) (n : Nat) (b : Nat) (errs : List SymErr) (h0 : s0.Kept rd.1) :
    s0.Kept (Reading.masterCode rd p n b errs).1.1 := by
  unfold Reading.masterCode
  try dsimp only
  repeat' first
    | with_reducible assumption
    | with_reducible apply Reading.next_kept
    | with_reducible apply Reading.ranges_kept
    | fail_if_no_progress with_reducible refine State.Kept.mk0 ?_ rfl rfl
    | with_reducible refine State.Kept.of_pair ‹_› ?_

theorem Reading.codes_kept {s0 : State} (rd : Reading) (p : Nat) (b : Nat) (errs : List SymErr) (a4 : List Nat) (h0 : s0.Kept rd.1) :
    s0.Kept (Reading.codes rd p b errs a4).1.1 := by
  induction a4 generalizing rd p b errs h0 with
  | nil =>
    unfold Reading.codes
    try dsimp only
    repeat' first
      | with_reducible assumption
      | with_reducible apply ih
      | with_reducible apply Reading.masterCode_kept
      | fail_if_no_progress with_reducible refine State.Kept.mk0 ?_ rfl rfl
      | with_reducible refine State.Kept.of_pair ‹_› ?_
      | split
  | cons x xs ih =>
    unfold Reading.codes
    try dsimp only
    repeat' first
      | with_reducible assumption
      | with_reducible apply ih
      | with_reducible apply Reading.masterCode_kept
      | fail_if_no_progress with_reducible refine State.Kept.mk0 ?_ rfl rfl
      | with_reducible refine State.Kept.of_pair ‹_› ?_
      | split

theorem State.divWant_kept {s0 : State} (s : State) (p : Nat) (d : Divergence) (h0 : s0.Kept s) :
    s0.Kept (State.divWant s p d) := by
  unfold State.divWant
  try dsimp only
  repeat' first
    | with_reducible assumption
    | with_reducible apply State.want_kept
    | fail_if_no_progress with_reducible refine State.Kept.mk0 ?_ rfl rfl
    | with_reducible refine State.Kept.foldl ?_ ?_
    | with_reducible refine State.Kept.foldl_fst ?_ ?_
    | with_reducible refine State.Kept.of_pair ‹_› ?_
    | (intro; try dsimp only)

theorem State.divUe_kept {s0 : State} (s : State) (p : Nat) (n : Nat) (b : Nat) (l : List (Nat × Nat × Nat)) (h0 : s0.Kept s) :
    s0.Kept (State.divUe s p n b l) := by
  unfold State.divUe
  try dsimp only
  repeat' first
    | with_reducible assumption
    | with_reducible apply stationFault_kept
    | fail_if_no_progress with_reducible refine State.Kept.mk0 ?_ rfl rfl

theorem State.settleBlock_kept {s0 : State} (s : State) (p : Nat) (sets : List Nat) (b : Nat) (step : BitVec 32) (h0 : s0.Kept s) :
    s0.Kept (State.settleBlock s p sets b step) := by
  unfold State.settleBlock
  try dsimp only
  repeat' first
    | with_reducible assumption
    | with_reducible apply State.setPart_kept
    | with_reducible apply mapMs_kept
    | fail_if_no_progress with_reducible refine State.Kept.mk0 ?_ rfl rfl

theorem State.divSettled_kept {s0 : State} (s : State) (p : Nat) (d : Divergence) (k : Nat) (h0 : s0.Kept s) :
    s0.Kept (State.divSettled s p d k) := by
  unfold State.divSettled
  try dsimp only
  repeat' first
    | with_reducible assumption
    | with_reducible apply State.setPart_kept
    | with_reducible apply State.pump_kept
    | with_reducible apply State.settleBlock_kept
    | with_reducible apply State.event_kept
    | fail_if_no_progress with_reducible refine State.Kept.mk0 ?_ rfl rfl

theorem State.overwrite_kept {s0 : State} (s : State) (p : Nat) (r : Nat) (a3 : List ((Nat × Nat) × List Byte)) (h0 : s0.Kept s) :
    s0.Kept (State.overwrite s p r a3) := by
  induction a3 generalizing s p r h0 with
  | nil =>
    unfold State.overwrite
    try dsimp only
    repeat' first
      | with_reducible assumption
      | with_reducible apply ih
      | with_reducible apply State.storeRegion_kept
      | fail_if_no_progress with_reducible refine State.Kept.mk0 ?_ rfl rfl
      | split
  | cons x xs ih =>
    unfold State.overwrite
    try dsimp only
    repeat' first
      | with_reducible assumption
      | with_reducible apply ih
      | with_reducible apply State.storeRegion_kept
      | fail_if_no_progress with_reducible refine State.Kept.mk0 ?_ rfl rfl
      | split

theorem State.dirtyRanges_kept {s0 : State} (s : State) (p : Nat) (r : Nat) (l : List (Nat × Nat)) (h0 : s0.Kept s) :
    s0.Kept (State.dirtyRanges s p r l) := by
  unfold State.dirtyRanges
  try dsimp only
  repeat' first
    | with_reducible assumption
    | with_reducible apply State.updMem_kept
    | fail_if_no_progress with_reducible refine State.Kept.mk0 ?_ rfl rfl
    | with_reducible refine State.Kept.foldl ?_ ?_
    | with_reducible refine State.Kept.foldl_fst ?_ ?_
    | split
    | (intro; try dsimp only)

theorem State.copyBlock_kept {s0 : State} (s : State) (p : Nat) (src : Nat) (dst : Nat) (b : Nat) (h0 : s0.Kept s) :
    s0.Kept (State.copyBlock s p src dst b) := by
  unfold State.copyBlock
  try dsimp only
  repeat' first
    | with_reducible assumption
    | with_reducible apply State.overwrite_kept
    | with_reducible apply State.dirtyRanges_kept
    | fail_if_no_progress with_reducible refine State.Kept.mk0 ?_ rfl rfl
    | with_reducible refine State.Kept.ite ?_ ?_
    | split

theorem State.copyBlocks_kept {s0 : State} (s : State) (p : Nat) (src : Nat) (b : Nat) (a4 : List Nat) (h0 : s0.Kept s) :
    s0.Kept (State.copyBlocks s p src b a4) := by
  induction a4 generalizing s p src b h0 with
  | nil =>
    unfold State.copyBlocks
    try dsimp only
    repeat' first
      | with_reducible assumption
      | with_reducible apply ih
      | with_reducible apply State.copyBlock_kept
      | fail_if_no_progress with_reducible refine State.Kept.mk0 ?_ rfl rfl
      | split
  | cons x xs ih =>
    unfold State.copyBlocks
    try dsimp only
    repeat' first
      | with_reducible assumption
      | with_reducible apply ih
      | with_reducible apply State.copyBlock_kept
      | fail_if_no_progress with_reducible refine State.Kept.mk0 ?_ rfl rfl
      | split

theorem Reading.pass_kept {s0 : State} (rd : Reading) (p : Nat) (errs : List SymErr) (a3 : List (Nat × Nat × Nat)) (h0 : s0.Kept rd.1) :
    s0.Kept (Reading.pass rd p errs a3).1 := by
  induction a3 generalizing rd p errs h0 with
  | nil =>
    unfold Reading.pass
    try dsimp only
    repeat' first
      | with_reducible assumption
      | with_reducible apply ih
      | with_reducible apply Reading.next_kept
      | with_reducible apply Reading.range_kept
      | fail_if_no_progress with_reducible refine State.Kept.mk0 ?_ rfl rfl
      | with_reducible refine State.Kept.of_pair ‹_› ?_
      | split
  | cons x xs ih =>
    unfold Reading.pass
    try dsimp only
    repeat' first
      | with_reducible assumption
      | with_reducible apply ih
      | with_reducible apply Reading.next_kept
      | with_reducible apply Reading.range_kept
      | fail_if_no_progress with_reducible refine State.Kept.mk0 ?_ rfl rfl
      | with_reducible refine State.Kept.of_pair ‹_› ?_
      | split

theorem State.divStop_kept {s0 : State} (s : State) (p : Nat) (d : Divergence) (h0 : s0.Kept s) :
    s0.Kept (State.divStop s p d) := by
  unfold State.divStop
  try dsimp only
  repeat' first
    | with_reducible assumption
    | with_reducible apply State.setPart_kept
    | with_reducible apply State.pump_kept
    | with_reducible apply startBindOff_kept
    | with_reducible apply State.event_kept
    | fail_if_no_progress with_reducible refine State.Kept.mk0 ?_ rfl rfl
    | with_reducible refine State.Kept.ite ?_ ?_
    | split

theorem State.divVote_kept {s0 : State} (s : State) (k : Nat) (p : Nat) (d : Divergence) (errs : List SymErr) (h0 : s0.Kept s) :
    s0.Kept (State.divVote s k p d errs) := by
  unfold State.divVote
  try dsimp only
  repeat' first
    | with_reducible assumption
    | with_reducible apply State.divUe_kept
    | with_reducible apply State.divSettled_kept
    | with_reducible apply State.copyBlocks_kept
    | with_reducible apply State.reading_kept
    | with_reducible apply Reading.pass_kept
    | with_reducible apply State.divStop_kept
    | fail_if_no_progress with_reducible refine State.Kept.mk0 ?_ rfl rfl
    | with_reducible refine State.Kept.ite ?_ ?_
    | with_reducible refine State.Kept.of_pair ‹_› ?_
    | split

theorem State.divNext_kept {s0 : State} (s : State) (k : Nat) (p : Nat) (d : Divergence) (errs : List SymErr) (h0 : s0.Kept s) :
    s0.Kept (State.divNext s k p d errs) := by
  unfold State.divNext
  try dsimp only
  repeat' first
    | with_reducible assumption
    | with_reducible apply State.divWant_kept
    | with_reducible apply State.divVote_kept
    | with_reducible apply State.divStop_kept
    | fail_if_no_progress with_reducible refine State.Kept.mk0 ?_ rfl rfl
    | with_reducible refine State.Kept.ite ?_ ?_
    | split

theorem State.compareCodes_kept {s0 : State} (s : State) (k : Nat) (p : Nat) (rgroup : Nat) (b : Nat) (step : BitVec 32) (errs : List SymErr) (h0 : s0.Kept s) :
    s0.Kept (State.compareCodes s k p rgroup b step errs) := by
  unfold State.compareCodes
  try dsimp only
  repeat' first
    | with_reducible assumption
    | with_reducible apply State.setPart_kept
    | with_reducible apply State.divNext_kept
    | with_reducible apply State.settleBlock_kept
    | fail_if_no_progress with_reducible refine State.Kept.mk0 ?_ rfl rfl
    | with_reducible refine State.Kept.ite ?_ ?_
    | split

theorem Reading.groupWritten_kept {s0 : State} (rd : Reading) (p : Nat) (g : GradPart) (errs : List SymErr) (h0 : s0.Kept rd.1) :
    s0.Kept (Reading.groupWritten rd p g errs).1 := by
  unfold Reading.groupWritten
  try dsimp only
  repeat' first
    | with_reducible assumption
    | with_reducible apply State.setPart_kept
    | with_reducible apply Reading.masterCode_kept
    | with_reducible apply State.compareCodes_kept
    | fail_if_no_progress with_reducible refine State.Kept.mk0 ?_ rfl rfl
    | with_reducible refine State.Kept.ite ?_ ?_
    | with_reducible refine State.Kept.of_pair ‹_› ?_
    | split

theorem Reading.journalOf_kept {s0 : State} (rd : Reading) (k : Nat) (p : Nat) (n : Nat) (b : Nat) (step : BitVec 32) (errs : List SymErr) (h0 : s0.Kept rd.1) :
    s0.Kept (Reading.journalOf rd k p n b step errs).1.1 := by
  unfold Reading.journalOf
  try dsimp only
  repeat' first
    | with_reducible assumption
    | with_reducible apply Reading.next_kept
    | with_reducible apply Reading.ranges_kept
    | fail_if_no_progress with_reducible refine State.Kept.mk0 ?_ rfl rfl
    | with_reducible refine State.Kept.of_pair ‹_› ?_

theorem Reading.journal_kept {s0 : State} (rd : Reading) (st : Nat) (p : Nat) (g : GradPart) (errs : List SymErr) (h0 : s0.Kept rd.1) :
    s0.Kept (Reading.journal rd st p g errs).1 := by
  unfold Reading.journal
  try dsimp only
  repeat' first
    | with_reducible assumption
    | with_reducible apply Reading.journalOf_kept
    | with_reducible apply State.updMem_kept
    | fail_if_no_progress with_reducible refine State.Kept.mk0 ?_ rfl rfl
    | with_reducible refine State.Kept.ite ?_ ?_
    | with_reducible refine State.Kept.of_pair ‹_› ?_
    | split

theorem Reading.learningRate_kept {s0 : State} (rd : Reading) (p : Nat) (ps : PSet) (t : Nat) (errs : List SymErr) (h0 : s0.Kept rd.1) :
    s0.Kept (Reading.learningRate rd p ps t errs).1.1 := by
  unfold Reading.learningRate
  try dsimp only
  repeat' first
    | with_reducible assumption
    | with_reducible apply Reading.next_kept
    | with_reducible apply Reading.range_kept
    | fail_if_no_progress with_reducible refine State.Kept.mk0 ?_ rfl rfl
    | with_reducible refine State.Kept.ite ?_ ?_
    | with_reducible refine State.Kept.of_pair ‹_› ?_
    | split

theorem State.writeBlock_kept {s0 : State} (s : State) (p : Nat) (ps : PSet) (i : Nat) (a4 : List (Nat × List Nat × Byte)) (h0 : s0.Kept s) :
    s0.Kept (State.writeBlock s p ps i a4) := by
  induction a4 generalizing s p ps i h0 with
  | nil =>
    unfold State.writeBlock
    try dsimp only
    repeat' first
      | with_reducible assumption
      | with_reducible apply ih
      | with_reducible apply State.storeRegion_kept
      | fail_if_no_progress with_reducible refine State.Kept.mk0 ?_ rfl rfl
      | with_reducible refine State.Kept.ite ?_ ?_
      | split
  | cons x xs ih =>
    unfold State.writeBlock
    try dsimp only
    repeat' first
      | with_reducible assumption
      | with_reducible apply ih
      | with_reducible apply State.storeRegion_kept
      | fail_if_no_progress with_reducible refine State.Kept.mk0 ?_ rfl rfl
      | with_reducible refine State.Kept.ite ?_ ?_
      | split

theorem State.applyBlock_kept {s0 : State} (s : State) (p : Nat) (ps : PSet) (c : Consts) (g : GradPart) (b : Nat) (h0 : s0.Kept s) :
    s0.Kept (State.applyBlock s p ps c g b) := by
  unfold State.applyBlock
  try dsimp only
  repeat' first
    | with_reducible assumption
    | with_reducible apply State.writeBlock_kept
    | fail_if_no_progress with_reducible refine State.Kept.mk0 ?_ rfl rfl

theorem State.applyBlocks_kept {s0 : State} (s : State) (p : Nat) (ps : PSet) (c : Consts) (g : GradPart) (a5 : List Nat) (h0 : s0.Kept s) :
    s0.Kept (State.applyBlocks s p ps c g a5) := by
  induction a5 generalizing s p ps c g h0 with
  | nil =>
    unfold State.applyBlocks
    try dsimp only
    repeat' first
      | with_reducible assumption
      | with_reducible apply ih
      | with_reducible apply State.applyBlock_kept
      | fail_if_no_progress with_reducible refine State.Kept.mk0 ?_ rfl rfl
      | split
  | cons x xs ih =>
    unfold State.applyBlocks
    try dsimp only
    repeat' first
      | with_reducible assumption
      | with_reducible apply ih
      | with_reducible apply State.applyBlock_kept
      | fail_if_no_progress with_reducible refine State.Kept.mk0 ?_ rfl rfl
      | split

theorem State.applyPart_kept {s0 : State} (s : State) (p : Nat) (g : GradPart) (lr : W32) (h0 : s0.Kept s) :
    s0.Kept (State.applyPart s p g lr) := by
  unfold State.applyPart
  try dsimp only
  repeat' first
    | with_reducible assumption
    | with_reducible apply State.applyBlocks_kept
    | with_reducible apply State.cleanRanges_kept
    | fail_if_no_progress with_reducible refine State.Kept.mk0 ?_ rfl rfl

theorem State.applyParts_kept {s0 : State} (s : State) (p : Nat) (a2 : List GradPart) (h0 : s0.Kept s) :
    s0.Kept (State.applyParts s p a2) := by
  induction a2 generalizing s p h0 with
  | nil =>
    unfold State.applyParts
    try dsimp only
    repeat' first
      | with_reducible assumption
      | with_reducible apply ih
      | with_reducible apply State.applyPart_kept
      | fail_if_no_progress with_reducible refine State.Kept.mk0 ?_ rfl rfl
      | split
  | cons x xs ih =>
    unfold State.applyParts
    try dsimp only
    repeat' first
      | with_reducible assumption
      | with_reducible apply ih
      | with_reducible apply State.applyPart_kept
      | fail_if_no_progress with_reducible refine State.Kept.mk0 ?_ rfl rfl
      | split

theorem State.blockLost_kept {s0 : State} (s : State) (st : Nat) (k : Nat) (d : DirEnt) (fresh : Bool) (h0 : s0.Kept s) :
    s0.Kept (State.blockLost s st k d fresh) := by
  unfold State.blockLost
  try dsimp only
  repeat' first
    | with_reducible assumption
    | with_reducible apply State.updVolume_kept
    | with_reducible apply streamFaultFor_kept
    | with_reducible apply State.updMem_kept
    | with_reducible apply mapMs_kept
    | with_reducible apply State.setFlash_kept
    | with_reducible apply State.event_kept
    | fail_if_no_progress with_reducible refine State.Kept.mk0 ?_ rfl rfl
    | with_reducible refine State.Kept.ite ?_ ?_
    | split

theorem State.borrowed_kept {s0 : State} (s : State) (p : Nat) (n : Nat) (h0 : s0.Kept s) :
    s0.Kept (State.borrowed s p n) := by
  unfold State.borrowed
  try dsimp only
  repeat' first
    | with_reducible assumption
    | with_reducible apply mapCores_kept
    | fail_if_no_progress with_reducible refine State.Kept.mk0 ?_ rfl rfl
    | with_reducible refine State.Kept.ite ?_ ?_
    | split

theorem State.divFailed_kept {s0 : State} (s : State) (k : Nat) (p : Nat) (d : Divergence) (i : Nat) (errs : List SymErr) (h0 : s0.Kept s) :
    s0.Kept (State.divFailed s k p d i errs) := by
  unfold State.divFailed
  try dsimp only
  repeat' first
    | with_reducible assumption
    | with_reducible apply State.setPart_kept
    | with_reducible apply State.divNext_kept
    | fail_if_no_progress with_reducible refine State.Kept.mk0 ?_ rfl rfl
    | with_reducible refine State.Kept.ite ?_ ?_
    | split

theorem State.restorePlanes_kept {s0 : State} (s : State) (p : Nat) (j : Journal) (a3 : List (Nat × List Byte)) (h0 : s0.Kept s) :
    s0.Kept (State.restorePlanes s p j a3) := by
  induction a3 generalizing s p j h0 with
  | nil =>
    unfold State.restorePlanes
    try dsimp only
    repeat' first
      | with_reducible assumption
      | with_reducible apply ih
      | with_reducible apply State.overwrite_kept
      | fail_if_no_progress with_reducible refine State.Kept.mk0 ?_ rfl rfl
      | split
  | cons x xs ih =>
    unfold State.restorePlanes
    try dsimp only
    repeat' first
      | with_reducible assumption
      | with_reducible apply ih
      | with_reducible apply State.overwrite_kept
      | fail_if_no_progress with_reducible refine State.Kept.mk0 ?_ rfl rfl
      | split

theorem State.recompute_kept {s0 : State} (s : State) (p : Nat) (a2 : List Journal) (h0 : s0.Kept s) :
    s0.Kept (State.recompute s p a2) := by
  induction a2 generalizing s p h0 with
  | nil =>
    unfold State.recompute
    try dsimp only
    repeat' first
      | with_reducible assumption
      | with_reducible apply ih
      | with_reducible apply State.restorePlanes_kept
      | with_reducible apply State.applyParts_kept
      | with_reducible apply State.dirtyRanges_kept
      | fail_if_no_progress with_reducible refine State.Kept.mk0 ?_ rfl rfl
      | with_reducible refine State.Kept.ite ?_ ?_
      | split
  | cons x xs ih =>
    unfold State.recompute
    try dsimp only
    repeat' first
      | with_reducible assumption
      | with_reducible apply ih
      | with_reducible apply State.restorePlanes_kept
      | with_reducible apply State.applyParts_kept
      | with_reducible apply State.dirtyRanges_kept
      | fail_if_no_progress with_reducible refine State.Kept.mk0 ?_ rfl rfl
      | with_reducible refine State.Kept.ite ?_ ?_
      | split

theorem State.divRecompute_kept {s0 : State} (s : State) (p : Nat) (checkOk : Bool) (errs : List SymErr) (h0 : s0.Kept s) :
    s0.Kept (State.divRecompute s p checkOk errs) := by
  unfold State.divRecompute
  try dsimp only
  repeat' first
    | with_reducible assumption
    | with_reducible apply State.divWant_kept
    | with_reducible apply State.divUe_kept
    | with_reducible apply State.divSettled_kept
    | with_reducible apply State.borrowed_kept
    | with_reducible apply State.recompute_kept
    | with_reducible apply State.divFailed_kept
    | with_reducible apply State.reading_kept
    | with_reducible apply Reading.pass_kept
    | fail_if_no_progress with_reducible refine State.Kept.mk0 ?_ rfl rfl
    | with_reducible refine State.Kept.ite ?_ ?_
    | with_reducible refine State.Kept.of_pair ‹_› ?_
    | split

theorem State.divReread_kept {s0 : State} (s : State) (p : Nat) (errs : List SymErr) (h0 : s0.Kept s) :
    s0.Kept (State.divReread s p errs) := by
  unfold State.divReread
  try dsimp only
  repeat' first
    | with_reducible assumption
    | with_reducible apply State.divWant_kept
    | with_reducible apply State.divUe_kept
    | with_reducible apply State.divSettled_kept
    | with_reducible apply Reading.codes_kept
    | with_reducible apply State.divFailed_kept
    | with_reducible apply State.reading_kept
    | fail_if_no_progress with_reducible refine State.Kept.mk0 ?_ rfl rfl
    | with_reducible refine State.Kept.ite ?_ ?_
    | with_reducible refine State.Kept.of_pair ‹_› ?_
    | split

theorem State.divTimeout_kept {s0 : State} (s : State) (p : Nat) (errs : List SymErr) (h0 : s0.Kept s) :
    s0.Kept (State.divTimeout s p errs) := by
  unfold State.divTimeout
  try dsimp only
  repeat' first
    | with_reducible assumption
    | with_reducible apply State.divFailed_kept
    | fail_if_no_progress with_reducible refine State.Kept.mk0 ?_ rfl rfl
    | split

theorem State.engineFault_kept {s0 : State} (s : State) (p : Nat) (cause : Nat) (g : GradPart) (w : Nat × Nat × Nat) (h0 : s0.Kept s) :
    s0.Kept (State.engineFault s p cause g w) := by
  unfold State.engineFault
  try dsimp only
  repeat' first
    | with_reducible assumption
    | with_reducible apply streamFault_kept
    | fail_if_no_progress with_reducible refine State.Kept.mk0 ?_ rfl rfl

theorem State.engineUe_kept {s0 : State} (s : State) (st : Nat) (p : Nat) (g : GradPart) (l : List (Nat × Nat × Nat)) (h0 : s0.Kept s) :
    s0.Kept (State.engineUe s st p g l) := by
  unfold State.engineUe
  try dsimp only
  repeat' first
    | with_reducible assumption
    | with_reducible apply State.engineFault_kept
    | fail_if_no_progress with_reducible refine State.Kept.mk0 ?_ rfl rfl

theorem State.flashPages_kept {s0 : State} (s : State) (fs : Nat) (p : Nat) (b : Nat) (a4 : List FlashRead) (h0 : s0.Kept s) :
    s0.Kept (State.flashPages s fs p b a4) := by
  induction a4 generalizing s fs p b h0 with
  | nil =>
    unfold State.flashPages
    try dsimp only
    repeat' first
      | with_reducible assumption
      | with_reducible apply ih
      | with_reducible apply State.setFlash_kept
      | with_reducible apply State.event_kept
      | fail_if_no_progress with_reducible refine State.Kept.mk0 ?_ rfl rfl
      | split
  | cons x xs ih =>
    unfold State.flashPages
    try dsimp only
    repeat' first
      | with_reducible assumption
      | with_reducible apply ih
      | with_reducible apply State.setFlash_kept
      | with_reducible apply State.event_kept
      | fail_if_no_progress with_reducible refine State.Kept.mk0 ?_ rfl rfl
      | split

theorem State.stageBlock_kept {s0 : State} (s : State) (st : Nat) (k : Nat) (d : DirEnt) (h0 : s0.Kept s) :
    s0.Kept (State.stageBlock s st k d) := by
  unfold State.stageBlock
  try dsimp only
  repeat' first
    | with_reducible assumption
    | with_reducible apply State.updMem_kept
    | fail_if_no_progress with_reducible refine State.Kept.mk0 ?_ rfl rfl
    | split

theorem State.pumpDivs_kept {s0 : State} (s : State) (h0 : s0.Kept s) :
    s0.Kept (State.pumpDivs s) := by
  unfold State.pumpDivs
  try dsimp only
  repeat' first
    | with_reducible assumption
    | with_reducible apply State.divNext_kept
    | fail_if_no_progress with_reducible refine State.Kept.mk0 ?_ rfl rfl
    | with_reducible refine State.Kept.ite ?_ ?_
    | with_reducible refine State.Kept.foldl ?_ ?_
    | with_reducible refine State.Kept.foldl_fst ?_ ?_
    | split
    | (intro; try dsimp only)

theorem State.flashStage_kept {s0 : State} (s : State) (st : Nat) (k : Nat) (pages : List FlashRead) (h0 : s0.Kept s) :
    s0.Kept (State.flashStage s st k pages) := by
  unfold State.flashStage
  try dsimp only
  repeat' first
    | with_reducible assumption
    | with_reducible apply State.stageBlock_kept
    | with_reducible apply State.pumpDivs_kept
    | with_reducible apply State.pump_kept
    | with_reducible apply State.flashPages_kept
    | with_reducible apply State.blockLost_kept
    | fail_if_no_progress with_reducible refine State.Kept.mk0 ?_ rfl rfl
    | with_reducible refine State.Kept.ite ?_ ?_
    | split

theorem State.flushSlot_kept {s0 : State} (s : State) (st : Nat) (k : Nat) (d : DirEnt) (errs : List SymErr) (h0 : s0.Kept s) :
    s0.Kept (State.flushSlot s st k d errs) := by
  unfold State.flushSlot
  try dsimp only
  repeat' first
    | with_reducible assumption
    | with_reducible apply State.updVolume_kept
    | with_reducible apply State.saveBlock_kept
    | with_reducible apply State.updMem_kept
    | with_reducible apply stationFault_kept
    | fail_if_no_progress with_reducible refine State.Kept.mk0 ?_ rfl rfl
    | with_reducible refine State.Kept.ite ?_ ?_
    | with_reducible refine State.Kept.of_pair ‹_› ?_
    | split

theorem State.markDirty_kept {s0 : State} (s : State) (p : Nat) (r : Nat) (a3 : List (Nat × Nat)) (h0 : s0.Kept s) :
    s0.Kept (State.markDirty s p r a3) := by
  induction a3 generalizing s p r h0 with
  | nil =>
    unfold State.markDirty
    try dsimp only
    repeat' first
      | with_reducible assumption
      | with_reducible apply ih
      | with_reducible apply State.updMem_kept
      | fail_if_no_progress with_reducible refine State.Kept.mk0 ?_ rfl rfl
      | split
  | cons x xs ih =>
    unfold State.markDirty
    try dsimp only
    repeat' first
      | with_reducible assumption
      | with_reducible apply ih
      | with_reducible apply State.updMem_kept
      | fail_if_no_progress with_reducible refine State.Kept.mk0 ?_ rfl rfl
      | split

theorem State.pendPart_kept {s0 : State} (s : State) (st : Nat) (k : Nat) (p : Nat) (g : GradPart) (blocks : List (Nat × Nat)) (h0 : s0.Kept s) :
    s0.Kept (State.pendPart s st k p g blocks) := by
  unfold State.pendPart
  try dsimp only
  repeat' first
    | with_reducible assumption
    | with_reducible apply State.pump_kept
    | with_reducible apply State.updMem_kept
    | fail_if_no_progress with_reducible refine State.Kept.mk0 ?_ rfl rfl

theorem State.tileHeld_kept {s0 : State} (s : State) (rid : Nat) (h0 : s0.Kept s) :
    s0.Kept (State.tileHeld s rid) := by
  unfold State.tileHeld
  try dsimp only
  repeat' first
    | with_reducible assumption
    | with_reducible apply State.updMem_kept
    | fail_if_no_progress with_reducible refine State.Kept.mk0 ?_ rfl rfl
    | with_reducible refine State.Kept.ite ?_ ?_
    | split

theorem State.queuePart_kept {s0 : State} (s : State) (st : Nat) (p : Nat) (g : GradPart) (h0 : s0.Kept s) :
    s0.Kept (State.queuePart s st p g) := by
  unfold State.queuePart
  try dsimp only
  repeat' first
    | with_reducible assumption
    | with_reducible apply State.partQueued_kept
    | with_reducible apply State.updMem_kept
    | fail_if_no_progress with_reducible refine State.Kept.mk0 ?_ rfl rfl

theorem State.partArrives_kept {s0 : State} (s : State) (tok : Nat) (st : Nat) (p : Nat) (g : GradPart) (h0 : s0.Kept s) :
    s0.Kept (State.partArrives s tok st p g) := by
  unfold State.partArrives
  try dsimp only
  repeat' first
    | with_reducible assumption
    | with_reducible apply State.pendPart_kept
    | with_reducible apply State.tileHeld_kept
    | with_reducible apply State.useBlocks_kept
    | with_reducible apply State.queuePart_kept
    | with_reducible apply State.consume_kept
    | fail_if_no_progress with_reducible refine State.Kept.mk0 ?_ rfl rfl
    | with_reducible refine State.Kept.ite ?_ ?_
    | split

theorem State.update_kept {s0 : State} (s : State) (st : Nat) (p : Nat) (g : GradPart) (errs : List SymErr) (h0 : s0.Kept s) :
    s0.Kept (State.update s st p g errs) := by
  unfold State.update
  try dsimp only
  repeat' first
    | with_reducible assumption
    | with_reducible apply State.pump_kept
    | with_reducible apply State.markDirty_kept
    | with_reducible apply Reading.next_kept
    | with_reducible apply State.engineUe_kept
    | with_reducible apply Reading.groupWritten_kept
    | with_reducible apply State.reading_kept
    | with_reducible apply State.engineFault_kept
    | with_reducible apply Reading.ranges_kept
    | with_reducible apply Reading.journal_kept
    | with_reducible apply Reading.learningRate_kept
    | with_reducible apply State.applyPart_kept
    | fail_if_no_progress with_reducible refine State.Kept.mk0 ?_ rfl rfl
    | with_reducible refine State.Kept.ite ?_ ?_
    | with_reducible refine State.Kept.of_pair ‹_› ?_
    | split

theorem State.pendingApply_kept {s0 : State} (s : State) (st : Nat) (k : Nat) (errs : List SymErr) (h0 : s0.Kept s) :
    s0.Kept (State.pendingApply s st k errs) := by
  unfold State.pendingApply
  try dsimp only
  repeat' first
    | with_reducible assumption
    | with_reducible apply State.engineUe_kept
    | with_reducible apply State.updMem_kept
    | with_reducible apply State.update_kept
    | fail_if_no_progress with_reducible refine State.Kept.mk0 ?_ rfl rfl
    | with_reducible refine State.Kept.ite ?_ ?_
    | split

theorem State.repairRow_kept {s0 : State} (s : State) (st : Nat) (row : Nat) (h0 : s0.Kept s) :
    s0.Kept (State.repairRow s st row) := by
  unfold State.repairRow
  try dsimp only
  repeat' first
    | with_reducible assumption
    | with_reducible apply State.loseMs_kept
    | with_reducible apply State.setMem_kept
    | with_reducible apply State.addSoft_kept
    | with_reducible apply State.event_kept
    | fail_if_no_progress with_reducible refine State.Kept.mk0 ?_ rfl rfl
    | with_reducible refine State.Kept.ite ?_ ?_
    | split

theorem State.scrubUe_kept {s0 : State} (s : State) (st : Nat) (a : Nat) (h0 : s0.Kept s) :
    s0.Kept (State.scrubUe s st a) := by
  unfold State.scrubUe
  try dsimp only
  repeat' first
    | with_reducible assumption
    | with_reducible apply State.setPart_kept
    | with_reducible apply State.poisonSector_kept
    | with_reducible apply State.setMem_kept
    | with_reducible apply State.event_kept
    | fail_if_no_progress with_reducible refine State.Kept.mk0 ?_ rfl rfl
    | with_reducible refine State.Kept.ite ?_ ?_
    | split

theorem State.scrub_kept {s0 : State} (s : State) (st : Nat) (errs : List SymErr) (inner : Nat) (h0 : s0.Kept s) :
    s0.Kept (State.scrub s st errs inner) := by
  unfold State.scrub
  try dsimp only
  repeat' first
    | with_reducible assumption
    | with_reducible apply State.updMem_kept
    | with_reducible apply State.scrubUe_kept
    | fail_if_no_progress with_reducible refine State.Kept.mk0 ?_ rfl rfl
    | with_reducible refine State.Kept.ite ?_ ?_
    | split

theorem State.starve_kept {s0 : State} (s : State) (st : Nat) (rid : Nat) (h0 : s0.Kept s) :
    s0.Kept (State.starve s st rid) := by
  unfold State.starve
  try dsimp only
  repeat' first
    | with_reducible assumption
    | with_reducible apply streamFault_kept
    | fail_if_no_progress with_reducible refine State.Kept.mk0 ?_ rfl rfl
    | split

theorem State.updateApply_kept {s0 : State} (s : State) (st : Nat) (errs : List SymErr) (h0 : s0.Kept s) :
    s0.Kept (State.updateApply s st errs) := by
  unfold State.updateApply
  try dsimp only
  repeat' first
    | with_reducible assumption
    | with_reducible apply State.updMem_kept
    | with_reducible apply State.update_kept
    | fail_if_no_progress with_reducible refine State.Kept.mk0 ?_ rfl rfl
    | with_reducible refine State.Kept.ite ?_ ?_
    | split

theorem State.writeback_kept {s0 : State} (s : State) (st : Nat) (k : Nat) (errs : List SymErr) (h0 : s0.Kept s) :
    s0.Kept (State.writeback s st k errs) := by
  unfold State.writeback
  try dsimp only
  repeat' first
    | with_reducible assumption
    | with_reducible apply State.pumpDivs_kept
    | with_reducible apply State.countEviction_kept
    | with_reducible apply State.pump_kept
    | with_reducible apply State.flushSlot_kept
    | fail_if_no_progress with_reducible refine State.Kept.mk0 ?_ rfl rfl
    | with_reducible refine State.Kept.ite ?_ ?_
    | split

theorem execDivRecomputeDone_kept {s u : State} {part : Nat} {checkOk : Bool} {errs : List SymErr} (h0 : execDivRecomputeDone part checkOk errs s = .next u) : s.Kept u := by
  unfold execDivRecomputeDone at h0
  refine guardUnit_kept ?_ h0
  clear h0
  try dsimp only
  repeat' first
    | with_reducible exact State.Kept.refl s
    | with_reducible assumption
    | with_reducible apply State.divRecompute_kept
    | fail_if_no_progress with_reducible refine State.Kept.mk0 ?_ rfl rfl

theorem execDivRecomputeTimeout_kept {s u : State} {part : Nat} {errs : List SymErr} (h0 : execDivRecomputeTimeout part errs s = .next u) : s.Kept u := by
  unfold execDivRecomputeTimeout at h0
  refine guardUnit_kept ?_ h0
  clear h0
  try dsimp only
  repeat' first
    | with_reducible exact State.Kept.refl s
    | with_reducible assumption
    | with_reducible apply State.divTimeout_kept
    | fail_if_no_progress with_reducible refine State.Kept.mk0 ?_ rfl rfl

theorem execDivRereadDone_kept {s u : State} {part : Nat} {errs : List SymErr} (h0 : execDivRereadDone part errs s = .next u) : s.Kept u := by
  unfold execDivRereadDone at h0
  refine guardUnit_kept ?_ h0
  clear h0
  try dsimp only
  repeat' first
    | with_reducible exact State.Kept.refl s
    | with_reducible assumption
    | with_reducible apply State.divReread_kept
    | fail_if_no_progress with_reducible refine State.Kept.mk0 ?_ rfl rfl

theorem execFlashStageComplete_kept {s u : State} {ms : Nat} {slot : Nat} {pages : List FlashRead} (h0 : execFlashStageComplete ms slot pages s = .next u) : s.Kept u := by
  unfold execFlashStageComplete at h0
  refine guardUnit_kept ?_ h0
  clear h0
  try dsimp only
  repeat' first
    | with_reducible exact State.Kept.refl s
    | with_reducible assumption
    | with_reducible apply State.unlessHeld_kept
    | with_reducible apply State.flashStage_kept
    | fail_if_no_progress with_reducible refine State.Kept.mk0 ?_ rfl rfl

theorem execPendingApply_kept {s u : State} {ms : Nat} {entry : Nat} {errs : List SymErr} (h0 : execPendingApply ms entry errs s = .next u) : s.Kept u := by
  unfold execPendingApply at h0
  refine guardUnit_kept ?_ h0
  clear h0
  try dsimp only
  repeat' first
    | with_reducible exact State.Kept.refl s
    | with_reducible assumption
    | with_reducible apply State.pendingApply_kept
    | fail_if_no_progress with_reducible refine State.Kept.mk0 ?_ rfl rfl

theorem execScrubRead_kept {s u : State} {ms : Nat} {errs : List SymErr} {innerCe : Nat} (h0 : execScrubRead ms errs innerCe s = .next u) : s.Kept u := by
  unfold execScrubRead at h0
  refine guardUnit_kept ?_ h0
  clear h0
  try dsimp only
  repeat' first
    | with_reducible exact State.Kept.refl s
    | with_reducible assumption
    | with_reducible apply State.scrub_kept
    | fail_if_no_progress with_reducible refine State.Kept.mk0 ?_ rfl rfl

theorem execSlowStarved_kept {s u : State} {ms : Nat} {rid : Nat} (h0 : execSlowStarved ms rid s = .next u) : s.Kept u := by
  unfold execSlowStarved at h0
  refine guardUnit_kept ?_ h0
  clear h0
  try dsimp only
  repeat' first
    | with_reducible exact State.Kept.refl s
    | with_reducible assumption
    | with_reducible apply State.starve_kept
    | fail_if_no_progress with_reducible refine State.Kept.mk0 ?_ rfl rfl

theorem execSoftRowRepair_kept {s u : State} {ms : Nat} {row : Nat} (h0 : execSoftRowRepair ms row s = .next u) : s.Kept u := by
  unfold execSoftRowRepair at h0
  refine guardUnit_kept ?_ h0
  clear h0
  try dsimp only
  repeat' first
    | with_reducible exact State.Kept.refl s
    | with_reducible assumption
    | with_reducible apply State.repairRow_kept
    | fail_if_no_progress with_reducible refine State.Kept.mk0 ?_ rfl rfl

theorem execUpdateApply_kept {s u : State} {ms : Nat} {errs : List SymErr} (h0 : execUpdateApply ms errs s = .next u) : s.Kept u := by
  unfold execUpdateApply at h0
  refine guardUnit_kept ?_ h0
  clear h0
  try dsimp only
  repeat' first
    | with_reducible exact State.Kept.refl s
    | with_reducible assumption
    | with_reducible apply State.updateApply_kept
    | fail_if_no_progress with_reducible refine State.Kept.mk0 ?_ rfl rfl

theorem execUpdatePartArrival_kept {s u : State} {tok : Nat} (h0 : execUpdatePartArrival tok s = .next u) : s.Kept u := by
  unfold execUpdatePartArrival at h0
  refine guardUnit_kept ?_ h0
  clear h0
  try dsimp only
  repeat' first
    | with_reducible exact State.Kept.refl s
    | with_reducible assumption
    | with_reducible apply withToken_kept
    | with_reducible apply State.partArrives_kept
    | fail_if_no_progress with_reducible refine State.Kept.mk0 ?_ rfl rfl
    | with_reducible refine State.Kept.ite ?_ ?_
    | split
    | (intro; try dsimp only)

theorem execWritebackComplete_kept {s u : State} {ms : Nat} {slot : Nat} {errs : List SymErr} (h0 : execWritebackComplete ms slot errs s = .next u) : s.Kept u := by
  unfold execWritebackComplete at h0
  refine guardUnit_kept ?_ h0
  clear h0
  try dsimp only
  repeat' first
    | with_reducible exact State.Kept.refl s
    | with_reducible assumption
    | with_reducible apply State.writeback_kept
    | with_reducible apply State.unlessHeld_kept
    | fail_if_no_progress with_reducible refine State.Kept.mk0 ?_ rfl rfl

end Sys2Proof.Machine
end

