-- ==== Sys2Proof/Laws/KeepsCast.lean ====
section
/-!
SUPPORT. `_kept` lemmas (Laws/Keeps) of the operations on skeins, routes, commit and partitions.
-/
namespace Sys2Proof.Machine

theorem writeCores_kept {s0 : State} (s : State) (f : Core → Core) (a2 : List Nat) (h0 : s0.Kept s) :
    s0.Kept (writeCores s f a2) := by
  induction a2 generalizing s f h0 with
  | nil =>
    unfold writeCores
    try dsimp only
    repeat' first
      | with_reducible assumption
      | with_reducible apply ih
      | with_reducible apply State.setCore_kept
      | fail_if_no_progress with_reducible refine State.Kept.mk0 ?_ rfl rfl
      | split
  | cons x xs ih =>
    unfold writeCores
    try dsimp only
    repeat' first
      | with_reducible assumption
      | with_reducible apply ih
      | with_reducible apply State.setCore_kept
      | fail_if_no_progress with_reducible refine State.Kept.mk0 ?_ rfl rfl
      | split

theorem applyFrame_kept {s0 : State} (s : State) (p : Nat) (f : Frame0) (bs : List Byte) (h0 : s0.Kept s) :
    s0.Kept (applyFrame s p f bs) := by
  unfold applyFrame
  try dsimp only
  repeat' first
    | with_reducible assumption
    | with_reducible apply State.setPart_kept
    | with_reducible apply writeCores_kept
    | fail_if_no_progress with_reducible refine State.Kept.mk0 ?_ rfl rfl
    | split

theorem State.beginLoad_kept {s0 : State} (s : State) (h : Nat) (p : Nat) (h0 : s0.Kept s) :
    s0.Kept (State.beginLoad s h p) := by
  unfold State.beginLoad
  try dsimp only
  repeat' first
    | with_reducible assumption
    | with_reducible apply State.setPart_kept
    | with_reducible apply State.restoreShadows_kept
    | with_reducible apply State.setLoader_kept
    | fail_if_no_progress with_reducible refine State.Kept.mk0 ?_ rfl rfl

theorem State.firmwareTarget_kept {s0 : State} (s : State) (n : Nat) (h0 : s0.Kept s) :
    s0.Kept (State.firmwareTarget s n) := by
  unfold State.firmwareTarget
  try dsimp only
  repeat' first
    | with_reducible assumption
    | with_reducible apply State.setPart_kept
    | with_reducible apply mapCores_kept
    | fail_if_no_progress with_reducible refine State.Kept.mk0 ?_ rfl rfl

theorem State.lastByte_kept {s0 : State} (s : State) (h : Nat) (h0 : s0.Kept s) :
    s0.Kept (State.lastByte s h) := by
  unfold State.lastByte
  try dsimp only
  repeat' first
    | with_reducible assumption
    | with_reducible apply State.endLoad_kept
    | with_reducible apply State.setLoader_kept
    | fail_if_no_progress with_reducible refine State.Kept.mk0 ?_ rfl rfl
    | with_reducible refine State.Kept.ite ?_ ?_
    | split

theorem State.refuseStart_kept {s0 : State} (s : State) (h : Nat) (p : Nat) (reason : Nat) (h0 : s0.Kept s) :
    s0.Kept (State.refuseStart s h p reason) := by
  unfold State.refuseStart
  try dsimp only
  repeat' first
    | with_reducible assumption
    | with_reducible apply State.setLoader_kept
    | with_reducible apply State.countReject_kept
    | fail_if_no_progress with_reducible refine State.Kept.mk0 ?_ rfl rfl

theorem State.skeinStart_kept {s0 : State} (s : State) (h : Nat) (p : Nat) (h0 : s0.Kept s) :
    s0.Kept (State.skeinStart s h p) := by
  unfold State.skeinStart
  try dsimp only
  repeat' first
    | with_reducible assumption
    | with_reducible apply State.setLoader_kept
    | with_reducible apply State.beginLoad_kept
    | with_reducible apply State.refuseStart_kept
    | fail_if_no_progress with_reducible refine State.Kept.mk0 ?_ rfl rfl
    | with_reducible refine State.Kept.ite ?_ ?_
    | split

theorem State.skeinEnd_kept {s0 : State} (s : State) (h : Nat) (h0 : s0.Kept s) :
    s0.Kept (State.skeinEnd s h) := by
  unfold State.skeinEnd
  try dsimp only
  repeat' first
    | with_reducible assumption
    | with_reducible apply State.endLoad_kept
    | fail_if_no_progress with_reducible refine State.Kept.mk0 ?_ rfl rfl
    | with_reducible refine State.Kept.ite ?_ ?_
    | split

theorem State.skeinAbort_kept {s0 : State} (s : State) (h : Nat) (h0 : s0.Kept s) :
    s0.Kept (State.skeinAbort s h) := by
  unfold State.skeinAbort
  try dsimp only
  repeat' first
    | with_reducible assumption
    | with_reducible apply State.endLoad_kept
    | fail_if_no_progress with_reducible refine State.Kept.mk0 ?_ rfl rfl
    | with_reducible refine State.Kept.ite ?_ ?_
    | split

theorem State.takeFrame_kept {s0 : State} (s : State) (h : Nat) (f : Frame0) (bs : List Byte) (h0 : s0.Kept s) :
    s0.Kept (State.takeFrame s h f bs) := by
  unfold State.takeFrame
  try dsimp only
  repeat' first
    | with_reducible assumption
    | with_reducible apply applyFrame_kept
    | with_reducible apply State.endLoad_kept
    | with_reducible apply State.setLoader_kept
    | fail_if_no_progress with_reducible refine State.Kept.mk0 ?_ rfl rfl
    | with_reducible refine State.Kept.ite ?_ ?_
    | split

theorem State.takeFrames_kept {s0 : State} (s : State) (h : Nat) (a2 : Nat) (h0 : s0.Kept s) :
    s0.Kept (State.takeFrames s h a2) := by
  induction a2 generalizing s h h0 with
  | zero =>
    unfold State.takeFrames
    try dsimp only
    repeat' first
      | with_reducible assumption
      | with_reducible apply ih
      | with_reducible apply State.endLoad_kept
      | with_reducible apply State.takeFrame_kept
      | fail_if_no_progress with_reducible refine State.Kept.mk0 ?_ rfl rfl
      | with_reducible refine State.Kept.ite ?_ ?_
      | split
  | succ n ih =>
    unfold State.takeFrames
    try dsimp only
    repeat' first
      | with_reducible assumption
      | with_reducible apply ih
      | with_reducible apply State.endLoad_kept
      | with_reducible apply State.takeFrame_kept
      | fail_if_no_progress with_reducible refine State.Kept.mk0 ?_ rfl rfl
      | with_reducible refine State.Kept.ite ?_ ?_
      | split

theorem State.received_kept {s0 : State} (s : State) (h : Nat) (bs : List Byte) (h0 : s0.Kept s) :
    s0.Kept (State.received s h bs) := by
  unfold State.received
  try dsimp only
  repeat' first
    | with_reducible assumption
    | with_reducible apply State.endLoad_kept
    | with_reducible apply State.setLoader_kept
    | with_reducible apply State.lastByte_kept
    | with_reducible apply State.takeFrames_kept
    | fail_if_no_progress with_reducible refine State.Kept.mk0 ?_ rfl rfl
    | with_reducible refine State.Kept.ite ?_ ?_
    | split

theorem State.receive_kept {s0 : State} (s : State) (h : Nat) (bs : List Byte) (h0 : s0.Kept s) :
    s0.Kept (State.receive s h bs) := by
  unfold State.receive
  try dsimp only
  repeat' first
    | with_reducible assumption
    | with_reducible apply State.endLoad_kept
    | with_reducible apply State.received_kept
    | fail_if_no_progress with_reducible refine State.Kept.mk0 ?_ rfl rfl
    | with_reducible refine State.Kept.ite ?_ ?_
    | split

theorem State.winWrite_kept {s0 : State} (s : State) (h : Nat) (data : List Byte) (h0 : s0.Kept s) :
    s0.Kept (State.winWrite s h data) := by
  unfold State.winWrite
  try dsimp only
  repeat' first
    | with_reducible assumption
    | with_reducible apply State.setPort_kept
    | with_reducible apply State.receive_kept
    | fail_if_no_progress with_reducible refine State.Kept.mk0 ?_ rfl rfl
    | with_reducible refine State.Kept.ite ?_ ?_
    | split

theorem State.skeinLate_kept {s0 : State} (s : State) (h : Nat) (h0 : s0.Kept s) :
    s0.Kept (State.skeinLate s h) := by
  unfold State.skeinLate
  try dsimp only
  repeat' first
    | with_reducible assumption
    | with_reducible apply State.endLoad_kept
    | with_reducible apply State.passTo_kept
    | fail_if_no_progress with_reducible refine State.Kept.mk0 ?_ rfl rfl
    | with_reducible refine State.Kept.ite ?_ ?_
    | split

theorem State.verifyDone_kept {s0 : State} (s : State) (h : Nat) (h0 : s0.Kept s) :
    s0.Kept (State.verifyDone s h) := by
  unfold State.verifyDone
  try dsimp only
  repeat' first
    | with_reducible assumption
    | with_reducible apply State.endLoad_kept
    | with_reducible apply State.setLoader_kept
    | fail_if_no_progress with_reducible refine State.Kept.mk0 ?_ rfl rfl
    | with_reducible refine State.Kept.ite ?_ ?_
    | split

theorem execSkeinAbort_kept {s u : State} {port : Nat} (h0 : execSkeinAbort port s = .next u) : s.Kept u := by
  unfold execSkeinAbort at h0
  refine guardUnit_kept ?_ h0
  clear h0
  try dsimp only
  repeat' first
    | with_reducible exact State.Kept.refl s
    | with_reducible assumption
    | with_reducible apply State.skeinAbort_kept
    | fail_if_no_progress with_reducible refine State.Kept.mk0 ?_ rfl rfl

theorem execSkeinDeadlineExpiry_kept {s u : State} {port : Nat} (h0 : execSkeinDeadlineExpiry port s = .next u) : s.Kept u := by
  unfold execSkeinDeadlineExpiry at h0
  refine guardUnit_kept ?_ h0
  clear h0
  try dsimp only
  repeat' first
    | with_reducible exact State.Kept.refl s
    | with_reducible assumption
    | with_reducible apply State.skeinLate_kept
    | fail_if_no_progress with_reducible refine State.Kept.mk0 ?_ rfl rfl

theorem execSkeinEnd_kept {s u : State} {port : Nat} (h0 : execSkeinEnd port s = .next u) : s.Kept u := by
  unfold execSkeinEnd at h0
  refine guardUnit_kept ?_ h0
  clear h0
  try dsimp only
  repeat' first
    | with_reducible exact State.Kept.refl s
    | with_reducible assumption
    | with_reducible apply State.skeinEnd_kept
    | fail_if_no_progress with_reducible refine State.Kept.mk0 ?_ rfl rfl

theorem execSkeinStart_kept {s u : State} {port : Nat} {part : Nat} (h0 : execSkeinStart port part s = .next u) : s.Kept u := by
  unfold execSkeinStart at h0
  refine guardUnit_kept ?_ h0
  clear h0
  try dsimp only
  repeat' first
    | with_reducible exact State.Kept.refl s
    | with_reducible assumption
    | with_reducible apply State.skeinStart_kept
    | fail_if_no_progress with_reducible refine State.Kept.mk0 ?_ rfl rfl

theorem execSkeinVerifyDone_kept {s u : State} {port : Nat} (h0 : execSkeinVerifyDone port s = .next u) : s.Kept u := by
  unfold execSkeinVerifyDone at h0
  refine guardUnit_kept ?_ h0
  clear h0
  try dsimp only
  repeat' first
    | with_reducible exact State.Kept.refl s
    | with_reducible assumption
    | with_reducible apply State.verifyDone_kept
    | fail_if_no_progress with_reducible refine State.Kept.mk0 ?_ rfl rfl

theorem execSkeinWinWrite_kept {s u : State} {port : Nat} {data : List Byte} (h0 : execSkeinWinWrite port data s = .next u) : s.Kept u := by
  unfold execSkeinWinWrite at h0
  refine guardUnit_kept ?_ h0
  clear h0
  try dsimp only
  repeat' first
    | with_reducible exact State.Kept.refl s
    | with_reducible assumption
    | with_reducible apply State.winWrite_kept
    | fail_if_no_progress with_reducible refine State.Kept.mk0 ?_ rfl rfl

theorem State.dropRoutes_kept {s0 : State} (s : State) (p : Nat) (h0 : s0.Kept s) :
    s0.Kept (State.dropRoutes s p) := by
  unfold State.dropRoutes
  try dsimp only
  repeat' first
    | with_reducible assumption
    | with_reducible apply mapRouters_kept
    | with_reducible apply mapMs_kept
    | fail_if_no_progress with_reducible refine State.Kept.mk0 ?_ rfl rfl

theorem State.setRedBuf_kept {s0 : State} (s : State) (f : Option Feeder) (b : RedBuf) (h0 : s0.Kept s) :
    s0.Kept (State.setRedBuf s f b) := by
  unfold State.setRedBuf
  try dsimp only
  repeat' first
    | with_reducible assumption
    | with_reducible apply State.setRouter_kept
    | with_reducible apply State.setMem_kept
    | fail_if_no_progress with_reducible refine State.Kept.mk0 ?_ rfl rfl
    | split

theorem State.carryBufs_kept {s0 : State} (old : State) (live : Part) (q : Part) (flush : Bool) (s : State) (a5 : List RouteRec) (h0 : s0.Kept s) :
    s0.Kept (State.carryBufs old live q flush s a5) := by
  induction a5 generalizing old live q flush s h0 with
  | nil =>
    unfold State.carryBufs
    try dsimp only
    repeat' first
      | with_reducible assumption
      | with_reducible apply ih
      | with_reducible apply State.setRedBuf_kept
      | fail_if_no_progress with_reducible refine State.Kept.mk0 ?_ rfl rfl
      | with_reducible refine State.Kept.ite ?_ ?_
      | split
  | cons x xs ih =>
    unfold State.carryBufs
    try dsimp only
    repeat' first
      | with_reducible assumption
      | with_reducible apply ih
      | with_reducible apply State.setRedBuf_kept
      | fail_if_no_progress with_reducible refine State.Kept.mk0 ?_ rfl rfl
      | with_reducible refine State.Kept.ite ?_ ?_
      | split

theorem State.freshResult_kept {s0 : State} (s : State) (q : Part) (r : RouteRec) (h0 : s0.Kept s) :
    s0.Kept (State.freshResult s q r) := by
  unfold State.freshResult
  try dsimp only
  repeat' first
    | with_reducible assumption
    | with_reducible apply State.setCore_kept
    | with_reducible apply State.setRedBuf_kept
    | fail_if_no_progress with_reducible refine State.Kept.mk0 ?_ rfl rfl
    | with_reducible refine State.Kept.ite ?_ ?_
    | split

theorem State.freshChannel_kept {s0 : State} (s : State) (q : Part) (r : RouteRec) (h0 : s0.Kept s) :
    s0.Kept (State.freshChannel s q r) := by
  unfold State.freshChannel
  try dsimp only
  repeat' first
    | with_reducible assumption
    | with_reducible apply State.setRouter_kept
    | with_reducible apply State.setCore_kept
    | with_reducible apply State.setMem_kept
    | fail_if_no_progress with_reducible refine State.Kept.mk0 ?_ rfl rfl
    | with_reducible refine State.Kept.ite ?_ ?_
    | split

theorem State.commit_kept {s0 : State} (s : State) (h : Nat) (flush : Bool) (drainUs : Nat) (h0 : s0.Kept s) :
    s0.Kept (State.commit s h flush drainUs) := by
  unfold State.commit
  try dsimp only
  repeat' first
    | with_reducible assumption
    | with_reducible apply State.setLoader_kept
    | fail_if_no_progress with_reducible refine State.Kept.mk0 ?_ rfl rfl
    | with_reducible refine State.Kept.ite ?_ ?_
    | split

theorem putRanges_kept {s0 : State} (s : State) (a1 : List (Nat × Range)) (h0 : s0.Kept s) :
    s0.Kept (putRanges s a1) := by
  induction a1 generalizing s h0 with
  | nil =>
    unfold putRanges
    try dsimp only
    repeat' first
      | with_reducible assumption
      | with_reducible apply ih
      | with_reducible apply State.updMem_kept
      | fail_if_no_progress with_reducible refine State.Kept.mk0 ?_ rfl rfl
      | split
  | cons x xs ih =>
    unfold putRanges
    try dsimp only
    repeat' first
      | with_reducible assumption
      | with_reducible apply ih
      | with_reducible apply State.updMem_kept
      | fail_if_no_progress with_reducible refine State.Kept.mk0 ?_ rfl rfl
      | split

theorem State.dropReleases_kept {s0 : State} (old : State) (p : Nat) (flush : Bool) (live : Part) (s : State) (h0 : s0.Kept s) :
    s0.Kept (State.dropReleases old p flush live s) := by
  unfold State.dropReleases
  try dsimp only
  repeat' first
    | with_reducible assumption
    | with_reducible apply mapRouters_kept
    | fail_if_no_progress with_reducible refine State.Kept.mk0 ?_ rfl rfl

theorem restartArrays_kept {s0 : State} (s : State) (a1 : List Nat) (h0 : s0.Kept s) :
    s0.Kept (restartArrays s a1) := by
  induction a1 generalizing s h0 with
  | nil =>
    unfold restartArrays
    try dsimp only
    repeat' first
      | with_reducible assumption
      | with_reducible apply ih
      | with_reducible apply mapCores_kept
      | fail_if_no_progress with_reducible refine State.Kept.mk0 ?_ rfl rfl
      | split
  | cons x xs ih =>
    unfold restartArrays
    try dsimp only
    repeat' first
      | with_reducible assumption
      | with_reducible apply ih
      | with_reducible apply mapCores_kept
      | fail_if_no_progress with_reducible refine State.Kept.mk0 ?_ rfl rfl
      | split

theorem swapCores_kept {s0 : State} (old : State) (flush : Bool) (s : State) (a3 : List Nat) (h0 : s0.Kept s) :
    s0.Kept (swapCores old flush s a3) := by
  induction a3 generalizing old flush s h0 with
  | nil =>
    unfold swapCores
    try dsimp only
    repeat' first
      | with_reducible assumption
      | with_reducible apply ih
      | with_reducible apply State.setCore_kept
      | fail_if_no_progress with_reducible refine State.Kept.mk0 ?_ rfl rfl
      | split
  | cons x xs ih =>
    unfold swapCores
    try dsimp only
    repeat' first
      | with_reducible assumption
      | with_reducible apply ih
      | with_reducible apply State.setCore_kept
      | fail_if_no_progress with_reducible refine State.Kept.mk0 ?_ rfl rfl
      | split

theorem fillCores_kept {s0 : State} (s : State) (fs : List (Nat × Nat × Nat × Nat)) (a2 : List Nat) (h0 : s0.Kept s) :
    s0.Kept (fillCores s fs a2) := by
  induction a2 generalizing s fs h0 with
  | nil =>
    unfold fillCores
    try dsimp only
    repeat' first
      | with_reducible assumption
      | with_reducible apply ih
      | with_reducible apply State.setCore_kept
      | fail_if_no_progress with_reducible refine State.Kept.mk0 ?_ rfl rfl
      | split
  | cons x xs ih =>
    unfold fillCores
    try dsimp only
    repeat' first
      | with_reducible assumption
      | with_reducible apply ih
      | with_reducible apply State.setCore_kept
      | fail_if_no_progress with_reducible refine State.Kept.mk0 ?_ rfl rfl
      | split

theorem putReds_kept {s0 : State} (s : State) (a1 : List (Bool × Nat × Nat × W64)) (h0 : s0.Kept s) :
    s0.Kept (putReds s a1) := by
  induction a1 generalizing s h0 with
  | nil =>
    unfold putReds
    try dsimp only
    repeat' first
      | with_reducible assumption
      | with_reducible apply ih
      | with_reducible apply State.setRouter_kept
      | with_reducible apply State.setMem_kept
      | fail_if_no_progress with_reducible refine State.Kept.mk0 ?_ rfl rfl
      | with_reducible refine State.Kept.ite ?_ ?_
      | split
  | cons x xs ih =>
    unfold putReds
    try dsimp only
    repeat' first
      | with_reducible assumption
      | with_reducible apply ih
      | with_reducible apply State.setRouter_kept
      | with_reducible apply State.setMem_kept
      | fail_if_no_progress with_reducible refine State.Kept.mk0 ?_ rfl rfl
      | with_reducible refine State.Kept.ite ?_ ?_
      | split

theorem putEntries_kept {s0 : State} (s : State) (a1 : List (Nat × Nat × W64)) (h0 : s0.Kept s) :
    s0.Kept (putEntries s a1) := by
  induction a1 generalizing s h0 with
  | nil =>
    unfold putEntries
    try dsimp only
    repeat' first
      | with_reducible assumption
      | with_reducible apply ih
      | with_reducible apply State.setRouter_kept
      | fail_if_no_progress with_reducible refine State.Kept.mk0 ?_ rfl rfl
      | split
  | cons x xs ih =>
    unfold putEntries
    try dsimp only
    repeat' first
      | with_reducible assumption
      | with_reducible apply ih
      | with_reducible apply State.setRouter_kept
      | fail_if_no_progress with_reducible refine State.Kept.mk0 ?_ rfl rfl
      | split

theorem State.swap_kept {s0 : State} (s : State) (h : Nat) (flushed : Nat) (h0 : s0.Kept s) :
    s0.Kept (State.swap s h flushed) := by
  unfold State.swap
  try dsimp only
  repeat' first
    | with_reducible assumption
    | with_reducible apply State.setPart_kept
    | with_reducible apply putRanges_kept
    | with_reducible apply State.dropReleases_kept
    | with_reducible apply restartArrays_kept
    | with_reducible apply swapCores_kept
    | with_reducible apply fillCores_kept
    | with_reducible apply State.dropRoutes_kept
    | with_reducible apply State.setLoader_kept
    | with_reducible apply State.freshResult_kept
    | with_reducible apply State.stirPart_kept
    | with_reducible apply putReds_kept
    | with_reducible apply putEntries_kept
    | with_reducible apply State.loadKeys_kept
    | with_reducible apply State.freshChannel_kept
    | with_reducible apply State.carryBufs_kept
    | fail_if_no_progress with_reducible refine State.Kept.mk0 ?_ rfl rfl
    | with_reducible refine State.Kept.ite ?_ ?_
    | with_reducible refine State.Kept.foldl ?_ ?_
    | with_reducible refine State.Kept.foldl_fst ?_ ?_
    | split
    | (intro; try dsimp only)

theorem State.drainOrSwap_kept {s0 : State} (s : State) (h : Nat) (h0 : s0.Kept s) :
    s0.Kept (State.drainOrSwap s h) := by
  unfold State.drainOrSwap
  try dsimp only
  repeat' first
    | with_reducible assumption
    | with_reducible apply flushTokens_kept
    | with_reducible apply State.setLoader_kept
    | with_reducible apply State.swap_kept
    | fail_if_no_progress with_reducible refine State.Kept.mk0 ?_ rfl rfl
    | with_reducible refine State.Kept.ite ?_ ?_
    | with_reducible refine State.Kept.of_pair ‹_› ?_
    | split

theorem State.commitAllocate_kept {s0 : State} (s : State) (h : Nat) (h0 : s0.Kept s) :
    s0.Kept (State.commitAllocate s h) := by
  unfold State.commitAllocate
  try dsimp only
  repeat' first
    | with_reducible assumption
    | with_reducible apply State.setPart_kept
    | with_reducible apply State.refuseCommit_kept
    | with_reducible apply State.drainOrSwap_kept
    | fail_if_no_progress with_reducible refine State.Kept.mk0 ?_ rfl rfl
    | with_reducible refine State.Kept.ite ?_ ?_
    | split

theorem State.commitHalt_kept {s0 : State} (s : State) (h : Nat) (h0 : s0.Kept s) :
    s0.Kept (State.commitHalt s h) := by
  unfold State.commitHalt
  try dsimp only
  repeat' first
    | with_reducible assumption
    | with_reducible apply State.setLoader_kept
    | fail_if_no_progress with_reducible refine State.Kept.mk0 ?_ rfl rfl
    | with_reducible refine State.Kept.ite ?_ ?_
    | split

theorem State.drainDone_kept {s0 : State} (s : State) (h : Nat) (h0 : s0.Kept s) :
    s0.Kept (State.drainDone s h) := by
  unfold State.drainDone
  try dsimp only
  repeat' first
    | with_reducible assumption
    | with_reducible apply State.refuseCommit_kept
    | with_reducible apply State.swap_kept
    | fail_if_no_progress with_reducible refine State.Kept.mk0 ?_ rfl rfl
    | with_reducible refine State.Kept.ite ?_ ?_
    | split

theorem State.drainLate_kept {s0 : State} (s : State) (h : Nat) (h0 : s0.Kept s) :
    s0.Kept (State.drainLate s h) := by
  unfold State.drainLate
  try dsimp only
  repeat' first
    | with_reducible assumption
    | with_reducible apply State.refuseCommit_kept
    | with_reducible apply State.passTo_kept
    | with_reducible apply State.swap_kept
    | fail_if_no_progress with_reducible refine State.Kept.mk0 ?_ rfl rfl
    | with_reducible refine State.Kept.ite ?_ ?_
    | split

theorem execCommit_kept {s u : State} {port : Nat} {flush : Bool} {drainUs : Nat} (h0 : execCommit port flush drainUs s = .next u) : s.Kept u := by
  unfold execCommit at h0
  refine guardUnit_kept ?_ h0
  clear h0
  try dsimp only
  repeat' first
    | with_reducible exact State.Kept.refl s
    | with_reducible assumption
    | with_reducible apply State.commit_kept
    | fail_if_no_progress with_reducible refine State.Kept.mk0 ?_ rfl rfl

theorem execCommitAllocate_kept {s u : State} {port : Nat} (h0 : execCommitAllocate port s = .next u) : s.Kept u := by
  unfold execCommitAllocate at h0
  refine guardUnit_kept ?_ h0
  clear h0
  try dsimp only
  repeat' first
    | with_reducible exact State.Kept.refl s
    | with_reducible assumption
    | with_reducible apply State.commitAllocate_kept
    | fail_if_no_progress with_reducible refine State.Kept.mk0 ?_ rfl rfl

theorem execCommitHaltDone_kept {s u : State} {port : Nat} (h0 : execCommitHaltDone port s = .next u) : s.Kept u := by
  unfold execCommitHaltDone at h0
  refine guardUnit_kept ?_ h0
  clear h0
  try dsimp only
  repeat' first
    | with_reducible exact State.Kept.refl s
    | with_reducible assumption
    | with_reducible apply State.commitHalt_kept
    | with_reducible apply State.runOuts_kept
    | fail_if_no_progress with_reducible refine State.Kept.mk0 ?_ rfl rfl

theorem execDrainComplete_kept {s u : State} {port : Nat} (h0 : execDrainComplete port s = .next u) : s.Kept u := by
  unfold execDrainComplete at h0
  refine guardUnit_kept ?_ h0
  clear h0
  try dsimp only
  repeat' first
    | with_reducible exact State.Kept.refl s
    | with_reducible assumption
    | with_reducible apply State.drainDone_kept
    | fail_if_no_progress with_reducible refine State.Kept.mk0 ?_ rfl rfl

theorem execDrainTimeout_kept {s u : State} {port : Nat} (h0 : execDrainTimeout port s = .next u) : s.Kept u := by
  unfold execDrainTimeout at h0
  refine guardUnit_kept ?_ h0
  clear h0
  try dsimp only
  repeat' first
    | with_reducible exact State.Kept.refl s
    | with_reducible assumption
    | with_reducible apply State.drainLate_kept
    | fail_if_no_progress with_reducible refine State.Kept.mk0 ?_ rfl rfl

theorem State.putShare_kept {s0 : State} (s : State) (p : Nat) (r : Nat) (n : Nat) (byte : Nat → Byte) (st : Nat) (h0 : s0.Kept s) :
    s0.Kept (State.putShare s p r n byte st) := by
  unfold State.putShare
  try dsimp only
  repeat' first
    | with_reducible assumption
    | with_reducible apply State.updMem_kept
    | fail_if_no_progress with_reducible refine State.Kept.mk0 ?_ rfl rfl
    | with_reducible refine State.Kept.ite ?_ ?_
    | with_reducible refine State.Kept.foldl ?_ ?_
    | with_reducible refine State.Kept.foldl_fst ?_ ?_
    | split
    | (intro; try dsimp only)

theorem State.writeImage_kept {s0 : State} (s : State) (p : Nat) (tail : List SymErr) (h0 : s0.Kept s) :
    s0.Kept (State.writeImage s p tail) := by
  unfold State.writeImage
  try dsimp only
  repeat' first
    | with_reducible assumption
    | with_reducible apply State.draw_kept
    | with_reducible apply State.sealRange_kept
    | with_reducible apply State.reading_kept
    | with_reducible apply State.putShare_kept
    | with_reducible apply Reading.ranges_kept
    | with_reducible apply stationFault_kept
    | fail_if_no_progress with_reducible refine State.Kept.mk0 ?_ rfl rfl
    | with_reducible refine State.Kept.ite ?_ ?_
    | with_reducible refine State.Kept.foldl ?_ ?_
    | with_reducible refine State.Kept.foldl_fst ?_ ?_
    | with_reducible refine State.Kept.of_pair ‹_› ?_
    | split
    | (intro; try dsimp only)

theorem State.startTest_kept {s0 : State} (s : State) (b : Nat) (h0 : s0.Kept s) :
    s0.Kept (State.startTest s b) := by
  unfold State.startTest
  try dsimp only
  repeat' first
    | with_reducible assumption
    | with_reducible apply State.setBed_kept
    | fail_if_no_progress with_reducible refine State.Kept.mk0 ?_ rfl rfl
    | with_reducible refine State.Kept.ite ?_ ?_
    | split

theorem State.bedLost_kept {s0 : State} (s : State) (p : Nat) (bed : Nat) (heat : Bool) (h0 : s0.Kept s) :
    s0.Kept (State.bedLost s p bed heat) := by
  unfold State.bedLost
  try dsimp only
  repeat' first
    | with_reducible assumption
    | with_reducible apply faultPart_kept
    | fail_if_no_progress with_reducible refine State.Kept.mk0 ?_ rfl rfl

theorem State.lockFails_kept {s0 : State} (s : State) (p : Nat) (h0 : s0.Kept s) :
    s0.Kept (State.lockFails s p) := by
  unfold State.lockFails
  try dsimp only
  repeat' first
    | with_reducible assumption
    | with_reducible apply State.setPart_kept
    | with_reducible apply startBindOff_kept
    | fail_if_no_progress with_reducible refine State.Kept.mk0 ?_ rfl rfl

theorem giveArrays_kept {s0 : State} (s : State) (p : Nat) (conf : Bool) (a3 : List Nat) (h0 : s0.Kept s) :
    s0.Kept (giveArrays s p conf a3) := by
  induction a3 generalizing s p conf h0 with
  | nil =>
    unfold giveArrays
    try dsimp only
    repeat' first
      | with_reducible assumption
      | with_reducible apply ih
      | with_reducible apply State.setArr_kept
      | fail_if_no_progress with_reducible refine State.Kept.mk0 ?_ rfl rfl
      | split
  | cons x xs ih =>
    unfold giveArrays
    try dsimp only
    repeat' first
      | with_reducible assumption
      | with_reducible apply ih
      | with_reducible apply State.setArr_kept
      | fail_if_no_progress with_reducible refine State.Kept.mk0 ?_ rfl rfl
      | split

theorem State.wakeBed_kept {s0 : State} (s : State) (b : Nat) (h0 : s0.Kept s) :
    s0.Kept (State.wakeBed s b) := by
  unfold State.wakeBed
  try dsimp only
  repeat' first
    | with_reducible assumption
    | with_reducible apply State.setBed_kept
    | fail_if_no_progress with_reducible refine State.Kept.mk0 ?_ rfl rfl
    | with_reducible refine State.Kept.ite ?_ ?_
    | split

theorem State.wakeBeds_kept {s0 : State} (s : State) (a1 : List Nat) (h0 : s0.Kept s) :
    s0.Kept (State.wakeBeds s a1) := by
  induction a1 generalizing s h0 with
  | nil =>
    unfold State.wakeBeds
    try dsimp only
    repeat' first
      | with_reducible assumption
      | with_reducible apply ih
      | with_reducible apply State.wakeBed_kept
      | fail_if_no_progress with_reducible refine State.Kept.mk0 ?_ rfl rfl
      | split
  | cons x xs ih =>
    unfold State.wakeBeds
    try dsimp only
    repeat' first
      | with_reducible assumption
      | with_reducible apply ih
      | with_reducible apply State.wakeBed_kept
      | fail_if_no_progress with_reducible refine State.Kept.mk0 ?_ rfl rfl
      | split

theorem returnArrays_kept {s0 : State} (s : State) (a1 : List Nat) (h0 : s0.Kept s) :
    s0.Kept (returnArrays s a1) := by
  induction a1 generalizing s h0 with
  | nil =>
    unfold returnArrays
    try dsimp only
    repeat' first
      | with_reducible assumption
      | with_reducible apply ih
      | with_reducible apply State.setArr_kept
      | fail_if_no_progress with_reducible refine State.Kept.mk0 ?_ rfl rfl
      | split
  | cons x xs ih =>
    unfold returnArrays
    try dsimp only
    repeat' first
      | with_reducible assumption
      | with_reducible apply ih
      | with_reducible apply State.setArr_kept
      | fail_if_no_progress with_reducible refine State.Kept.mk0 ?_ rfl rfl
      | split

theorem State.freeCores_kept {s0 : State} (s : State) (p : Nat) (h0 : s0.Kept s) :
    s0.Kept (State.freeCores s p) := by
  unfold State.freeCores
  try dsimp only
  repeat' first
    | with_reducible assumption
    | with_reducible apply returnArrays_kept
    | with_reducible apply mapCores_kept
    | with_reducible apply State.moveDead_kept
    | fail_if_no_progress with_reducible refine State.Kept.mk0 ?_ rfl rfl

theorem State.freeVolumes_kept {s0 : State} (s : State) (p : Nat) (h0 : s0.Kept s) :
    s0.Kept (State.freeVolumes s p) := by
  unfold State.freeVolumes
  try dsimp only
  repeat' first
    | with_reducible assumption
    | fail_if_no_progress (with_reducible refine State.Kept.mk ?_ rfl rfl ?_ ?_ ?_ ?_ ?_ ?_ ?_ ?_ ?_ <;>
        first | with_reducible exact id | (with_reducible exact fun k => SMap.wf_put _ _ _ k)
              | (with_reducible exact fun k => SMap.wf_filter _ _ k) | (with_reducible exact fun k => SMap.wf_mapV _ _ k)
              | (with_reducible exact fun _ => SMap.wf_nil _) | skip)
    | with_reducible refine State.Kept.ite ?_ ?_
    | split

theorem State.startTests_kept {s0 : State} (s : State) (h0 : s0.Kept s) :
    s0.Kept (State.startTests s) := by
  unfold State.startTests
  try dsimp only
  repeat' first
    | with_reducible assumption
    | with_reducible apply State.startTest_kept
    | fail_if_no_progress with_reducible refine State.Kept.mk0 ?_ rfl rfl
    | with_reducible refine State.Kept.foldl ?_ ?_
    | with_reducible refine State.Kept.foldl_fst ?_ ?_
    | (intro; try dsimp only)

theorem State.bindOff_kept {s0 : State} (s : State) (p : Nat) (h0 : s0.Kept s) :
    s0.Kept (State.bindOff s p) := by
  unfold State.bindOff
  try dsimp only
  repeat' first
    | with_reducible assumption
    | with_reducible apply mapRouters_kept
    | with_reducible apply State.setPart_kept
    | with_reducible apply mapFs_kept
    | with_reducible apply State.freeCores_kept
    | with_reducible apply State.freeVolumes_kept
    | with_reducible apply mapPorts_kept
    | with_reducible apply State.dropRoutes_kept
    | with_reducible apply State.dropHost_kept
    | with_reducible apply State.startTests_kept
    | with_reducible apply State.cryptoErase_kept
    | with_reducible apply mapMs_kept
    | fail_if_no_progress with_reducible refine State.Kept.mk0 ?_ rfl rfl
    | with_reducible refine State.Kept.ite ?_ ?_
    | split

theorem State.bindOffDone_kept {s0 : State} (s : State) (p : Nat) (h0 : s0.Kept s) :
    s0.Kept (State.bindOffDone s p) := by
  unfold State.bindOffDone
  try dsimp only
  repeat' first
    | with_reducible assumption
    | with_reducible apply State.bindOff_kept
    | fail_if_no_progress with_reducible refine State.Kept.mk0 ?_ rfl rfl
    | with_reducible refine State.Kept.ite ?_ ?_
    | split

theorem stepCores_kept {s0 : State} (s : State) (step : BitVec 32) (a2 : List Nat) (h0 : s0.Kept s) :
    s0.Kept (stepCores s step a2) := by
  induction a2 generalizing s step h0 with
  | nil =>
    unfold stepCores
    try dsimp only
    repeat' first
      | with_reducible assumption
      | with_reducible apply ih
      | with_reducible apply State.setCore_kept
      | fail_if_no_progress with_reducible refine State.Kept.mk0 ?_ rfl rfl
      | split
  | cons x xs ih =>
    unfold stepCores
    try dsimp only
    repeat' first
      | with_reducible assumption
      | with_reducible apply ih
      | with_reducible apply State.setCore_kept
      | fail_if_no_progress with_reducible refine State.Kept.mk0 ?_ rfl rfl
      | split

theorem releaseArrays_kept {s0 : State} (s : State) (a1 : List Nat) (h0 : s0.Kept s) :
    s0.Kept (releaseArrays s a1) := by
  induction a1 generalizing s h0 with
  | nil =>
    unfold releaseArrays
    try dsimp only
    repeat' first
      | with_reducible assumption
      | with_reducible apply ih
      | with_reducible apply State.setArr_kept
      | fail_if_no_progress with_reducible refine State.Kept.mk0 ?_ rfl rfl
      | split
  | cons x xs ih =>
    unfold releaseArrays
    try dsimp only
    repeat' first
      | with_reducible assumption
      | with_reducible apply ih
      | with_reducible apply State.setArr_kept
      | fail_if_no_progress with_reducible refine State.Kept.mk0 ?_ rfl rfl
      | split

theorem State.castReset_kept {s0 : State} (s00 : State) (p : Nat) (h0 : s0.Kept s00) :
    s0.Kept (State.castReset s00 p) := by
  unfold State.castReset
  try dsimp only
  repeat' first
    | with_reducible assumption
    | with_reducible apply State.setPort_kept
    | with_reducible apply stepCores_kept
    | with_reducible apply mapCores_kept
    | with_reducible apply State.freshResult_kept
    | with_reducible apply State.stirPart_kept
    | with_reducible apply State.freshChannel_kept
    | with_reducible apply releaseArrays_kept
    | with_reducible apply State.setRedBuf_kept
    | fail_if_no_progress with_reducible refine State.Kept.mk0 ?_ rfl rfl
    | with_reducible refine State.Kept.ite ?_ ?_
    | with_reducible refine State.Kept.foldl ?_ ?_
    | with_reducible refine State.Kept.foldl_fst ?_ ?_
    | split
    | (intro; try dsimp only)

theorem State.cast_kept {s0 : State} (s : State) (p : Nat) (a2 : Nat) (h0 : s0.Kept s) :
    s0.Kept (State.cast s p a2) := by
  induction a2 generalizing s p h0 with
  | zero =>
    unfold State.cast
    try dsimp only
    repeat' first
      | with_reducible assumption
      | with_reducible apply ih
      | with_reducible apply State.setPart_kept
      | with_reducible apply State.castReset_kept
      | with_reducible apply State.wakeBeds_kept
      | fail_if_no_progress with_reducible refine State.Kept.mk0 ?_ rfl rfl
      | split
  | succ n ih =>
    unfold State.cast
    try dsimp only
    repeat' first
      | with_reducible assumption
      | with_reducible apply ih
      | with_reducible apply State.setPart_kept
      | with_reducible apply State.castReset_kept
      | with_reducible apply State.wakeBeds_kept
      | fail_if_no_progress with_reducible refine State.Kept.mk0 ?_ rfl rfl
      | split

theorem State.setResult_kept {s0 : State} (s : State) (p : Nat) (r : Nat) (h0 : s0.Kept s) :
    s0.Kept (State.setResult s p r) := by
  unfold State.setResult
  try dsimp only
  repeat' first
    | with_reducible assumption
    | with_reducible apply State.setPart_kept
    | fail_if_no_progress with_reducible refine State.Kept.mk0 ?_ rfl rfl

theorem State.pageWrite_kept {s0 : State} (s : State) (h : Nat) (p : Nat) (t : State) (h0 : s0.Kept s) (h1 : s0.Kept t) :
    s0.Kept (State.pageWrite s h p t) := by
  unfold State.pageWrite
  try dsimp only
  repeat' first
    | with_reducible assumption
    | with_reducible apply State.setPort_kept
    | fail_if_no_progress with_reducible refine State.Kept.mk0 ?_ rfl rfl
    | with_reducible refine State.Kept.ite ?_ ?_
    | split

theorem State.command_kept {s0 : State} (s : State) (h : Nat) (p : Nat) (st : PState) (t : State) (h0 : s0.Kept s) (h1 : s0.Kept t) :
    s0.Kept (State.command s h p st t) := by
  unfold State.command
  try dsimp only
  repeat' first
    | with_reducible assumption
    | with_reducible apply State.setResult_kept
    | with_reducible apply State.pageWrite_kept
    | fail_if_no_progress with_reducible refine State.Kept.mk0 ?_ rfl rfl
    | with_reducible refine State.Kept.ite ?_ ?_
    | split

theorem State.complete_kept {s0 : State} (s : State) (p : Nat) (h0 : s0.Kept s) :
    s0.Kept (State.complete s p) := by
  unfold State.complete
  try dsimp only
  repeat' first
    | with_reducible assumption
    | with_reducible apply State.setPart_kept
    | with_reducible apply State.setPort_kept
    | with_reducible apply State.gather_kept
    | fail_if_no_progress with_reducible refine State.Kept.mk0 ?_ rfl rfl
    | with_reducible refine State.Kept.ite ?_ ?_
    | split

theorem State.create_kept {s0 : State} (s : State) (h : Nat) (saCount : Nat) (cls : Nat) (conf : Bool) (h0 : s0.Kept s) :
    s0.Kept (State.create s h saCount cls conf) := by
  unfold State.create
  try dsimp only
  repeat' first
    | with_reducible assumption
    | with_reducible apply State.setPart_kept
    | with_reducible apply State.setPort_kept
    | with_reducible apply giveArrays_kept
    | with_reducible apply State.wakeBeds_kept
    | fail_if_no_progress with_reducible refine State.Kept.mk0 ?_ rfl rfl
    | with_reducible refine State.Kept.ite ?_ ?_
    | split

theorem State.deadlock_kept {s0 : State} (s : State) (p : Nat) (h0 : s0.Kept s) :
    s0.Kept (State.deadlock s p) := by
  unfold State.deadlock
  try dsimp only
  repeat' first
    | with_reducible assumption
    | with_reducible apply State.setPart_kept
    | with_reducible apply startBindOff_kept
    | with_reducible apply State.writeImage_kept
    | with_reducible apply freezeAll_kept
    | with_reducible apply State.event_kept
    | fail_if_no_progress with_reducible refine State.Kept.mk0 ?_ rfl rfl
    | with_reducible refine State.Kept.ite ?_ ?_
    | split

theorem State.stopNow_kept {s0 : State} (s : State) (p : Nat) (h0 : s0.Kept s) :
    s0.Kept (State.stopNow s p) := by
  unfold State.stopNow
  try dsimp only
  repeat' first
    | with_reducible assumption
    | with_reducible apply State.setPart_kept
    | with_reducible apply startBindOff_kept
    | with_reducible apply State.writeImage_kept
    | fail_if_no_progress with_reducible refine State.Kept.mk0 ?_ rfl rfl
    | with_reducible refine State.Kept.ite ?_ ?_
    | split

theorem State.quiesce_kept {s0 : State} (s : State) (p : Nat) (device : Bool) (h0 : s0.Kept s) :
    s0.Kept (State.quiesce s p device) := by
  unfold State.quiesce
  try dsimp only
  repeat' first
    | with_reducible assumption
    | with_reducible apply State.setPart_kept
    | with_reducible apply State.endLoad_kept
    | with_reducible apply freezeAll_kept
    | fail_if_no_progress with_reducible refine State.Kept.mk0 ?_ rfl rfl
    | split

theorem State.lockDone_kept {s0 : State} (s : State) (p : Nat) (h0 : s0.Kept s) :
    s0.Kept (State.lockDone s p) := by
  unfold State.lockDone
  try dsimp only
  repeat' first
    | with_reducible assumption
    | with_reducible apply State.setPart_kept
    | with_reducible apply State.stopNow_kept
    | with_reducible apply State.cast_kept
    | fail_if_no_progress with_reducible refine State.Kept.mk0 ?_ rfl rfl
    | with_reducible refine State.Kept.ite ?_ ?_
    | split

theorem State.lockLate_kept {s0 : State} (s : State) (p : Nat) (h0 : s0.Kept s) :
    s0.Kept (State.lockLate s p) := by
  unfold State.lockLate
  try dsimp only
  repeat' first
    | with_reducible assumption
    | with_reducible apply State.lockFails_kept
    | fail_if_no_progress with_reducible refine State.Kept.mk0 ?_ rfl rfl
    | with_reducible refine State.Kept.ite ?_ ?_
    | split

theorem State.start_kept {s0 : State} (s : State) (p : Nat) (h0 : s0.Kept s) :
    s0.Kept (State.start s p) := by
  unfold State.start
  try dsimp only
  repeat' first
    | with_reducible assumption
    | with_reducible apply State.setPart_kept
    | with_reducible apply State.cast_kept
    | fail_if_no_progress with_reducible refine State.Kept.mk0 ?_ rfl rfl

theorem State.stop_kept {s0 : State} (s : State) (p : Nat) (scan : Bool) (h0 : s0.Kept s) :
    s0.Kept (State.stop s p scan) := by
  unfold State.stop
  try dsimp only
  repeat' first
    | with_reducible assumption
    | with_reducible apply State.setPart_kept
    | with_reducible apply State.setResult_kept
    | with_reducible apply State.stopNow_kept
    | fail_if_no_progress with_reducible refine State.Kept.mk0 ?_ rfl rfl
    | with_reducible refine State.Kept.ite ?_ ?_
    | split

theorem State.placeDone_kept {s0 : State} (s : State) (p : Nat) (h0 : s0.Kept s) :
    s0.Kept (State.placeDone s p) := by
  unfold State.placeDone
  try dsimp only
  repeat' first
    | with_reducible assumption
    | with_reducible apply State.setPart_kept
    | with_reducible apply giveArrays_kept
    | with_reducible apply State.wakeBeds_kept
    | fail_if_no_progress with_reducible refine State.Kept.mk0 ?_ rfl rfl
    | with_reducible refine State.Kept.ite ?_ ?_
    | split

theorem State.quiesceDone_kept {s0 : State} (s : State) (p : Nat) (h0 : s0.Kept s) :
    s0.Kept (State.quiesceDone s p) := by
  unfold State.quiesceDone
  try dsimp only
  repeat' first
    | with_reducible assumption
    | with_reducible apply State.setPart_kept
    | fail_if_no_progress with_reducible refine State.Kept.mk0 ?_ rfl rfl
    | with_reducible refine State.Kept.ite ?_ ?_
    | split

theorem State.quiesceLate_kept {s0 : State} (s : State) (p : Nat) (errs : List (Nat × ReadEcc)) (h0 : s0.Kept s) :
    s0.Kept (State.quiesceLate s p errs) := by
  unfold State.quiesceLate
  try dsimp only
  repeat' first
    | with_reducible assumption
    | with_reducible apply State.bedLost_kept
    | with_reducible apply State.setPart_kept
    | with_reducible apply State.sendAllWaits_kept
    | with_reducible apply thawAll_kept
    | fail_if_no_progress with_reducible refine State.Kept.mk0 ?_ rfl rfl
    | with_reducible refine State.Kept.ite ?_ ?_
    | split

theorem State.restoreCores_kept {s0 : State} (s : State) (p : Nat) (i : ScanImage) (h0 : s0.Kept s) :
    s0.Kept (State.restoreCores s p i) := by
  unfold State.restoreCores
  try dsimp only
  repeat' first
    | with_reducible assumption
    | with_reducible apply State.setCore_kept
    | fail_if_no_progress with_reducible refine State.Kept.mk0 ?_ rfl rfl
    | with_reducible refine State.Kept.foldl ?_ ?_
    | with_reducible refine State.Kept.foldl_fst ?_ ?_
    | (intro; try dsimp only)

theorem restoreArrays_kept {s0 : State} (s : State) (a1 : List (Nat × Arr)) (h0 : s0.Kept s) :
    s0.Kept (restoreArrays s a1) := by
  induction a1 generalizing s h0 with
  | nil =>
    unfold restoreArrays
    try dsimp only
    repeat' first
      | with_reducible assumption
      | with_reducible apply ih
      | with_reducible apply State.setArr_kept
      | fail_if_no_progress with_reducible refine State.Kept.mk0 ?_ rfl rfl
      | split
  | cons x xs ih =>
    unfold restoreArrays
    try dsimp only
    repeat' first
      | with_reducible assumption
      | with_reducible apply ih
      | with_reducible apply State.setArr_kept
      | fail_if_no_progress with_reducible refine State.Kept.mk0 ?_ rfl rfl
      | split

theorem State.resumeDone_kept {s0 : State} (s9 : State) (p : Nat) (errs : List SymErr) (h0 : s0.Kept s9) :
    s0.Kept (State.resumeDone s9 p errs) := by
  unfold State.resumeDone
  try dsimp only
  repeat' first
    | with_reducible assumption
    | with_reducible apply State.restoreCores_kept
    | with_reducible apply State.setPart_kept
    | with_reducible apply restoreArrays_kept
    | with_reducible apply State.reading_kept
    | with_reducible apply Reading.range_kept
    | with_reducible apply State.setRedBuf_kept
    | with_reducible apply stationFault_kept
    | fail_if_no_progress with_reducible refine State.Kept.mk0 ?_ rfl rfl
    | with_reducible refine State.Kept.ite ?_ ?_
    | with_reducible refine State.Kept.foldl ?_ ?_
    | with_reducible refine State.Kept.foldl_fst ?_ ?_
    | with_reducible refine State.Kept.of_pair ‹_› ?_
    | split
    | (intro; try dsimp only)

theorem State.scanReads_kept {s0 : State} (s : State) (p : Nat) (errs : List (Nat × ReadEcc)) (h0 : s0.Kept s) :
    s0.Kept (State.scanReads s p errs) := by
  unfold State.scanReads
  try dsimp only
  repeat' first
    | with_reducible assumption
    | with_reducible apply State.portRead_kept
    | fail_if_no_progress with_reducible refine State.Kept.mk0 ?_ rfl rfl
    | with_reducible refine State.Kept.foldl ?_ ?_
    | with_reducible refine State.Kept.foldl_fst ?_ ?_
    | (intro; try dsimp only)

theorem State.scanOutDone_kept {s0 : State} (s9 : State) (p : Nat) (errs : List (Nat × ReadEcc)) (tail : List SymErr) (h0 : s0.Kept s9) :
    s0.Kept (State.scanOutDone s9 p errs tail) := by
  unfold State.scanOutDone
  try dsimp only
  repeat' first
    | with_reducible assumption
    | with_reducible apply State.setPart_kept
    | with_reducible apply State.freeCores_kept
    | with_reducible apply State.scanReads_kept
    | with_reducible apply State.dropRoutes_kept
    | with_reducible apply State.startTests_kept
    | with_reducible apply State.writeImage_kept
    | with_reducible apply State.gather_kept
    | fail_if_no_progress with_reducible refine State.Kept.mk0 ?_ rfl rfl
    | with_reducible refine State.Kept.ite ?_ ?_
    | split

theorem execBindOffDone_kept {s u : State} {part : Nat} (h0 : execBindOffDone part s = .next u) : s.Kept u := by
  unfold execBindOffDone at h0
  refine guardUnit_kept ?_ h0
  clear h0
  try dsimp only
  repeat' first
    | with_reducible exact State.Kept.refl s
    | with_reducible assumption
    | with_reducible apply State.bindOffDone_kept
    | fail_if_no_progress with_reducible refine State.Kept.mk0 ?_ rfl rfl

theorem execCastLockDone_kept {s u : State} {part : Nat} (h0 : execCastLockDone part s = .next u) : s.Kept u := by
  unfold execCastLockDone at h0
  refine guardUnit_kept ?_ h0
  clear h0
  try dsimp only
  repeat' first
    | with_reducible exact State.Kept.refl s
    | with_reducible assumption
    | with_reducible apply State.lockDone_kept
    | fail_if_no_progress with_reducible refine State.Kept.mk0 ?_ rfl rfl

theorem execCastLockTimeout_kept {s u : State} {part : Nat} (h0 : execCastLockTimeout part s = .next u) : s.Kept u := by
  unfold execCastLockTimeout at h0
  refine guardUnit_kept ?_ h0
  clear h0
  try dsimp only
  repeat' first
    | with_reducible exact State.Kept.refl s
    | with_reducible assumption
    | with_reducible apply State.lockLate_kept
    | fail_if_no_progress with_reducible refine State.Kept.mk0 ?_ rfl rfl

theorem execDeadlock_kept {s u : State} {part : Nat} (h0 : execDeadlock part s = .next u) : s.Kept u := by
  unfold execDeadlock at h0
  refine guardUnit_kept ?_ h0
  clear h0
  try dsimp only
  repeat' first
    | with_reducible exact State.Kept.refl s
    | with_reducible assumption
    | with_reducible apply State.runOuts_kept
    | with_reducible apply State.passTo_kept
    | with_reducible apply State.deadlock_kept
    | fail_if_no_progress with_reducible refine State.Kept.mk0 ?_ rfl rfl
    | with_reducible refine State.Kept.ite ?_ ?_
    | split

theorem execDlCtlWrite_kept {s u : State} {port : Nat} {part : Nat} {value : W64} (h0 : execDlCtlWrite port part value s = .next u) : s.Kept u := by
  unfold execDlCtlWrite at h0
  refine guardUnit_kept ?_ h0
  clear h0
  try dsimp only
  repeat' first
    | with_reducible exact State.Kept.refl s
    | with_reducible assumption
    | with_reducible apply State.setPart_kept
    | with_reducible apply State.pageWrite_kept
    | fail_if_no_progress with_reducible refine State.Kept.mk0 ?_ rfl rfl

theorem execPartComplete_kept {s u : State} {part : Nat} (h0 : execPartComplete part s = .next u) : s.Kept u := by
  unfold execPartComplete at h0
  refine guardUnit_kept ?_ h0
  clear h0
  try dsimp only
  repeat' first
    | with_reducible exact State.Kept.refl s
    | with_reducible assumption
    | with_reducible apply State.runOuts_kept
    | with_reducible apply State.complete_kept
    | fail_if_no_progress with_reducible refine State.Kept.mk0 ?_ rfl rfl

theorem execPartCreate_kept {s u : State} {port : Nat} {saCount : Nat} {cls : Nat} {conf : Bool} (h0 : execPartCreate port saCount cls conf s = .next u) : s.Kept u := by
  unfold execPartCreate at h0
  refine guardUnit_kept ?_ h0
  clear h0
  try dsimp only
  repeat' first
    | with_reducible exact State.Kept.refl s
    | with_reducible assumption
    | with_reducible apply State.create_kept
    | fail_if_no_progress with_reducible refine State.Kept.mk0 ?_ rfl rfl

theorem execPartPlace_kept {s u : State} {port : Nat} {part : Nat} (h0 : execPartPlace port part s = .next u) : s.Kept u := by
  unfold execPartPlace at h0
  refine guardUnit_kept ?_ h0
  clear h0
  try dsimp only
  repeat' first
    | with_reducible exact State.Kept.refl s
    | with_reducible assumption
    | with_reducible apply State.setPart_kept
    | with_reducible apply State.command_kept
    | fail_if_no_progress with_reducible refine State.Kept.mk0 ?_ rfl rfl

theorem execPartRelease_kept {s u : State} {port : Nat} {part : Nat} (h0 : execPartRelease port part s = .next u) : s.Kept u := by
  unfold execPartRelease at h0
  refine guardUnit_kept ?_ h0
  clear h0
  try dsimp only
  repeat' first
    | with_reducible exact State.Kept.refl s
    | with_reducible assumption
    | with_reducible apply State.setPart_kept
    | with_reducible apply State.command_kept
    | fail_if_no_progress with_reducible refine State.Kept.mk0 ?_ rfl rfl

theorem execPartResume_kept {s u : State} {port : Nat} {part : Nat} (h0 : execPartResume port part s = .next u) : s.Kept u := by
  unfold execPartResume at h0
  refine guardUnit_kept ?_ h0
  clear h0
  try dsimp only
  repeat' first
    | with_reducible exact State.Kept.refl s
    | with_reducible assumption
    | with_reducible apply State.setPart_kept
    | with_reducible apply State.command_kept
    | with_reducible apply State.wakeBeds_kept
    | fail_if_no_progress with_reducible refine State.Kept.mk0 ?_ rfl rfl

theorem execPartStart_kept {s u : State} {port : Nat} {part : Nat} (h0 : execPartStart port part s = .next u) : s.Kept u := by
  unfold execPartStart at h0
  refine guardUnit_kept ?_ h0
  clear h0
  try dsimp only
  repeat' first
    | with_reducible exact State.Kept.refl s
    | with_reducible assumption
    | with_reducible apply State.command_kept
    | with_reducible apply State.start_kept
    | fail_if_no_progress with_reducible refine State.Kept.mk0 ?_ rfl rfl

theorem execPartStop_kept {s u : State} {port : Nat} {part : Nat} {scan : Bool} (h0 : execPartStop port part scan s = .next u) : s.Kept u := by
  unfold execPartStop at h0
  refine guardUnit_kept ?_ h0
  clear h0
  try dsimp only
  repeat' first
    | with_reducible exact State.Kept.refl s
    | with_reducible assumption
    | with_reducible apply State.stop_kept
    | with_reducible apply State.pageWrite_kept
    | fail_if_no_progress with_reducible refine State.Kept.mk0 ?_ rfl rfl

theorem execPartSuspend_kept {s u : State} {port : Nat} {part : Nat} (h0 : execPartSuspend port part s = .next u) : s.Kept u := by
  unfold execPartSuspend at h0
  refine guardUnit_kept ?_ h0
  clear h0
  try dsimp only
  repeat' first
    | with_reducible exact State.Kept.refl s
    | with_reducible assumption
    | with_reducible apply State.command_kept
    | with_reducible apply State.setResult_kept
    | with_reducible apply State.quiesce_kept
    | fail_if_no_progress with_reducible refine State.Kept.mk0 ?_ rfl rfl
    | with_reducible refine State.Kept.ite ?_ ?_
    | split

theorem execPlaceDone_kept {s u : State} {part : Nat} (h0 : execPlaceDone part s = .next u) : s.Kept u := by
  unfold execPlaceDone at h0
  refine guardUnit_kept ?_ h0
  clear h0
  try dsimp only
  repeat' first
    | with_reducible exact State.Kept.refl s
    | with_reducible assumption
    | with_reducible apply State.placeDone_kept
    | fail_if_no_progress with_reducible refine State.Kept.mk0 ?_ rfl rfl

theorem execQuiesceDone_kept {s u : State} {part : Nat} (h0 : execQuiesceDone part s = .next u) : s.Kept u := by
  unfold execQuiesceDone at h0
  refine guardUnit_kept ?_ h0
  clear h0
  try dsimp only
  repeat' first
    | with_reducible exact State.Kept.refl s
    | with_reducible assumption
    | with_reducible apply State.quiesceDone_kept
    | fail_if_no_progress with_reducible refine State.Kept.mk0 ?_ rfl rfl

theorem execQuiesceTimeout_kept {s u : State} {part : Nat} {errs : List (Nat × ReadEcc)} (h0 : execQuiesceTimeout part errs s = .next u) : s.Kept u := by
  unfold execQuiesceTimeout at h0
  refine guardUnit_kept ?_ h0
  clear h0
  try dsimp only
  repeat' first
    | with_reducible exact State.Kept.refl s
    | with_reducible assumption
    | with_reducible apply State.quiesceLate_kept
    | with_reducible apply State.passTicks_kept
    | fail_if_no_progress with_reducible refine State.Kept.mk0 ?_ rfl rfl
    | with_reducible refine State.Kept.ite ?_ ?_
    | split

theorem execResumeDone_kept {s u : State} {part : Nat} {errs : List SymErr} (h0 : execResumeDone part errs s = .next u) : s.Kept u := by
  unfold execResumeDone at h0
  refine guardUnit_kept ?_ h0
  clear h0
  try dsimp only
  repeat' first
    | with_reducible exact State.Kept.refl s
    | with_reducible assumption
    | with_reducible apply State.resumeDone_kept
    | fail_if_no_progress with_reducible refine State.Kept.mk0 ?_ rfl rfl

theorem execScanOutDone_kept {s u : State} {part : Nat} {errs : List (Nat × ReadEcc)} {tail : List SymErr} (h0 : execScanOutDone part errs tail s = .next u) : s.Kept u := by
  unfold execScanOutDone at h0
  refine guardUnit_kept ?_ h0
  clear h0
  try dsimp only
  repeat' first
    | with_reducible exact State.Kept.refl s
    | with_reducible assumption
    | with_reducible apply State.scanOutDone_kept
    | fail_if_no_progress with_reducible refine State.Kept.mk0 ?_ rfl rfl

theorem execStatusGather_kept {s u : State} {part : Nat} (h0 : execStatusGather part s = .next u) : s.Kept u := by
  unfold execStatusGather at h0
  refine guardUnit_kept ?_ h0
  clear h0
  try dsimp only
  repeat' first
    | with_reducible exact State.Kept.refl s
    | with_reducible assumption
    | with_reducible apply State.runOuts_kept
    | with_reducible apply State.gather_kept
    | fail_if_no_progress with_reducible refine State.Kept.mk0 ?_ rfl rfl
    | with_reducible refine State.Kept.ite ?_ ?_
    | split

theorem execWarnClr_kept {s u : State} {port : Nat} {part : Nat} (h0 : execWarnClr port part s = .next u) : s.Kept u := by
  unfold execWarnClr at h0
  refine guardUnit_kept ?_ h0
  clear h0
  try dsimp only
  repeat' first
    | with_reducible exact State.Kept.refl s
    | with_reducible assumption
    | with_reducible apply State.setPart_kept
    | with_reducible apply State.pageWrite_kept
    | fail_if_no_progress with_reducible refine State.Kept.mk0 ?_ rfl rfl

end Sys2Proof.Machine
end

