-- ==== Sys2Proof/Laws/KeepsHost.lean ====
section
/-!
SUPPORT. `_kept` lemmas (Laws/Keeps) of the operations on host ports, queues, SPDM and the dictionary.
-/
namespace Sys2Proof.Machine

theorem State.portReset_kept {s0 : State} (s : State) (h : Nat) (h0 : s0.Kept s) :
    s0.Kept (State.portReset s h) := by
  unfold State.portReset
  try dsimp only
  repeat' first
    | with_reducible assumption
    | with_reducible apply State.setPort_kept
    | with_reducible apply State.endLoad_kept
    | with_reducible apply mapMs_kept
    | fail_if_no_progress with_reducible refine State.Kept.mk0 ?_ rfl rfl
    | with_reducible refine State.Kept.ite ?_ ?_
    | split

theorem State.setQueue_kept {s0 : State} (s : State) (h : Nat) (q : Nat) (u : Queue) (h0 : s0.Kept s) :
    s0.Kept (State.setQueue s h q u) := by
  unfold State.setQueue
  try dsimp only
  repeat' first
    | with_reducible assumption
    | with_reducible apply State.setPort_kept
    | fail_if_no_progress with_reducible refine State.Kept.mk0 ?_ rfl rfl

theorem State.fetch_kept {s0 : State} (s : State) (h : Nat) (q : Nat) (cmds : List QCmd) (h0 : s0.Kept s) :
    s0.Kept (State.fetch s h q cmds) := by
  unfold State.fetch
  try dsimp only
  repeat' first
    | with_reducible assumption
    | with_reducible apply State.setQueue_kept
    | fail_if_no_progress with_reducible refine State.Kept.mk0 ?_ rfl rfl
    | with_reducible refine State.Kept.ite ?_ ?_
    | split

theorem State.fetchAll_kept {s0 : State} (s : State) (h : Nat) (cmds : List (List QCmd)) (h0 : s0.Kept s) :
    s0.Kept (State.fetchAll s h cmds) := by
  unfold State.fetchAll
  try dsimp only
  repeat' first
    | with_reducible assumption
    | with_reducible apply State.fetch_kept
    | fail_if_no_progress with_reducible refine State.Kept.mk0 ?_ rfl rfl
    | with_reducible refine State.Kept.ite ?_ ?_
    | with_reducible refine State.Kept.foldl ?_ ?_
    | with_reducible refine State.Kept.foldl_fst ?_ ?_
    | split
    | (intro; try dsimp only)

theorem State.configRequest_kept {s0 : State} (s : State) (h : Nat) (reg : CfgReg) (write : Option W32) (cmds : List (List QCmd)) (h0 : s0.Kept s) :
    s0.Kept (State.configRequest s h reg write cmds) := by
  unfold State.configRequest
  try dsimp only
  repeat' first
    | with_reducible assumption
    | with_reducible apply State.fetchAll_kept
    | with_reducible apply State.setPort_kept
    | with_reducible apply State.emit_kept
    | fail_if_no_progress with_reducible refine State.Kept.mk0 ?_ rfl rfl
    | with_reducible refine State.Kept.ite ?_ ?_
    | split

theorem State.countMisaligned_kept {s0 : State} (s : State) (h : Nat) (h0 : s0.Kept s) :
    s0.Kept (State.countMisaligned s h) := by
  unfold State.countMisaligned
  try dsimp only
  repeat' first
    | with_reducible assumption
    | with_reducible apply State.setPort_kept
    | fail_if_no_progress with_reducible refine State.Kept.mk0 ?_ rfl rfl

theorem State.countNotOwned_kept {s0 : State} (s : State) (h : Nat) (h0 : s0.Kept s) :
    s0.Kept (State.countNotOwned s h) := by
  unfold State.countNotOwned
  try dsimp only
  repeat' first
    | with_reducible assumption
    | with_reducible apply State.setPort_kept
    | fail_if_no_progress with_reducible refine State.Kept.mk0 ?_ rfl rfl

theorem State.countUnmapped_kept {s0 : State} (s : State) (h : Nat) (h0 : s0.Kept s) :
    s0.Kept (State.countUnmapped s h) := by
  unfold State.countUnmapped
  try dsimp only
  repeat' first
    | with_reducible assumption
    | with_reducible apply State.setPort_kept
    | fail_if_no_progress with_reducible refine State.Kept.mk0 ?_ rfl rfl

theorem State.countRefusal_kept {s0 : State} (s : State) (h : Nat) (a2 : WinRefusal) (h0 : s0.Kept s) :
    s0.Kept (State.countRefusal s h a2) := by
  unfold State.countRefusal
  try dsimp only
  repeat' first
    | with_reducible assumption
    | with_reducible apply State.countUnmapped_kept
    | with_reducible apply State.countNotOwned_kept
    | fail_if_no_progress with_reducible refine State.Kept.mk0 ?_ rfl rfl
    | split

theorem State.dropBell_kept {s0 : State} (s : State) (h : Nat) (h0 : s0.Kept s) :
    s0.Kept (State.dropBell s h) := by
  unfold State.dropBell
  try dsimp only
  repeat' first
    | with_reducible assumption
    | with_reducible apply State.setPort_kept
    | fail_if_no_progress with_reducible refine State.Kept.mk0 ?_ rfl rfl

theorem State.doorbell_kept {s0 : State} (s : State) (h : Nat) (p : Nat) (v : W64) (ide : Option Nat) (h0 : s0.Kept s) :
    s0.Kept (State.doorbell s h p v ide) := by
  unfold State.doorbell
  try dsimp only
  repeat' first
    | with_reducible assumption
    | with_reducible apply State.setPort_kept
    | with_reducible apply State.dropBell_kept
    | with_reducible apply State.countNotOwned_kept
    | fail_if_no_progress with_reducible refine State.Kept.mk0 ?_ rfl rfl
    | with_reducible refine State.Kept.ite ?_ ?_
    | split

theorem State.hostRequests_kept {s0 : State} (s : State) (h : Nat) (p : Nat) (r : Nat) (kind : ReqKind) (a5 : List (Nat × Nat × Nat × Nat)) (a6 : List Byte) (h0 : s0.Kept s) :
    s0.Kept (State.hostRequests s h p r kind a5 a6).1 := by
  induction a5 generalizing s h p r kind a6 h0 with
  | nil =>
    unfold State.hostRequests
    try dsimp only
    repeat' first
      | with_reducible assumption
      | with_reducible apply ih
      | with_reducible apply State.queueRequest_kept
      | fail_if_no_progress with_reducible refine State.Kept.mk0 ?_ rfl rfl
      | split
  | cons x xs ih =>
    unfold State.hostRequests
    try dsimp only
    repeat' first
      | with_reducible assumption
      | with_reducible apply ih
      | with_reducible apply State.queueRequest_kept
      | fail_if_no_progress with_reducible refine State.Kept.mk0 ?_ rfl rfl
      | split

theorem State.ideFail_kept {s0 : State} (s : State) (h : Nat) (k : Nat) (h0 : s0.Kept s) :
    s0.Kept (State.ideFail s h k) := by
  unfold State.ideFail
  try dsimp only
  repeat' first
    | with_reducible assumption
    | with_reducible apply State.setPort_kept
    | fail_if_no_progress with_reducible refine State.Kept.mk0 ?_ rfl rfl
    | with_reducible refine State.Kept.ite ?_ ?_
    | split

theorem State.linkUp_kept {s0 : State} (s : State) (h : Nat) (speed : Nat) (width : Nat) (flit : Bool) (h0 : s0.Kept s) :
    s0.Kept (State.linkUp s h speed width flit) := by
  unfold State.linkUp
  try dsimp only
  repeat' first
    | with_reducible assumption
    | with_reducible apply State.setPort_kept
    | fail_if_no_progress with_reducible refine State.Kept.mk0 ?_ rfl rfl
    | with_reducible refine State.Kept.ite ?_ ?_
    | split

theorem State.mapWindow_kept {s0 : State} (s : State) (h : Nat) (slot : Nat) (v : W64) (h0 : s0.Kept s) :
    s0.Kept (State.mapWindow s h slot v) := by
  unfold State.mapWindow
  try dsimp only
  repeat' first
    | with_reducible assumption
    | with_reducible apply State.setPort_kept
    | with_reducible apply State.countNotOwned_kept
    | fail_if_no_progress with_reducible refine State.Kept.mk0 ?_ rfl rfl
    | with_reducible refine State.Kept.ite ?_ ?_
    | split

theorem State.noteReads_kept {s0 : State} (s : State) (p : Nat) (r : Nat) (o : Nat) (n : Nat) (h0 : s0.Kept s) :
    s0.Kept (State.noteReads s p r o n) := by
  unfold State.noteReads
  try dsimp only
  repeat' first
    | with_reducible assumption
    | with_reducible apply State.noteLate_kept
    | fail_if_no_progress with_reducible refine State.Kept.mk0 ?_ rfl rfl
    | with_reducible refine State.Kept.foldl ?_ ?_
    | with_reducible refine State.Kept.foldl_fst ?_ ?_
    | (intro; try dsimp only)

theorem State.openRead_kept {s0 : State} (s : State) (h : Nat) (p : Nat) (r : Nat) (o : Nat) (n : Nat) (addr : Option W64) (h0 : s0.Kept s) :
    s0.Kept (State.openRead s h p r o n addr).1 := by
  unfold State.openRead
  try dsimp only
  repeat' first
    | with_reducible assumption
    | with_reducible apply State.setPort_kept
    | with_reducible apply State.hostRequests_kept
    | fail_if_no_progress with_reducible refine State.Kept.mk0 ?_ rfl rfl
    | with_reducible refine State.Kept.of_pair ‹_› ?_

theorem State.openWrite_kept {s0 : State} (s : State) (h : Nat) (p : Nat) (r : Nat) (o : Nat) (bs : List Byte) (h0 : s0.Kept s) :
    s0.Kept (State.openWrite s h p r o bs).1 := by
  unfold State.openWrite
  try dsimp only
  repeat' first
    | with_reducible assumption
    | with_reducible apply State.setPort_kept
    | with_reducible apply State.hostRequests_kept
    | fail_if_no_progress with_reducible refine State.Kept.mk0 ?_ rfl rfl
    | with_reducible refine State.Kept.of_pair ‹_› ?_

theorem State.portReady_kept {s0 : State} (s : State) (h : Nat) (h0 : s0.Kept s) :
    s0.Kept (State.portReady s h) := by
  unfold State.portReady
  try dsimp only
  repeat' first
    | with_reducible assumption
    | with_reducible apply State.setPort_kept
    | fail_if_no_progress with_reducible refine State.Kept.mk0 ?_ rfl rfl
    | with_reducible refine State.Kept.ite ?_ ?_
    | split

theorem State.readNow_kept {s0 : State} (s : State) (p : Nat) (r : Nat) (o : Nat) (n : Nat) (errs : List SymErr) (h0 : s0.Kept s) :
    s0.Kept (State.readNow s p r o n errs).1 := by
  unfold State.readNow
  try dsimp only
  repeat' first
    | with_reducible assumption
    | with_reducible apply Reading.checked_kept
    | with_reducible apply State.reading_kept
    | with_reducible apply Reading.range_kept
    | with_reducible apply State.noteReads_kept
    | fail_if_no_progress with_reducible refine State.Kept.mk0 ?_ rfl rfl
    | with_reducible refine State.Kept.of_pair ‹_› ?_

theorem State.releaseBell_kept {s0 : State} (s : State) (h : Nat) (h0 : s0.Kept s) :
    s0.Kept (State.releaseBell s h) := by
  unfold State.releaseBell
  try dsimp only
  repeat' first
    | with_reducible assumption
    | with_reducible apply State.setPort_kept
    | with_reducible apply State.inject_kept
    | with_reducible apply State.dropBell_kept
    | fail_if_no_progress with_reducible refine State.Kept.mk0 ?_ rfl rfl
    | with_reducible refine State.Kept.ite ?_ ?_
    | split

theorem State.windowRead_kept {s0 : State} (s : State) (h : Nat) (a : Nat) (n : Nat) (ide : Option Nat) (errs : List SymErr) (h0 : s0.Kept s) :
    s0.Kept (State.windowRead s h a n ide errs) := by
  unfold State.windowRead
  try dsimp only
  repeat' first
    | with_reducible assumption
    | with_reducible apply State.countRefusal_kept
    | with_reducible apply State.openRead_kept
    | with_reducible apply State.readNow_kept
    | with_reducible apply State.emit_kept
    | fail_if_no_progress with_reducible refine State.Kept.mk0 ?_ rfl rfl
    | with_reducible refine State.Kept.ite ?_ ?_
    | with_reducible refine State.Kept.of_pair ‹_› ?_
    | split

theorem State.windowWrite_kept {s0 : State} (s : State) (h : Nat) (a : Nat) (bs : List Byte) (ide : Option Nat) (h0 : s0.Kept s) :
    s0.Kept (State.windowWrite s h a bs ide) := by
  unfold State.windowWrite
  try dsimp only
  repeat' first
    | with_reducible assumption
    | with_reducible apply State.countRefusal_kept
    | with_reducible apply State.openWrite_kept
    | with_reducible apply State.countUnmapped_kept
    | fail_if_no_progress with_reducible refine State.Kept.mk0 ?_ rfl rfl
    | with_reducible refine State.Kept.ite ?_ ?_
    | with_reducible refine State.Kept.of_pair ‹_› ?_
    | split

theorem execConfigRequest_kept {s u : State} {port : Nat} {reg : CfgReg} {write : Option W32} {cmds : List (List QCmd)} (h0 : execConfigRequest port reg write cmds s = .next u) : s.Kept u := by
  unfold execConfigRequest at h0
  refine guardUnit_kept ?_ h0
  clear h0
  try dsimp only
  repeat' first
    | with_reducible exact State.Kept.refl s
    | with_reducible assumption
    | with_reducible apply State.configRequest_kept
    | fail_if_no_progress with_reducible refine State.Kept.mk0 ?_ rfl rfl

theorem execDoorbellLand_kept {s u : State} {tok : Nat} {mport : Nat} (h0 : execDoorbellLand tok mport s = .next u) : s.Kept u := by
  unfold execDoorbellLand at h0
  refine guardUnit_kept ?_ h0
  clear h0
  try dsimp only
  repeat' first
    | with_reducible exact State.Kept.refl s
    | with_reducible assumption
    | with_reducible apply withToken_kept
    | with_reducible apply State.stirPart_kept
    | with_reducible apply State.afterCount_kept
    | with_reducible apply State.consume_kept
    | fail_if_no_progress with_reducible refine State.Kept.mk0 ?_ rfl rfl
    | with_reducible refine State.Kept.ite ?_ ?_
    | split
    | (intro; try dsimp only)

theorem execDoorbellRelease_kept {s u : State} {port : Nat} (h0 : execDoorbellRelease port s = .next u) : s.Kept u := by
  unfold execDoorbellRelease at h0
  refine guardUnit_kept ?_ h0
  clear h0
  try dsimp only
  repeat' first
    | with_reducible exact State.Kept.refl s
    | with_reducible assumption
    | with_reducible apply State.releaseBell_kept
    | fail_if_no_progress with_reducible refine State.Kept.mk0 ?_ rfl rfl

theorem execIdeIntegrityFail_kept {s u : State} {port : Nat} {stream : Nat} (h0 : execIdeIntegrityFail port stream s = .next u) : s.Kept u := by
  unfold execIdeIntegrityFail at h0
  refine guardUnit_kept ?_ h0
  clear h0
  try dsimp only
  repeat' first
    | with_reducible exact State.Kept.refl s
    | with_reducible assumption
    | with_reducible apply State.ideFail_kept
    | fail_if_no_progress with_reducible refine State.Kept.mk0 ?_ rfl rfl

theorem execLinkUp_kept {s u : State} {port : Nat} {speed : Nat} {width : Nat} {flit : Bool} (h0 : execLinkUp port speed width flit s = .next u) : s.Kept u := by
  unfold execLinkUp at h0
  refine guardUnit_kept ?_ h0
  clear h0
  try dsimp only
  repeat' first
    | with_reducible exact State.Kept.refl s
    | with_reducible assumption
    | with_reducible apply State.linkUp_kept
    | fail_if_no_progress with_reducible refine State.Kept.mk0 ?_ rfl rfl

theorem execPartDb_kept {s u : State} {port : Nat} {part : Nat} {value : W64} {ide : Option Nat} (h0 : execPartDb port part value ide s = .next u) : s.Kept u := by
  unfold execPartDb at h0
  refine guardUnit_kept ?_ h0
  clear h0
  try dsimp only
  repeat' first
    | with_reducible exact State.Kept.refl s
    | with_reducible assumption
    | with_reducible apply State.doorbell_kept
    | fail_if_no_progress with_reducible refine State.Kept.mk0 ?_ rfl rfl

theorem execPortReady_kept {s u : State} {port : Nat} (h0 : execPortReady port s = .next u) : s.Kept u := by
  unfold execPortReady at h0
  refine guardUnit_kept ?_ h0
  clear h0
  try dsimp only
  repeat' first
    | with_reducible exact State.Kept.refl s
    | with_reducible assumption
    | with_reducible apply State.portReady_kept
    | fail_if_no_progress with_reducible refine State.Kept.mk0 ?_ rfl rfl

theorem execPortReset_kept {s u : State} {port : Nat} {_kind : ResetKind} (h0 : execPortReset port _kind s = .next u) : s.Kept u := by
  unfold execPortReset at h0
  refine guardUnit_kept ?_ h0
  clear h0
  try dsimp only
  repeat' first
    | with_reducible exact State.Kept.refl s
    | with_reducible assumption
    | with_reducible apply State.portReset_kept
    | fail_if_no_progress with_reducible refine State.Kept.mk0 ?_ rfl rfl

theorem execWinMapWrite_kept {s u : State} {port : Nat} {slot : Nat} {value : W64} (h0 : execWinMapWrite port slot value s = .next u) : s.Kept u := by
  unfold execWinMapWrite at h0
  refine guardUnit_kept ?_ h0
  clear h0
  try dsimp only
  repeat' first
    | with_reducible exact State.Kept.refl s
    | with_reducible assumption
    | with_reducible apply State.mapWindow_kept
    | fail_if_no_progress with_reducible refine State.Kept.mk0 ?_ rfl rfl

theorem execWindowRead_kept {s u : State} {port : Nat} {addr : Nat} {len : Nat} {ide : Option Nat} {errs : List SymErr} (h0 : execWindowRead port addr len ide errs s = .next u) : s.Kept u := by
  unfold execWindowRead at h0
  refine guardUnit_kept ?_ h0
  clear h0
  try dsimp only
  repeat' first
    | with_reducible exact State.Kept.refl s
    | with_reducible assumption
    | with_reducible apply State.windowRead_kept
    | fail_if_no_progress with_reducible refine State.Kept.mk0 ?_ rfl rfl

theorem execWindowWrite_kept {s u : State} {port : Nat} {addr : Nat} {data : List Byte} {ide : Option Nat} (h0 : execWindowWrite port addr data ide s = .next u) : s.Kept u := by
  unfold execWindowWrite at h0
  refine guardUnit_kept ?_ h0
  clear h0
  try dsimp only
  repeat' first
    | with_reducible exact State.Kept.refl s
    | with_reducible assumption
    | with_reducible apply State.windowWrite_kept
    | fail_if_no_progress with_reducible refine State.Kept.mk0 ?_ rfl rfl

theorem State.cqHead_kept {s0 : State} (s : State) (h : Nat) (q : Nat) (head : Nat) (cmds : List QCmd) (h0 : s0.Kept s) :
    s0.Kept (State.cqHead s h q head cmds) := by
  unfold State.cqHead
  try dsimp only
  repeat' first
    | with_reducible assumption
    | with_reducible apply State.setQueue_kept
    | with_reducible apply State.fetch_kept
    | fail_if_no_progress with_reducible refine State.Kept.mk0 ?_ rfl rfl
    | with_reducible refine State.Kept.ite ?_ ?_
    | split

theorem State.interrupt_kept {s0 : State} (s : State) (h : Nat) (v : Nat) (h0 : s0.Kept s) :
    s0.Kept (State.interrupt s h v) := by
  unfold State.interrupt
  try dsimp only
  repeat' first
    | with_reducible assumption
    | with_reducible apply State.setPort_kept
    | with_reducible apply State.emit_kept
    | fail_if_no_progress with_reducible refine State.Kept.mk0 ?_ rfl rfl
    | with_reducible refine State.Kept.ite ?_ ?_
    | split

theorem State.msixWord_kept {s0 : State} (s : State) (h : Nat) (v : Nat) (w : W64) (h0 : s0.Kept s) :
    s0.Kept (State.msixWord s h v w) := by
  unfold State.msixWord
  try dsimp only
  repeat' first
    | with_reducible assumption
    | with_reducible apply State.setPort_kept
    | with_reducible apply State.emit_kept
    | fail_if_no_progress with_reducible refine State.Kept.mk0 ?_ rfl rfl
    | with_reducible refine State.Kept.ite ?_ ?_
    | split

theorem State.partCtl_kept {s0 : State} (s : State) (h : Nat) (p : Nat) (v : W64) (h0 : s0.Kept s) :
    s0.Kept (State.partCtl s h p v) := by
  unfold State.partCtl
  try dsimp only
  repeat' first
    | with_reducible assumption
    | with_reducible apply State.setPart_kept
    | with_reducible apply State.command_kept
    | with_reducible apply State.start_kept
    | with_reducible apply State.setResult_kept
    | with_reducible apply State.quiesce_kept
    | with_reducible apply State.wakeBeds_kept
    | with_reducible apply State.stop_kept
    | with_reducible apply State.pageWrite_kept
    | fail_if_no_progress with_reducible refine State.Kept.mk0 ?_ rfl rfl
    | with_reducible refine State.Kept.ite ?_ ?_
    | split

theorem State.pageReg_kept {s0 : State} (s : State) (h : Nat) (p : Nat) (o : Nat) (v : W64) (h0 : s0.Kept s) :
    s0.Kept (State.pageReg s h p o v) := by
  unfold State.pageReg
  try dsimp only
  repeat' first
    | with_reducible assumption
    | with_reducible apply State.setPart_kept
    | with_reducible apply State.doorbell_kept
    | with_reducible apply State.pageWrite_kept
    | with_reducible apply State.partCtl_kept
    | fail_if_no_progress with_reducible refine State.Kept.mk0 ?_ rfl rfl
    | split

theorem State.skeinCtl_kept {s0 : State} (s : State) (h : Nat) (v : W64) (h0 : s0.Kept s) :
    s0.Kept (State.skeinCtl s h v) := by
  unfold State.skeinCtl
  try dsimp only
  repeat' first
    | with_reducible assumption
    | with_reducible apply State.skeinStart_kept
    | with_reducible apply State.skeinEnd_kept
    | with_reducible apply State.setLoader_kept
    | with_reducible apply State.skeinAbort_kept
    | fail_if_no_progress with_reducible refine State.Kept.mk0 ?_ rfl rfl
    | with_reducible refine State.Kept.ite ?_ ?_
    | split

theorem State.queueConfig_kept {s0 : State} (s : State) (h : Nat) (q : Nat) (v : W64) (h0 : s0.Kept s) :
    s0.Kept (State.queueConfig s h q v) := by
  unfold State.queueConfig
  try dsimp only
  repeat' first
    | with_reducible assumption
    | with_reducible apply State.setQueue_kept
    | fail_if_no_progress with_reducible refine State.Kept.mk0 ?_ rfl rfl
    | with_reducible refine State.Kept.ite ?_ ?_
    | split

theorem State.sqTail_kept {s0 : State} (s : State) (h : Nat) (q : Nat) (tail : Nat) (cmds : List QCmd) (h0 : s0.Kept s) :
    s0.Kept (State.sqTail s h q tail cmds) := by
  unfold State.sqTail
  try dsimp only
  repeat' first
    | with_reducible assumption
    | with_reducible apply State.setQueue_kept
    | with_reducible apply State.fetch_kept
    | fail_if_no_progress with_reducible refine State.Kept.mk0 ?_ rfl rfl
    | with_reducible refine State.Kept.ite ?_ ?_
    | split

theorem State.portReg_kept {s0 : State} (s : State) (h : Nat) (o : Nat) (v : W64) (cmds : List QCmd) (h0 : s0.Kept s) :
    s0.Kept (State.portReg s h o v cmds) := by
  unfold State.portReg
  try dsimp only
  repeat' first
    | with_reducible assumption
    | with_reducible apply State.setQueue_kept
    | with_reducible apply State.setPort_kept
    | with_reducible apply State.skeinCtl_kept
    | with_reducible apply State.msixWord_kept
    | with_reducible apply State.setLoader_kept
    | with_reducible apply State.queueConfig_kept
    | with_reducible apply State.sqTail_kept
    | with_reducible apply State.create_kept
    | with_reducible apply State.mapWindow_kept
    | with_reducible apply State.commit_kept
    | with_reducible apply State.cqHead_kept
    | fail_if_no_progress with_reducible refine State.Kept.mk0 ?_ rfl rfl
    | with_reducible refine State.Kept.ite ?_ ?_
    | split

theorem State.post_kept {s0 : State} (s : State) (h : Nat) (q : Nat) (h0 : s0.Kept s) :
    s0.Kept (State.post s h q) := by
  unfold State.post
  try dsimp only
  repeat' first
    | with_reducible assumption
    | with_reducible apply State.setQueue_kept
    | with_reducible apply State.interrupt_kept
    | with_reducible apply State.emit_kept
    | fail_if_no_progress with_reducible refine State.Kept.mk0 ?_ rfl rfl
    | with_reducible refine State.Kept.ite ?_ ?_
    | split

theorem State.readPages_kept {s0 : State} (s : State) (n : Nat) (a2 : List (Nat × FlashRead)) (h0 : s0.Kept s) :
    s0.Kept (State.readPages s n a2) := by
  induction a2 generalizing s n h0 with
  | nil =>
    unfold State.readPages
    try dsimp only
    repeat' first
      | with_reducible assumption
      | with_reducible apply ih
      | with_reducible apply State.setVolume_kept
      | with_reducible apply State.flashPages_kept
      | with_reducible apply State.setFlash_kept
      | with_reducible apply State.event_kept
      | fail_if_no_progress with_reducible refine State.Kept.mk0 ?_ rfl rfl
      | with_reducible refine State.Kept.ite ?_ ?_
      | split
  | cons x xs ih =>
    unfold State.readPages
    try dsimp only
    repeat' first
      | with_reducible assumption
      | with_reducible apply ih
      | with_reducible apply State.setVolume_kept
      | with_reducible apply State.flashPages_kept
      | with_reducible apply State.setFlash_kept
      | with_reducible apply State.event_kept
      | fail_if_no_progress with_reducible refine State.Kept.mk0 ?_ rfl rfl
      | with_reducible refine State.Kept.ite ?_ ?_
      | split

theorem State.regWrite_kept {s0 : State} (s : State) (h : Nat) (o : Nat) (size : Nat) (v : W64) (cmds : List QCmd) (h0 : s0.Kept s) :
    s0.Kept (State.regWrite s h o size v cmds) := by
  unfold State.regWrite
  try dsimp only
  repeat' first
    | with_reducible assumption
    | with_reducible apply State.pageReg_kept
    | with_reducible apply State.portReg_kept
    | with_reducible apply State.winWrite_kept
    | with_reducible apply State.countMisaligned_kept
    | fail_if_no_progress with_reducible refine State.Kept.mk0 ?_ rfl rfl
    | with_reducible refine State.Kept.ite ?_ ?_
    | split

theorem State.runCmd_kept {s0 : State} (s : State) (h : Nat) (q : Nat) (cid : Nat) (ops : List Nat) (f : QCmd → State × CmdEnd) (h0 : s0.Kept s) (h1 : ∀ v0, s0.Kept (f v0).1) :
    s0.Kept (State.runCmd s h q cid ops f) := by
  unfold State.runCmd
  try dsimp only
  repeat' first
    | with_reducible assumption
    | with_reducible apply h1
    | with_reducible apply State.setQueue_kept
    | with_reducible apply State.setPort_kept
    | fail_if_no_progress with_reducible refine State.Kept.mk0 ?_ rfl rfl
    | with_reducible refine State.Kept.ite ?_ ?_
    | split

theorem withHost_kept {s0 : State} (s : State) (c : QCmd) (d : HostRead) (f : List Byte → State × CmdEnd) (h0 : s0.Kept s) (h1 : ∀ v0, s0.Kept (f v0).1) :
    s0.Kept (withHost s c d f).1 := by
  unfold withHost
  try dsimp only
  repeat' first
    | with_reducible assumption
    | with_reducible apply h1
    | fail_if_no_progress with_reducible refine State.Kept.mk0 ?_ rfl rfl
    | split

theorem State.skeinFetch_kept {s0 : State} (s : State) (h : Nat) (d : HostRead) (c : QCmd) (h0 : s0.Kept s) :
    s0.Kept (State.skeinFetch s h d c).1 := by
  unfold State.skeinFetch
  try dsimp only
  repeat' first
    | with_reducible assumption
    | with_reducible apply State.receive_kept
    | with_reducible apply withHost_kept
    | fail_if_no_progress with_reducible refine State.Kept.mk0 ?_ rfl rfl
    | with_reducible refine State.Kept.ite ?_ ?_
    | with_reducible refine State.Kept.of_pair ‹_› ?_
    | split
    | (intro; try dsimp only)

theorem State.volBind_kept {s0 : State} (s : State) (h : Nat) (c : QCmd) (h0 : s0.Kept s) :
    s0.Kept (State.volBind s h c).1 := by
  unfold State.volBind
  try dsimp only
  repeat' first
    | with_reducible assumption
    | with_reducible apply State.setVolume_kept
    | fail_if_no_progress with_reducible refine State.Kept.mk0 ?_ rfl rfl
    | with_reducible refine State.Kept.ite ?_ ?_
    | split

theorem State.volCreate_kept {s0 : State} (s : State) (h : Nat) (c : QCmd) (h0 : s0.Kept s) :
    s0.Kept (State.volCreate s h c).1 := by
  unfold State.volCreate
  try dsimp only
  repeat' first
    | with_reducible assumption
    | with_reducible apply State.setVolume_kept
    | with_reducible apply State.loadVolKeys_kept
    | fail_if_no_progress with_reducible refine State.Kept.mk0 ?_ rfl rfl
    | with_reducible refine State.Kept.ite ?_ ?_
    | split

theorem State.volDelete_kept {s0 : State} (s : State) (h : Nat) (c : QCmd) (h0 : s0.Kept s) :
    s0.Kept (State.volDelete s h c).1 := by
  unfold State.volDelete
  try dsimp only
  repeat' first
    | with_reducible assumption
    | with_reducible apply State.setVolume_kept
    | with_reducible apply State.loadVolKeys_kept
    | fail_if_no_progress with_reducible refine State.Kept.mk0 ?_ rfl rfl
    | with_reducible refine State.Kept.ite ?_ ?_
    | split

theorem State.volRead_kept {s0 : State} (s : State) (h : Nat) (pages : List FlashRead) (c : QCmd) (h0 : s0.Kept s) :
    s0.Kept (State.volRead s h pages c).1 := by
  unfold State.volRead
  try dsimp only
  repeat' first
    | with_reducible assumption
    | with_reducible apply State.readPages_kept
    | with_reducible apply State.emit_kept
    | fail_if_no_progress with_reducible refine State.Kept.mk0 ?_ rfl rfl
    | with_reducible refine State.Kept.ite ?_ ?_
    | split

theorem State.volWrite_kept {s0 : State} (s : State) (h : Nat) (d : HostRead) (ide : Option Nat) (c : QCmd) (h0 : s0.Kept s) :
    s0.Kept (State.volWrite s h d ide c).1 := by
  unfold State.volWrite
  try dsimp only
  repeat' first
    | with_reducible assumption
    | with_reducible apply State.setVolume_kept
    | with_reducible apply withHost_kept
    | fail_if_no_progress with_reducible refine State.Kept.mk0 ?_ rfl rfl
    | with_reducible refine State.Kept.ite ?_ ?_
    | with_reducible refine State.Kept.of_pair ‹_› ?_
    | split
    | (intro; try dsimp only)

theorem State.winRead_kept {s0 : State} (s : State) (h : Nat) (ide : Option Nat) (errs : List SymErr) (c : QCmd) (h0 : s0.Kept s) :
    s0.Kept (State.winRead s h ide errs c).1 := by
  unfold State.winRead
  try dsimp only
  repeat' first
    | with_reducible assumption
    | with_reducible apply State.openRead_kept
    | with_reducible apply State.readNow_kept
    | with_reducible apply State.emit_kept
    | fail_if_no_progress with_reducible refine State.Kept.mk0 ?_ rfl rfl
    | with_reducible refine State.Kept.ite ?_ ?_
    | with_reducible refine State.Kept.of_pair ‹_› ?_
    | split

theorem execCompletionPost_kept {s u : State} {port : Nat} {q : Nat} (h0 : execCompletionPost port q s = .next u) : s.Kept u := by
  unfold execCompletionPost at h0
  refine guardUnit_kept ?_ h0
  clear h0
  try dsimp only
  repeat' first
    | with_reducible exact State.Kept.refl s
    | with_reducible assumption
    | with_reducible apply State.post_kept
    | fail_if_no_progress with_reducible refine State.Kept.mk0 ?_ rfl rfl

theorem execCompletionTimeout_kept {s u : State} {port : Nat} {q : Nat} {cid : Nat} {ide : Option Nat} (h0 : execCompletionTimeout port q cid ide s = .next u) : s.Kept u := by
  unfold execCompletionTimeout at h0
  refine guardUnit_kept ?_ h0
  clear h0
  try dsimp only
  repeat' first
    | with_reducible exact State.Kept.refl s
    | with_reducible assumption
    | with_reducible apply State.runCmd_kept
    | fail_if_no_progress with_reducible refine State.Kept.mk0 ?_ rfl rfl
    | with_reducible refine State.Kept.ite ?_ ?_
    | split
    | (intro; try dsimp only)

theorem execCqHeadWrite_kept {s u : State} {port : Nat} {q : Nat} {head : Nat} {cmds : List QCmd} (h0 : execCqHeadWrite port q head cmds s = .next u) : s.Kept u := by
  unfold execCqHeadWrite at h0
  refine guardUnit_kept ?_ h0
  clear h0
  try dsimp only
  repeat' first
    | with_reducible exact State.Kept.refl s
    | with_reducible assumption
    | with_reducible apply State.cqHead_kept
    | fail_if_no_progress with_reducible refine State.Kept.mk0 ?_ rfl rfl

theorem execQueueDisable_kept {s u : State} {port : Nat} {q : Nat} (h0 : execQueueDisable port q s = .next u) : s.Kept u := by
  unfold execQueueDisable at h0
  refine guardUnit_kept ?_ h0
  clear h0
  try dsimp only
  repeat' first
    | with_reducible exact State.Kept.refl s
    | with_reducible assumption
    | with_reducible apply State.setQueue_kept
    | fail_if_no_progress with_reducible refine State.Kept.mk0 ?_ rfl rfl
    | with_reducible refine State.Kept.ite ?_ ?_
    | split

theorem execQueueEnable_kept {s u : State} {port : Nat} {q : Nat} {value : W64} (h0 : execQueueEnable port q value s = .next u) : s.Kept u := by
  unfold execQueueEnable at h0
  refine guardUnit_kept ?_ h0
  clear h0
  try dsimp only
  repeat' first
    | with_reducible exact State.Kept.refl s
    | with_reducible assumption
    | with_reducible apply State.queueConfig_kept
    | fail_if_no_progress with_reducible refine State.Kept.mk0 ?_ rfl rfl

theorem execRegisterWrite_kept {s u : State} {port : Nat} {offset : Nat} {size : Nat} {value : W64} {cmds : List QCmd} (h0 : execRegisterWrite port offset size value cmds s = .next u) : s.Kept u := by
  unfold execRegisterWrite at h0
  refine guardUnit_kept ?_ h0
  clear h0
  try dsimp only
  repeat' first
    | with_reducible exact State.Kept.refl s
    | with_reducible assumption
    | with_reducible apply State.regWrite_kept
    | fail_if_no_progress with_reducible refine State.Kept.mk0 ?_ rfl rfl

theorem execSkeinFetch_kept {s u : State} {port : Nat} {q : Nat} {cid : Nat} {data : HostRead} (h0 : execSkeinFetch port q cid data s = .next u) : s.Kept u := by
  unfold execSkeinFetch at h0
  refine guardUnit_kept ?_ h0
  clear h0
  try dsimp only
  repeat' first
    | with_reducible exact State.Kept.refl s
    | with_reducible assumption
    | with_reducible apply State.skeinFetch_kept
    | with_reducible apply State.runCmd_kept
    | fail_if_no_progress with_reducible refine State.Kept.mk0 ?_ rfl rfl
    | with_reducible refine State.Kept.of_pair ‹_› ?_
    | (intro; try dsimp only)

theorem execSqTailWrite_kept {s u : State} {port : Nat} {q : Nat} {tail : Nat} {cmds : List QCmd} (h0 : execSqTailWrite port q tail cmds s = .next u) : s.Kept u := by
  unfold execSqTailWrite at h0
  refine guardUnit_kept ?_ h0
  clear h0
  try dsimp only
  repeat' first
    | with_reducible exact State.Kept.refl s
    | with_reducible assumption
    | with_reducible apply State.sqTail_kept
    | fail_if_no_progress with_reducible refine State.Kept.mk0 ?_ rfl rfl

theorem execVolBind_kept {s u : State} {port : Nat} {q : Nat} {cid : Nat} (h0 : execVolBind port q cid s = .next u) : s.Kept u := by
  unfold execVolBind at h0
  refine guardUnit_kept ?_ h0
  clear h0
  try dsimp only
  repeat' first
    | with_reducible exact State.Kept.refl s
    | with_reducible assumption
    | with_reducible apply State.volBind_kept
    | with_reducible apply State.runCmd_kept
    | fail_if_no_progress with_reducible refine State.Kept.mk0 ?_ rfl rfl
    | with_reducible refine State.Kept.of_pair ‹_› ?_
    | (intro; try dsimp only)

theorem execVolCreate_kept {s u : State} {port : Nat} {q : Nat} {cid : Nat} (h0 : execVolCreate port q cid s = .next u) : s.Kept u := by
  unfold execVolCreate at h0
  refine guardUnit_kept ?_ h0
  clear h0
  try dsimp only
  repeat' first
    | with_reducible exact State.Kept.refl s
    | with_reducible assumption
    | with_reducible apply State.runCmd_kept
    | with_reducible apply State.volCreate_kept
    | fail_if_no_progress with_reducible refine State.Kept.mk0 ?_ rfl rfl
    | with_reducible refine State.Kept.of_pair ‹_› ?_
    | (intro; try dsimp only)

theorem execVolDelete_kept {s u : State} {port : Nat} {q : Nat} {cid : Nat} (h0 : execVolDelete port q cid s = .next u) : s.Kept u := by
  unfold execVolDelete at h0
  refine guardUnit_kept ?_ h0
  clear h0
  try dsimp only
  repeat' first
    | with_reducible exact State.Kept.refl s
    | with_reducible assumption
    | with_reducible apply State.volDelete_kept
    | with_reducible apply State.runCmd_kept
    | fail_if_no_progress with_reducible refine State.Kept.mk0 ?_ rfl rfl
    | with_reducible refine State.Kept.of_pair ‹_› ?_
    | (intro; try dsimp only)

theorem execVolInfo_kept {s u : State} {port : Nat} {q : Nat} {cid : Nat} (h0 : execVolInfo port q cid s = .next u) : s.Kept u := by
  unfold execVolInfo at h0
  refine guardUnit_kept ?_ h0
  clear h0
  try dsimp only
  repeat' first
    | with_reducible exact State.Kept.refl s
    | with_reducible assumption
    | with_reducible apply State.runCmd_kept
    | fail_if_no_progress with_reducible refine State.Kept.mk0 ?_ rfl rfl
    | with_reducible refine State.Kept.ite ?_ ?_
    | split
    | (intro; try dsimp only)

theorem execVolRead_kept {s u : State} {port : Nat} {q : Nat} {cid : Nat} {pages : List FlashRead} (h0 : execVolRead port q cid pages s = .next u) : s.Kept u := by
  unfold execVolRead at h0
  refine guardUnit_kept ?_ h0
  clear h0
  try dsimp only
  repeat' first
    | with_reducible exact State.Kept.refl s
    | with_reducible assumption
    | with_reducible apply State.volRead_kept
    | with_reducible apply State.unlessHeld_kept
    | with_reducible apply State.runCmd_kept
    | fail_if_no_progress with_reducible refine State.Kept.mk0 ?_ rfl rfl
    | with_reducible refine State.Kept.of_pair ‹_› ?_
    | (intro; try dsimp only)

theorem execVolWrite_kept {s u : State} {port : Nat} {q : Nat} {cid : Nat} {data : HostRead} {ide : Option Nat} (h0 : execVolWrite port q cid data ide s = .next u) : s.Kept u := by
  unfold execVolWrite at h0
  refine guardUnit_kept ?_ h0
  clear h0
  try dsimp only
  repeat' first
    | with_reducible exact State.Kept.refl s
    | with_reducible assumption
    | with_reducible apply State.volWrite_kept
    | with_reducible apply State.unlessHeld_kept
    | with_reducible apply State.runCmd_kept
    | fail_if_no_progress with_reducible refine State.Kept.mk0 ?_ rfl rfl
    | with_reducible refine State.Kept.of_pair ‹_› ?_
    | (intro; try dsimp only)

theorem execWinRead_kept {s u : State} {port : Nat} {q : Nat} {cid : Nat} {ide : Option Nat} {errs : List SymErr} (h0 : execWinRead port q cid ide errs s = .next u) : s.Kept u := by
  unfold execWinRead at h0
  refine guardUnit_kept ?_ h0
  clear h0
  try dsimp only
  repeat' first
    | with_reducible exact State.Kept.refl s
    | with_reducible assumption
    | with_reducible apply State.winRead_kept
    | with_reducible apply State.runCmd_kept
    | fail_if_no_progress with_reducible refine State.Kept.mk0 ?_ rfl rfl
    | with_reducible refine State.Kept.of_pair ‹_› ?_
    | (intro; try dsimp only)

theorem execWinWrite_kept {s u : State} {port : Nat} {q : Nat} {cid : Nat} {data : HostRead} {ide : Option Nat} (h0 : execWinWrite port q cid data ide s = .next u) : s.Kept u := by
  unfold execWinWrite at h0
  refine guardUnit_kept ?_ h0
  clear h0
  try dsimp only
  repeat' first
    | with_reducible exact State.Kept.refl s
    | with_reducible assumption
    | with_reducible apply State.openWrite_kept
    | with_reducible apply State.runCmd_kept
    | with_reducible apply withHost_kept
    | fail_if_no_progress with_reducible refine State.Kept.mk0 ?_ rfl rfl
    | with_reducible refine State.Kept.ite ?_ ?_
    | with_reducible refine State.Kept.of_pair ‹_› ?_
    | split
    | (intro; try dsimp only)

theorem State.answer_kept {s0 : State} (s : State) (h : Nat) (t : State) (h0 : s0.Kept s) (h1 : s0.Kept t) :
    s0.Kept (State.answer s h t) := by
  unfold State.answer
  try dsimp only
  repeat' first
    | with_reducible assumption
    | fail_if_no_progress with_reducible refine State.Kept.mk0 ?_ rfl rfl
    | with_reducible refine State.Kept.ite ?_ ?_
    | split

theorem State.control_kept {s0 : State} (s : State) (h : Nat) (fromRoot : Bool) (t : State) (h0 : s0.Kept s) (h1 : s0.Kept t) :
    s0.Kept (State.control s h fromRoot t) := by
  unfold State.control
  try dsimp only
  repeat' first
    | with_reducible assumption
    | with_reducible apply State.answer_kept
    | fail_if_no_progress with_reducible refine State.Kept.mk0 ?_ rfl rfl
    | with_reducible refine State.Kept.ite ?_ ?_
    | split

theorem State.setSpdm_kept {s0 : State} (s : State) (h : Nat) (k : Nat) (x : Spdm) (h0 : s0.Kept s) :
    s0.Kept (State.setSpdm s h k x) := by
  unfold State.setSpdm
  try dsimp only
  repeat' first
    | with_reducible assumption
    | with_reducible apply State.setPort_kept
    | fail_if_no_progress with_reducible refine State.Kept.mk0 ?_ rfl rfl

theorem State.endSpdm_kept {s0 : State} (s : State) (h : Nat) (k : Nat) (h0 : s0.Kept s) :
    s0.Kept (State.endSpdm s h k) := by
  unfold State.endSpdm
  try dsimp only
  repeat' first
    | with_reducible assumption
    | with_reducible apply State.setPort_kept
    | with_reducible apply State.setSpdm_kept
    | fail_if_no_progress with_reducible refine State.Kept.mk0 ?_ rfl rfl

theorem State.say_kept {s0 : State} (s : State) (h : Nat) (name : String) (data : List Byte) (h0 : s0.Kept s) :
    s0.Kept (State.say s h name data) := by
  unfold State.say
  try dsimp only
  repeat' first
    | with_reducible assumption
    | with_reducible apply State.emit_kept
    | fail_if_no_progress with_reducible refine State.Kept.mk0 ?_ rfl rfl

theorem State.sayError_kept {s0 : State} (s : State) (h : Nat) (code : Nat) (h0 : s0.Kept s) :
    s0.Kept (State.sayError s h code) := by
  unfold State.sayError
  try dsimp only
  repeat' first
    | with_reducible assumption
    | with_reducible apply State.say_kept
    | fail_if_no_progress with_reducible refine State.Kept.mk0 ?_ rfl rfl

theorem State.exchange_kept {s0 : State} (s : State) (h : Nat) (h0 : s0.Kept s) :
    s0.Kept (State.exchange s h) := by
  unfold State.exchange
  try dsimp only
  repeat' first
    | with_reducible assumption
    | with_reducible apply State.draw_kept
    | with_reducible apply State.setSpdm_kept
    | with_reducible apply State.sayError_kept
    | with_reducible apply State.say_kept
    | fail_if_no_progress with_reducible refine State.Kept.mk0 ?_ rfl rfl
    | with_reducible exact Mgs.drbg_getD_fuses _
    | with_reducible exact Mgs.drbgServe_fuses ‹_›
    | split
    | fail_if_no_progress with_reducible refine State.Kept.mk0 ?_ rfl ?_

theorem State.inStage_kept {s0 : State} (s : State) (h : Nat) (k : Nat) (stage : Nat) (t : State) (h0 : s0.Kept s) (h1 : s0.Kept t) :
    s0.Kept (State.inStage s h k stage t) := by
  unfold State.inStage
  try dsimp only
  repeat' first
    | with_reducible assumption
    | with_reducible apply State.answer_kept
    | with_reducible apply State.sayError_kept
    | fail_if_no_progress with_reducible refine State.Kept.mk0 ?_ rfl rfl
    | with_reducible refine State.Kept.ite ?_ ?_
    | split

theorem State.setStream_kept {s0 : State} (s : State) (h : Nat) (k : Nat) (e : Ide) (h0 : s0.Kept s) :
    s0.Kept (State.setStream s h k e) := by
  unfold State.setStream
  try dsimp only
  repeat' first
    | with_reducible assumption
    | with_reducible apply State.setPort_kept
    | fail_if_no_progress with_reducible refine State.Kept.mk0 ?_ rfl rfl

theorem State.keySetGo_kept {s0 : State} (s : State) (h : Nat) (k : Nat) (stream : Nat) (set : Nat) (h0 : s0.Kept s) :
    s0.Kept (State.keySetGo s h k stream set) := by
  unfold State.keySetGo
  try dsimp only
  repeat' first
    | with_reducible assumption
    | with_reducible apply State.setStream_kept
    | with_reducible apply State.sayError_kept
    | with_reducible apply State.say_kept
    | fail_if_no_progress with_reducible refine State.Kept.mk0 ?_ rfl rfl
    | with_reducible refine State.Kept.ite ?_ ?_
    | split

theorem State.keySetStop_kept {s0 : State} (s : State) (h : Nat) (k : Nat) (stream : Nat) (set : Nat) (h0 : s0.Kept s) :
    s0.Kept (State.keySetStop s h k stream set) := by
  unfold State.keySetStop
  try dsimp only
  repeat' first
    | with_reducible assumption
    | with_reducible apply State.setStream_kept
    | with_reducible apply State.sayError_kept
    | with_reducible apply State.say_kept
    | fail_if_no_progress with_reducible refine State.Kept.mk0 ?_ rfl rfl
    | with_reducible refine State.Kept.ite ?_ ?_
    | split

theorem State.program_kept {s0 : State} (s : State) (h : Nat) (k : Nat) (stream : Nat) (set : Nat) (h0 : s0.Kept s) :
    s0.Kept (State.program s h k stream set) := by
  unfold State.program
  try dsimp only
  repeat' first
    | with_reducible assumption
    | with_reducible apply State.setStream_kept
    | with_reducible apply State.sayError_kept
    | with_reducible apply State.say_kept
    | fail_if_no_progress with_reducible refine State.Kept.mk0 ?_ rfl rfl
    | with_reducible refine State.Kept.ite ?_ ?_
    | with_reducible exact Mgs.drbg_getD_fuses _
    | with_reducible exact Mgs.drbgServe_fuses ‹_›
    | split
    | fail_if_no_progress with_reducible refine State.Kept.mk0 ?_ rfl ?_

theorem State.tell_kept {s0 : State} (s : State) (h : Nat) (name : String) (data : List Byte) (h0 : s0.Kept s) :
    s0.Kept (State.tell s h name data) := by
  unfold State.tell
  try dsimp only
  repeat' first
    | with_reducible assumption
    | with_reducible apply State.emit_kept
    | fail_if_no_progress with_reducible refine State.Kept.mk0 ?_ rfl rfl

theorem execChallenge_kept {s u : State} {port : Nat} {nonce : List Byte} (h0 : execChallenge port nonce s = .next u) : s.Kept u := by
  unfold execChallenge at h0
  refine guardUnit_kept ?_ h0
  clear h0
  try dsimp only
  repeat' first
    | with_reducible exact State.Kept.refl s
    | with_reducible assumption
    | with_reducible apply State.draw_kept
    | with_reducible apply State.answer_kept
    | with_reducible apply State.say_kept
    | fail_if_no_progress with_reducible refine State.Kept.mk0 ?_ rfl rfl

theorem execDoeDiscovery_kept {s u : State} {port : Nat} {index : Nat} (h0 : execDoeDiscovery port index s = .next u) : s.Kept u := by
  unfold execDoeDiscovery at h0
  refine guardUnit_kept ?_ h0
  clear h0
  try dsimp only
  repeat' first
    | with_reducible exact State.Kept.refl s
    | with_reducible assumption
    | with_reducible apply State.answer_kept
    | with_reducible apply State.say_kept
    | fail_if_no_progress with_reducible refine State.Kept.mk0 ?_ rfl rfl
    | with_reducible refine State.Kept.ite ?_ ?_
    | split

theorem execEndSession_kept {s u : State} {port : Nat} {sess : Nat} (h0 : execEndSession port sess s = .next u) : s.Kept u := by
  unfold execEndSession at h0
  refine guardUnit_kept ?_ h0
  clear h0
  try dsimp only
  repeat' first
    | with_reducible exact State.Kept.refl s
    | with_reducible assumption
    | with_reducible apply State.say_kept
    | with_reducible apply State.inStage_kept
    | with_reducible apply State.endSpdm_kept
    | fail_if_no_progress with_reducible refine State.Kept.mk0 ?_ rfl rfl

theorem execFinish_kept {s u : State} {port : Nat} {sess : Nat} {ok : Bool} (h0 : execFinish port sess ok s = .next u) : s.Kept u := by
  unfold execFinish at h0
  refine guardUnit_kept ?_ h0
  clear h0
  try dsimp only
  repeat' first
    | with_reducible exact State.Kept.refl s
    | with_reducible assumption
    | with_reducible apply State.setSpdm_kept
    | with_reducible apply State.sayError_kept
    | with_reducible apply State.say_kept
    | with_reducible apply State.inStage_kept
    | with_reducible apply State.endSpdm_kept
    | fail_if_no_progress with_reducible refine State.Kept.mk0 ?_ rfl rfl
    | with_reducible refine State.Kept.ite ?_ ?_
    | split

theorem execGetCapabilities_kept {s u : State} {port : Nat} (h0 : execGetCapabilities port s = .next u) : s.Kept u := by
  unfold execGetCapabilities at h0
  refine guardUnit_kept ?_ h0
  clear h0
  try dsimp only
  repeat' first
    | with_reducible exact State.Kept.refl s
    | with_reducible assumption
    | with_reducible apply State.answer_kept
    | with_reducible apply State.say_kept
    | fail_if_no_progress with_reducible refine State.Kept.mk0 ?_ rfl rfl

theorem execGetCertificate_kept {s u : State} {port : Nat} {offset : Nat} {len : Nat} (h0 : execGetCertificate port offset len s = .next u) : s.Kept u := by
  unfold execGetCertificate at h0
  refine guardUnit_kept ?_ h0
  clear h0
  try dsimp only
  repeat' first
    | with_reducible exact State.Kept.refl s
    | with_reducible assumption
    | with_reducible apply State.answer_kept
    | with_reducible apply State.sayError_kept
    | with_reducible apply State.say_kept
    | fail_if_no_progress with_reducible refine State.Kept.mk0 ?_ rfl rfl
    | with_reducible refine State.Kept.ite ?_ ?_
    | split

theorem execGetDigests_kept {s u : State} {port : Nat} (h0 : execGetDigests port s = .next u) : s.Kept u := by
  unfold execGetDigests at h0
  refine guardUnit_kept ?_ h0
  clear h0
  try dsimp only
  repeat' first
    | with_reducible exact State.Kept.refl s
    | with_reducible assumption
    | with_reducible apply State.answer_kept
    | with_reducible apply State.say_kept
    | fail_if_no_progress with_reducible refine State.Kept.mk0 ?_ rfl rfl

theorem execGetEndpointId_kept {s u : State} {port : Nat} {fromRoot : Bool} (h0 : execGetEndpointId port fromRoot s = .next u) : s.Kept u := by
  unfold execGetEndpointId at h0
  refine guardUnit_kept ?_ h0
  clear h0
  try dsimp only
  repeat' first
    | with_reducible exact State.Kept.refl s
    | with_reducible assumption
    | with_reducible apply State.control_kept
    | with_reducible apply State.tell_kept
    | fail_if_no_progress with_reducible refine State.Kept.mk0 ?_ rfl rfl

theorem execGetEndpointUuid_kept {s u : State} {port : Nat} {fromRoot : Bool} (h0 : execGetEndpointUuid port fromRoot s = .next u) : s.Kept u := by
  unfold execGetEndpointUuid at h0
  refine guardUnit_kept ?_ h0
  clear h0
  try dsimp only
  repeat' first
    | with_reducible exact State.Kept.refl s
    | with_reducible assumption
    | with_reducible apply State.control_kept
    | with_reducible apply State.tell_kept
    | fail_if_no_progress with_reducible refine State.Kept.mk0 ?_ rfl rfl

theorem execGetMctpVersionSupport_kept {s u : State} {port : Nat} {fromRoot : Bool} (h0 : execGetMctpVersionSupport port fromRoot s = .next u) : s.Kept u := by
  unfold execGetMctpVersionSupport at h0
  refine guardUnit_kept ?_ h0
  clear h0
  try dsimp only
  repeat' first
    | with_reducible exact State.Kept.refl s
    | with_reducible assumption
    | with_reducible apply State.control_kept
    | with_reducible apply State.tell_kept
    | fail_if_no_progress with_reducible refine State.Kept.mk0 ?_ rfl rfl

theorem execGetMeasurements_kept {s u : State} {port : Nat} {index : Nat} {sign : Bool} {nonce : List Byte} (h0 : execGetMeasurements port index sign nonce s = .next u) : s.Kept u := by
  unfold execGetMeasurements at h0
  refine guardUnit_kept ?_ h0
  clear h0
  try dsimp only
  repeat' first
    | with_reducible exact State.Kept.refl s
    | with_reducible assumption
    | with_reducible apply State.answer_kept
    | with_reducible apply State.sayError_kept
    | with_reducible apply State.say_kept
    | fail_if_no_progress with_reducible refine State.Kept.mk0 ?_ rfl rfl
    | with_reducible refine State.Kept.ite ?_ ?_
    | split

theorem execGetMessageTypeSupport_kept {s u : State} {port : Nat} {fromRoot : Bool} (h0 : execGetMessageTypeSupport port fromRoot s = .next u) : s.Kept u := by
  unfold execGetMessageTypeSupport at h0
  refine guardUnit_kept ?_ h0
  clear h0
  try dsimp only
  repeat' first
    | with_reducible exact State.Kept.refl s
    | with_reducible assumption
    | with_reducible apply State.control_kept
    | with_reducible apply State.tell_kept
    | fail_if_no_progress with_reducible refine State.Kept.mk0 ?_ rfl rfl

theorem execGetVendorDefinedMessageSupport_kept {s u : State} {port : Nat} {fromRoot : Bool} (h0 : execGetVendorDefinedMessageSupport port fromRoot s = .next u) : s.Kept u := by
  unfold execGetVendorDefinedMessageSupport at h0
  refine guardUnit_kept ?_ h0
  clear h0
  try dsimp only
  repeat' first
    | with_reducible exact State.Kept.refl s
    | with_reducible assumption
    | with_reducible apply State.control_kept
    | with_reducible apply State.tell_kept
    | fail_if_no_progress with_reducible refine State.Kept.mk0 ?_ rfl rfl

theorem execGetVersion_kept {s u : State} {port : Nat} (h0 : execGetVersion port s = .next u) : s.Kept u := by
  unfold execGetVersion at h0
  refine guardUnit_kept ?_ h0
  clear h0
  try dsimp only
  repeat' first
    | with_reducible exact State.Kept.refl s
    | with_reducible assumption
    | with_reducible apply State.answer_kept
    | with_reducible apply State.say_kept
    | fail_if_no_progress with_reducible refine State.Kept.mk0 ?_ rfl rfl

theorem execHeartbeat_kept {s u : State} {port : Nat} {sess : Nat} (h0 : execHeartbeat port sess s = .next u) : s.Kept u := by
  unfold execHeartbeat at h0
  refine guardUnit_kept ?_ h0
  clear h0
  try dsimp only
  repeat' first
    | with_reducible exact State.Kept.refl s
    | with_reducible assumption
    | with_reducible apply State.say_kept
    | with_reducible apply State.inStage_kept
    | fail_if_no_progress with_reducible refine State.Kept.mk0 ?_ rfl rfl

theorem execHostKey_kept {s u : State} {port : Nat} {sess : Nat} {key : List Byte} {sigOk : Bool} (h0 : execHostKey port sess key sigOk s = .next u) : s.Kept u := by
  unfold execHostKey at h0
  refine guardUnit_kept ?_ h0
  clear h0
  try dsimp only
  repeat' first
    | with_reducible exact State.Kept.refl s
    | with_reducible assumption
    | with_reducible apply State.setSpdm_kept
    | with_reducible apply State.sayError_kept
    | with_reducible apply State.say_kept
    | with_reducible apply State.inStage_kept
    | with_reducible apply State.endSpdm_kept
    | fail_if_no_progress with_reducible refine State.Kept.mk0 ?_ rfl rfl
    | with_reducible refine State.Kept.ite ?_ ?_
    | split

theorem execKSetGo_kept {s u : State} {port : Nat} {sess : Nat} {stream : Nat} {set : Nat} (h0 : execKSetGo port sess stream set s = .next u) : s.Kept u := by
  unfold execKSetGo at h0
  refine guardUnit_kept ?_ h0
  clear h0
  try dsimp only
  repeat' first
    | with_reducible exact State.Kept.refl s
    | with_reducible assumption
    | with_reducible apply State.inStage_kept
    | with_reducible apply State.keySetGo_kept
    | fail_if_no_progress with_reducible refine State.Kept.mk0 ?_ rfl rfl

theorem execKSetStop_kept {s u : State} {port : Nat} {sess : Nat} {stream : Nat} {set : Nat} (h0 : execKSetStop port sess stream set s = .next u) : s.Kept u := by
  unfold execKSetStop at h0
  refine guardUnit_kept ?_ h0
  clear h0
  try dsimp only
  repeat' first
    | with_reducible exact State.Kept.refl s
    | with_reducible assumption
    | with_reducible apply State.keySetStop_kept
    | with_reducible apply State.inStage_kept
    | fail_if_no_progress with_reducible refine State.Kept.mk0 ?_ rfl rfl

theorem execKeyExchange_kept {s u : State} {port : Nat} (h0 : execKeyExchange port s = .next u) : s.Kept u := by
  unfold execKeyExchange at h0
  refine guardUnit_kept ?_ h0
  clear h0
  try dsimp only
  repeat' first
    | with_reducible exact State.Kept.refl s
    | with_reducible assumption
    | with_reducible apply State.answer_kept
    | with_reducible apply State.exchange_kept
    | fail_if_no_progress with_reducible refine State.Kept.mk0 ?_ rfl rfl

theorem execKeyProg_kept {s u : State} {port : Nat} {sess : Nat} {stream : Nat} {set : Nat} (h0 : execKeyProg port sess stream set s = .next u) : s.Kept u := by
  unfold execKeyProg at h0
  refine guardUnit_kept ?_ h0
  clear h0
  try dsimp only
  repeat' first
    | with_reducible exact State.Kept.refl s
    | with_reducible assumption
    | with_reducible apply State.inStage_kept
    | with_reducible apply State.program_kept
    | fail_if_no_progress with_reducible refine State.Kept.mk0 ?_ rfl rfl

theorem execKeyUpdate_kept {s u : State} {port : Nat} {sess : Nat} (h0 : execKeyUpdate port sess s = .next u) : s.Kept u := by
  unfold execKeyUpdate at h0
  refine guardUnit_kept ?_ h0
  clear h0
  try dsimp only
  repeat' first
    | with_reducible exact State.Kept.refl s
    | with_reducible assumption
    | with_reducible apply State.setSpdm_kept
    | with_reducible apply State.say_kept
    | with_reducible apply State.inStage_kept
    | fail_if_no_progress with_reducible refine State.Kept.mk0 ?_ rfl rfl

theorem execNegotiateAlgorithms_kept {s u : State} {port : Nat} (h0 : execNegotiateAlgorithms port s = .next u) : s.Kept u := by
  unfold execNegotiateAlgorithms at h0
  refine guardUnit_kept ?_ h0
  clear h0
  try dsimp only
  repeat' first
    | with_reducible exact State.Kept.refl s
    | with_reducible assumption
    | with_reducible apply State.answer_kept
    | with_reducible apply State.say_kept
    | fail_if_no_progress with_reducible refine State.Kept.mk0 ?_ rfl rfl

theorem execQuery_kept {s u : State} {port : Nat} {sess : Nat} (h0 : execQuery port sess s = .next u) : s.Kept u := by
  unfold execQuery at h0
  refine guardUnit_kept ?_ h0
  clear h0
  try dsimp only
  repeat' first
    | with_reducible exact State.Kept.refl s
    | with_reducible assumption
    | with_reducible apply State.say_kept
    | with_reducible apply State.inStage_kept
    | fail_if_no_progress with_reducible refine State.Kept.mk0 ?_ rfl rfl

theorem execSetEndpointId_kept {s u : State} {port : Nat} {eid : Nat} {fromRoot : Bool} (h0 : execSetEndpointId port eid fromRoot s = .next u) : s.Kept u := by
  unfold execSetEndpointId at h0
  refine guardUnit_kept ?_ h0
  clear h0
  try dsimp only
  repeat' first
    | with_reducible exact State.Kept.refl s
    | with_reducible assumption
    | with_reducible apply State.setPort_kept
    | with_reducible apply State.control_kept
    | with_reducible apply State.tell_kept
    | fail_if_no_progress with_reducible refine State.Kept.mk0 ?_ rfl rfl
    | with_reducible refine State.Kept.ite ?_ ?_
    | split

theorem State.respine_kept {s0 : State} (s : State) (h0 : s0.Kept s) :
    s0.Kept (State.respine s) := by
  unfold State.respine
  try dsimp only
  repeat' first
    | with_reducible assumption
    | with_reducible apply State.setBed_kept
    | fail_if_no_progress with_reducible refine State.Kept.mk0 ?_ rfl rfl
    | with_reducible refine State.Kept.foldl ?_ ?_
    | with_reducible refine State.Kept.foldl_fst ?_ ?_
    | (intro; try dsimp only)

theorem State.forgetSoft_kept {s0 : State} (s : State) (h0 : s0.Kept s) :
    s0.Kept (State.forgetSoft s) := by
  unfold State.forgetSoft
  try dsimp only
  repeat' first
    | with_reducible assumption
    | fail_if_no_progress (with_reducible refine State.Kept.mk ?_ rfl rfl ?_ ?_ ?_ ?_ ?_ ?_ ?_ ?_ ?_ <;>
        first | with_reducible exact id | (with_reducible exact fun k => SMap.wf_put _ _ _ k)
              | (with_reducible exact fun k => SMap.wf_filter _ _ k) | (with_reducible exact fun k => SMap.wf_mapV _ _ k)
              | (with_reducible exact fun _ => SMap.wf_nil _) | skip)

theorem State.setSess_kept {s0 : State} (s : State) (k : Nat) (c : Sess) (h0 : s0.Kept s) :
    s0.Kept (State.setSess s k c) := by
  unfold State.setSess
  try dsimp only
  repeat' first
    | with_reducible assumption
    | fail_if_no_progress with_reducible refine State.Kept.mk0 ?_ rfl rfl

theorem State.reenable_kept {s0 : State} (s : State) (b : Nat) (h0 : s0.Kept s) :
    s0.Kept (State.reenable s b).1 := by
  unfold State.reenable
  try dsimp only
  repeat' first
    | with_reducible assumption
    | with_reducible apply State.respine_kept
    | with_reducible apply State.setBed_kept
    | with_reducible apply State.event_kept
    | fail_if_no_progress (with_reducible refine State.Kept.mk ?_ rfl rfl ?_ ?_ ?_ ?_ ?_ ?_ ?_ ?_ ?_ <;>
        first | with_reducible exact id | (with_reducible exact fun k => SMap.wf_put _ _ _ k)
              | (with_reducible exact fun k => SMap.wf_filter _ _ k) | (with_reducible exact fun k => SMap.wf_mapV _ _ k)
              | (with_reducible exact fun _ => SMap.wf_nil _) | skip)
    | with_reducible refine State.Kept.ite ?_ ?_
    | split

theorem State.burnFuses_kept {s0 : State} (s : State) (h0 : s0.Kept s) :
    s0.Kept (State.burnFuses s).1 := by
  unfold State.burnFuses
  try dsimp only
  repeat' first
    | with_reducible assumption
    | with_reducible apply State.noted_kept
    | fail_if_no_progress with_reducible refine State.Kept.mk0 ?_ rfl rfl
    | with_reducible refine State.Kept.ite ?_ ?_
    | split

theorem State.writeChunk_kept {s0 : State} (s : State) (d : List Byte) (h0 : s0.Kept s) :
    s0.Kept (State.writeChunk s d).1 := by
  unfold State.writeChunk
  try dsimp only
  repeat' first
    | with_reducible assumption
    | fail_if_no_progress with_reducible refine State.Kept.mk0 ?_ rfl rfl
    | with_reducible refine State.Kept.ite ?_ ?_
    | split

theorem State.switchFw_kept {s0 : State} (s : State) (v : Nat) (h0 : s0.Kept s) :
    s0.Kept (State.switchFw s v).1 := by
  unfold State.switchFw
  try dsimp only
  repeat' first
    | with_reducible assumption
    | with_reducible apply mapParts_kept
    | with_reducible apply State.event_kept
    | fail_if_no_progress with_reducible refine State.Kept.mk0 ?_ rfl rfl
    | with_reducible refine State.Kept.ite ?_ ?_
    | split

theorem State.sessEvent_kept {s0 : State} (s : State) (k : Nat) (role : Nat) (gen : Nat) (h0 : s0.Kept s) :
    s0.Kept (State.sessEvent s k role gen) := by
  unfold State.sessEvent
  try dsimp only
  repeat' first
    | with_reducible assumption
    | with_reducible apply State.event_kept
    | fail_if_no_progress with_reducible refine State.Kept.mk0 ?_ rfl rfl

theorem State.closeSess_kept {s0 : State} (s : State) (k : Nat) (h0 : s0.Kept s) :
    s0.Kept (State.closeSess s k) := by
  unfold State.closeSess
  try dsimp only
  repeat' first
    | with_reducible assumption
    | with_reducible apply State.sessEvent_kept
    | with_reducible apply State.setSess_kept
    | fail_if_no_progress with_reducible refine State.Kept.mk0 ?_ rfl rfl
    | with_reducible refine State.Kept.ite ?_ ?_
    | split

theorem State.closeAll_kept {s0 : State} (s : State) (a1 : List Nat) (h0 : s0.Kept s) :
    s0.Kept (State.closeAll s a1) := by
  induction a1 generalizing s h0 with
  | nil =>
    unfold State.closeAll
    try dsimp only
    repeat' first
      | with_reducible assumption
      | with_reducible apply ih
      | with_reducible apply State.closeSess_kept
      | fail_if_no_progress with_reducible refine State.Kept.mk0 ?_ rfl rfl
      | split
  | cons x xs ih =>
    unfold State.closeAll
    try dsimp only
    repeat' first
      | with_reducible assumption
      | with_reducible apply ih
      | with_reducible apply State.closeSess_kept
      | fail_if_no_progress with_reducible refine State.Kept.mk0 ?_ rfl rfl
      | split

theorem State.dropRole_kept {s0 : State} (s : State) (changed : Bool) (role : Nat) (h0 : s0.Kept s) :
    s0.Kept (State.dropRole s changed role) := by
  unfold State.dropRole
  try dsimp only
  repeat' first
    | with_reducible assumption
    | with_reducible apply State.closeAll_kept
    | fail_if_no_progress with_reducible refine State.Kept.mk0 ?_ rfl rfl
    | with_reducible refine State.Kept.ite ?_ ?_
    | split

theorem State.setOperAuth_kept {s0 : State} (s : State) (d : List Byte) (h0 : s0.Kept s) :
    s0.Kept (State.setOperAuth s d) := by
  unfold State.setOperAuth
  try dsimp only
  repeat' first
    | with_reducible assumption
    | with_reducible apply State.dropRole_kept
    | fail_if_no_progress with_reducible refine State.Kept.mk0 ?_ rfl rfl

theorem State.setMaintAuth_kept {s0 : State} (s : State) (k : Nat) (d : List Byte) (h0 : s0.Kept s) :
    s0.Kept (State.setMaintAuth s k d) := by
  unfold State.setMaintAuth
  try dsimp only
  repeat' first
    | with_reducible assumption
    | with_reducible apply State.dropRole_kept
    | with_reducible apply State.closeSess_kept
    | fail_if_no_progress with_reducible refine State.Kept.mk0 ?_ rfl rfl
    | with_reducible refine State.Kept.ite ?_ ?_
    | split

theorem State.takeToken_kept {s0 : State} (s : State) (ticks : Nat) (h0 : s0.Kept s) :
    s0.Kept (State.takeToken s ticks).1 := by
  unfold State.takeToken
  try dsimp only
  repeat' first
    | with_reducible assumption
    | with_reducible apply State.event_kept
    | fail_if_no_progress with_reducible refine State.Kept.mk0 ?_ rfl rfl
    | with_reducible refine State.Kept.ite ?_ ?_
    | split

theorem State.askFullTest_kept {s0 : State} (s : State) (v : Nat) (h0 : s0.Kept s) :
    s0.Kept (State.askFullTest s v) := by
  unfold State.askFullTest
  try dsimp only
  repeat' first
    | with_reducible assumption
    | with_reducible apply State.startTest_kept
    | with_reducible apply State.setBed_kept
    | fail_if_no_progress with_reducible refine State.Kept.mk0 ?_ rfl rfl
    | with_reducible refine State.Kept.ite ?_ ?_
    | split

theorem State.rekey_kept {s0 : State} (s : State) (k : Nat) (h0 : s0.Kept s) :
    s0.Kept (State.rekey s k) := by
  unfold State.rekey
  try dsimp only
  repeat' first
    | with_reducible assumption
    | with_reducible apply State.closeAll_kept
    | fail_if_no_progress with_reducible refine State.Kept.mk0 ?_ rfl rfl

theorem State.commitSvn_kept {s0 : State} (s : State) (v : Nat) (h0 : s0.Kept s) :
    s0.Kept (State.commitSvn s v).1 := by
  unfold State.commitSvn
  try dsimp only
  repeat' first
    | with_reducible assumption
    | fail_if_no_progress with_reducible refine State.Kept.mk0 ?_ rfl rfl
    | with_reducible refine State.Kept.ite ?_ ?_
    | split

theorem State.writeEffect_kept {s0 : State} (s : State) (k : Nat) (i : Nat) (sub : Nat) (d : List Byte) (h0 : s0.Kept s) :
    s0.Kept (State.writeEffect s k i sub d).1 := by
  unfold State.writeEffect
  try dsimp only
  repeat' first
    | with_reducible assumption
    | with_reducible apply State.setPort_kept
    | with_reducible apply State.reenable_kept
    | with_reducible apply State.burnFuses_kept
    | with_reducible apply State.writeChunk_kept
    | with_reducible apply State.switchFw_kept
    | with_reducible apply State.setOperAuth_kept
    | with_reducible apply State.setMaintAuth_kept
    | with_reducible apply State.setBed_kept
    | with_reducible apply State.takeToken_kept
    | with_reducible apply State.askFullTest_kept
    | with_reducible apply State.setSess_kept
    | with_reducible apply State.rekey_kept
    | with_reducible apply State.commitSvn_kept
    | fail_if_no_progress with_reducible refine State.Kept.mk0 ?_ rfl rfl
    | with_reducible refine State.Kept.ite ?_ ?_
    | with_reducible refine State.Kept.of_pair ‹_› ?_
    | split

theorem State.setSeg_kept {s0 : State} (s : State) (n : Nat) (g : Seg) (h0 : s0.Kept s) :
    s0.Kept (State.setSeg s n g) := by
  unfold State.setSeg
  try dsimp only
  repeat' first
    | with_reducible assumption
    | fail_if_no_progress with_reducible refine State.Kept.mk0 ?_ rfl rfl
    | with_reducible refine State.Kept.ite ?_ ?_
    | split

theorem State.putField_kept {s0 : State} (s : State) (f : Nat × Nat × List Byte) (h0 : s0.Kept s) :
    s0.Kept (State.putField s f) := by
  unfold State.putField
  try dsimp only
  repeat' first
    | with_reducible assumption
    | with_reducible apply State.setSeg_kept
    | fail_if_no_progress with_reducible refine State.Kept.mk0 ?_ rfl rfl
    | with_reducible refine State.Kept.ite ?_ ?_
    | split

theorem State.putFields_kept {s0 : State} (s : State) (a1 : List (Nat × Nat × List Byte)) (h0 : s0.Kept s) :
    s0.Kept (State.putFields s a1) := by
  induction a1 generalizing s h0 with
  | nil =>
    unfold State.putFields
    try dsimp only
    repeat' first
      | with_reducible assumption
      | with_reducible apply ih
      | with_reducible apply State.putField_kept
      | fail_if_no_progress with_reducible refine State.Kept.mk0 ?_ rfl rfl
      | split
  | cons x xs ih =>
    unfold State.putFields
    try dsimp only
    repeat' first
      | with_reducible assumption
      | with_reducible apply ih
      | with_reducible apply State.putField_kept
      | fail_if_no_progress with_reducible refine State.Kept.mk0 ?_ rfl rfl
      | split

theorem State.applyRecord_kept {s0 : State} (s : State) (k : Nat) (i : Nat) (h0 : s0.Kept s) :
    s0.Kept (State.applyRecord s k i).1 := by
  unfold State.applyRecord
  try dsimp only
  repeat' first
    | with_reducible assumption
    | with_reducible apply State.putFields_kept
    | with_reducible apply State.setSess_kept
    | fail_if_no_progress with_reducible refine State.Kept.mk0 ?_ rfl rfl
    | with_reducible refine State.Kept.ite ?_ ?_
    | split

theorem State.writeObject_kept {s0 : State} (s : State) (k : Nat) (i : Nat) (sub : Nat) (d : List Byte) (h0 : s0.Kept s) :
    s0.Kept (State.writeObject s k i sub d).1 := by
  unfold State.writeObject
  try dsimp only
  repeat' first
    | with_reducible assumption
    | with_reducible apply State.writeEffect_kept
    | with_reducible apply State.applyRecord_kept
    | fail_if_no_progress with_reducible refine State.Kept.mk0 ?_ rfl rfl
    | with_reducible refine State.Kept.ite ?_ ?_
    | with_reducible refine State.Kept.of_pair ‹_› ?_
    | split

theorem State.debugRequest_kept {s0 : State} (s : State) (t : DebugTarget) (h0 : s0.Kept s) :
    s0.Kept (State.debugRequest s t) := by
  unfold State.debugRequest
  try dsimp only
  repeat' first
    | with_reducible assumption
    | with_reducible apply State.emit_kept
    | with_reducible apply State.event_kept
    | fail_if_no_progress with_reducible refine State.Kept.mk0 ?_ rfl rfl
    | with_reducible refine State.Kept.ite ?_ ?_
    | split

theorem State.addPart_kept {s0 : State} (s : State) (k : Nat) (x : Xfer) (data : List Byte) (h0 : s0.Kept s) :
    s0.Kept (State.addPart s k x data).1 := by
  unfold State.addPart
  try dsimp only
  repeat' first
    | with_reducible assumption
    | with_reducible apply State.setSess_kept
    | with_reducible apply State.writeObject_kept
    | fail_if_no_progress with_reducible refine State.Kept.mk0 ?_ rfl rfl
    | with_reducible refine State.Kept.ite ?_ ?_
    | with_reducible refine State.Kept.of_pair ‹_› ?_
    | split

theorem State.queueFrame_kept {s0 : State} (s : State) (n : Nat) (x : TxFrame) (h0 : s0.Kept s) :
    s0.Kept (State.queueFrame s n x) := by
  unfold State.queueFrame
  try dsimp only
  repeat' first
    | with_reducible assumption
    | with_reducible apply State.setSeg_kept
    | fail_if_no_progress with_reducible refine State.Kept.mk0 ?_ rfl rfl

theorem State.reply_kept {s0 : State} (s : State) (f : Frame) (key : List Byte) (r : DResp) (due : List (Nat × Nat × List Byte)) (h0 : s0.Kept s) :
    s0.Kept (State.reply s f key r due) := by
  unfold State.reply
  try dsimp only
  repeat' first
    | with_reducible assumption
    | with_reducible apply State.queueFrame_kept
    | fail_if_no_progress with_reducible refine State.Kept.mk0 ?_ rfl rfl

theorem State.answerFrame_kept {s0 : State} (f : Frame) (key : List Byte) (r : Served) (h0 : s0.Kept r.1) :
    s0.Kept (State.answerFrame f key r) := by
  unfold State.answerFrame
  try dsimp only
  repeat' first
    | with_reducible assumption
    | with_reducible apply State.reply_kept
    | with_reducible apply State.closeSess_kept
    | with_reducible apply State.setSess_kept
    | fail_if_no_progress with_reducible refine State.Kept.mk0 ?_ rfl rfl
    | with_reducible refine State.Kept.ite ?_ ?_
    | split

theorem State.authAct_kept {s0 : State} (s : State) (k : Nat) (cert : List Byte) (key : List Byte) (signer : List Byte) (sig : List Byte) (h0 : s0.Kept s) :
    s0.Kept (State.authAct s k cert key signer sig).1 := by
  unfold State.authAct
  try dsimp only
  repeat' first
    | with_reducible assumption
    | with_reducible apply State.sessEvent_kept
    | with_reducible apply State.closeSess_kept
    | with_reducible apply State.setSess_kept
    | fail_if_no_progress with_reducible refine State.Kept.mk0 ?_ rfl rfl
    | with_reducible refine State.Kept.ite ?_ ?_
    | split

theorem State.holdFields_kept {s0 : State} (s : State) (f : TxFrame) (h0 : s0.Kept s) :
    s0.Kept (State.holdFields s f) := by
  unfold State.holdFields
  try dsimp only
  repeat' first
    | with_reducible assumption
    | with_reducible apply State.setSess_kept
    | fail_if_no_progress with_reducible refine State.Kept.mk0 ?_ rfl rfl
    | with_reducible refine State.Kept.ite ?_ ?_
    | split

theorem State.collide_kept {s0 : State} (s : State) (n : Nat) (h0 : s0.Kept s) :
    s0.Kept (State.collide s n) := by
  unfold State.collide
  try dsimp only
  repeat' first
    | with_reducible assumption
    | with_reducible apply State.setSeg_kept
    | with_reducible apply State.holdFields_kept
    | fail_if_no_progress with_reducible refine State.Kept.mk0 ?_ rfl rfl
    | with_reducible refine State.Kept.ite ?_ ?_
    | split

theorem State.sendOne_kept {s0 : State} (s : State) (n : Nat) (h0 : s0.Kept s) :
    s0.Kept (State.sendOne s n) := by
  unfold State.sendOne
  try dsimp only
  repeat' first
    | with_reducible assumption
    | with_reducible apply State.setSeg_kept
    | with_reducible apply State.putFields_kept
    | with_reducible apply State.emit_kept
    | fail_if_no_progress with_reducible refine State.Kept.mk0 ?_ rfl rfl
    | split

theorem State.backoffOver_kept {s0 : State} (s : State) (n : Nat) (collides : Bool) (h0 : s0.Kept s) :
    s0.Kept (State.backoffOver s n collides) := by
  unfold State.backoffOver
  try dsimp only
  repeat' first
    | with_reducible assumption
    | with_reducible apply State.collide_kept
    | with_reducible apply State.sendOne_kept
    | fail_if_no_progress with_reducible refine State.Kept.mk0 ?_ rfl rfl
    | with_reducible refine State.Kept.ite ?_ ?_
    | split

theorem State.beacon_kept {s0 : State} (s : State) (n : Nat) (h0 : s0.Kept s) :
    s0.Kept (State.beacon s n) := by
  unfold State.beacon
  try dsimp only
  repeat' first
    | with_reducible assumption
    | with_reducible apply State.setSeg_kept
    | with_reducible apply State.emit_kept
    | fail_if_no_progress with_reducible refine State.Kept.mk0 ?_ rfl rfl
    | with_reducible refine State.Kept.ite ?_ ?_
    | split

theorem State.countMalformed_kept {s0 : State} (s : State) (n : Nat) (h0 : s0.Kept s) :
    s0.Kept (State.countMalformed s n) := by
  unfold State.countMalformed
  try dsimp only
  repeat' first
    | with_reducible assumption
    | with_reducible apply State.setSeg_kept
    | fail_if_no_progress with_reducible refine State.Kept.mk0 ?_ rfl rfl

theorem State.countFcs_kept {s0 : State} (s : State) (n : Nat) (h0 : s0.Kept s) :
    s0.Kept (State.countFcs s n) := by
  unfold State.countFcs
  try dsimp only
  repeat' first
    | with_reducible assumption
    | with_reducible apply State.setSeg_kept
    | fail_if_no_progress with_reducible refine State.Kept.mk0 ?_ rfl rfl

theorem State.frameIn_kept {s0 : State} (s : State) (f : Frame) (kind : Nat) (body : List Byte) (t : State) (h0 : s0.Kept s) (h1 : s0.Kept t) :
    s0.Kept (State.frameIn s f kind body t) := by
  unfold State.frameIn
  try dsimp only
  repeat' first
    | with_reducible assumption
    | with_reducible apply State.countMalformed_kept
    | with_reducible apply State.countFcs_kept
    | fail_if_no_progress with_reducible refine State.Kept.mk0 ?_ rfl rfl
    | with_reducible refine State.Kept.ite ?_ ?_
    | split

theorem State.certFrame_kept {s0 : State} (s : State) (f : Frame) (offset : Nat) (h0 : s0.Kept s) :
    s0.Kept (State.certFrame s f offset) := by
  unfold State.certFrame
  try dsimp only
  repeat' first
    | with_reducible assumption
    | with_reducible apply State.reply_kept
    | with_reducible apply State.frameIn_kept
    | fail_if_no_progress with_reducible refine State.Kept.mk0 ?_ rfl rfl

theorem State.collision_kept {s0 : State} (s : State) (n : Nat) (h0 : s0.Kept s) :
    s0.Kept (State.collision s n) := by
  unfold State.collision
  try dsimp only
  repeat' first
    | with_reducible assumption
    | with_reducible apply State.collide_kept
    | with_reducible apply State.setSeg_kept
    | fail_if_no_progress with_reducible refine State.Kept.mk0 ?_ rfl rfl
    | split

theorem State.countGmac_kept {s0 : State} (s : State) (h0 : s0.Kept s) :
    s0.Kept (State.countGmac s) := by
  unfold State.countGmac
  try dsimp only
  repeat' first
    | with_reducible assumption
    | fail_if_no_progress with_reducible refine State.Kept.mk0 ?_ rfl rfl

theorem State.countReplay_kept {s0 : State} (s : State) (h0 : s0.Kept s) :
    s0.Kept (State.countReplay s) := by
  unfold State.countReplay
  try dsimp only
  repeat' first
    | with_reducible assumption
    | fail_if_no_progress with_reducible refine State.Kept.mk0 ?_ rfl rfl

theorem State.countStranger_kept {s0 : State} (s : State) (h0 : s0.Kept s) :
    s0.Kept (State.countStranger s) := by
  unfold State.countStranger
  try dsimp only
  repeat' first
    | with_reducible assumption
    | fail_if_no_progress with_reducible refine State.Kept.mk0 ?_ rfl rfl

theorem State.expReadAct_kept {s0 : State} (s : State) (k : Nat) (i : Nat) (sub : Nat) (h0 : s0.Kept s) :
    s0.Kept (State.expReadAct s k i sub).1 := by
  unfold State.expReadAct
  try dsimp only
  repeat' first
    | with_reducible assumption
    | with_reducible apply State.setSess_kept
    | fail_if_no_progress with_reducible refine State.Kept.mk0 ?_ rfl rfl
    | with_reducible refine State.Kept.ite ?_ ?_
    | split

theorem State.expWriteAct_kept {s0 : State} (s : State) (k : Nat) (i : Nat) (sub : Nat) (size : Nat) (data : List Byte) (h0 : s0.Kept s) :
    s0.Kept (State.expWriteAct s k i sub size data).1 := by
  unfold State.expWriteAct
  try dsimp only
  repeat' first
    | with_reducible assumption
    | with_reducible apply State.writeObject_kept
    | fail_if_no_progress with_reducible refine State.Kept.mk0 ?_ rfl rfl
    | with_reducible refine State.Kept.ite ?_ ?_
    | with_reducible refine State.Kept.of_pair ‹_› ?_
    | split

theorem State.mctpRequest_kept {s0 : State} (s : State) (h : Nat) (u : Pdu) (i : Nat) (sub : Nat) (offset : Nat) (count : Nat) (h0 : s0.Kept s) :
    s0.Kept (State.mctpRequest s h u i sub offset count) := by
  unfold State.mctpRequest
  try dsimp only
  repeat' first
    | with_reducible assumption
    | with_reducible apply State.setPort_kept
    | with_reducible apply State.emit_kept
    | fail_if_no_progress with_reducible refine State.Kept.mk0 ?_ rfl rfl
    | with_reducible refine State.Kept.ite ?_ ?_
    | split

theorem State.openFrame_kept {s0 : State} (s : State) (f : Frame) (role : Nat) (nonceR : List Byte) (qR : List Byte) (h0 : s0.Kept s) :
    s0.Kept (State.openFrame s f role nonceR qR) := by
  unfold State.openFrame
  try dsimp only
  repeat' first
    | with_reducible assumption
    | with_reducible apply State.draw_kept
    | with_reducible apply State.reply_kept
    | with_reducible apply State.sessEvent_kept
    | with_reducible apply State.frameIn_kept
    | with_reducible apply State.setSeg_kept
    | with_reducible apply State.countMalformed_kept
    | with_reducible apply State.setSess_kept
    | fail_if_no_progress with_reducible refine State.Kept.mk0 ?_ rfl rfl
    | with_reducible refine State.Kept.ite ?_ ?_
    | with_reducible exact Mgs.drbg_getD_fuses _
    | with_reducible exact Mgs.drbgServe_fuses ‹_›
    | split
    | fail_if_no_progress with_reducible refine State.Kept.mk0 ?_ rfl ?_

theorem State.request_kept {s0 : State} (s : State) (f : Frame) (kind : Nat) (body : List Byte) (act : State → Served) (h0 : s0.Kept s) (h1 : ∀ v0, s0.Kept v0 → s0.Kept (act v0).1) :
    s0.Kept (State.request s f kind body act) := by
  unfold State.request
  try dsimp only
  repeat' first
    | with_reducible assumption
    | with_reducible apply h1
    | with_reducible apply State.reply_kept
    | with_reducible apply State.answerFrame_kept
    | with_reducible apply State.frameIn_kept
    | with_reducible apply State.unlessHeld_kept
    | with_reducible apply State.countStranger_kept
    | with_reducible apply State.countGmac_kept
    | with_reducible apply State.setSess_kept
    | with_reducible apply State.countReplay_kept
    | fail_if_no_progress with_reducible refine State.Kept.mk0 ?_ rfl rfl
    | with_reducible refine State.Kept.ite ?_ ?_
    | split

theorem State.segReadAct_kept {s0 : State} (s : State) (k : Nat) (i : Nat) (sub : Nat) (offset : Nat) (count : Nat) (h0 : s0.Kept s) :
    s0.Kept (State.segReadAct s k i sub offset count).1 := by
  unfold State.segReadAct
  try dsimp only
  repeat' first
    | with_reducible assumption
    | with_reducible apply State.setSess_kept
    | fail_if_no_progress with_reducible refine State.Kept.mk0 ?_ rfl rfl
    | with_reducible refine State.Kept.ite ?_ ?_
    | split

theorem State.segWriteAct_kept {s0 : State} (s : State) (k : Nat) (i : Nat) (sub : Nat) (total : Nat) (offset : Nat) (data : List Byte) (h0 : s0.Kept s) :
    s0.Kept (State.segWriteAct s k i sub total offset data).1 := by
  unfold State.segWriteAct
  try dsimp only
  repeat' first
    | with_reducible assumption
    | with_reducible apply State.addPart_kept
    | with_reducible apply State.setSess_kept
    | fail_if_no_progress with_reducible refine State.Kept.mk0 ?_ rfl rfl
    | with_reducible refine State.Kept.ite ?_ ?_
    | with_reducible refine State.Kept.of_pair ‹_› ?_
    | split

theorem State.sendMany_kept {s0 : State} (s : State) (n : Nat) (a2 : Nat) (h0 : s0.Kept s) :
    s0.Kept (State.sendMany s n a2) := by
  induction a2 generalizing s n h0 with
  | zero =>
    unfold State.sendMany
    try dsimp only
    repeat' first
      | with_reducible assumption
      | with_reducible apply ih
      | with_reducible apply State.sendOne_kept
      | fail_if_no_progress with_reducible refine State.Kept.mk0 ?_ rfl rfl
      | split
  | succ n ih =>
    unfold State.sendMany
    try dsimp only
    repeat' first
      | with_reducible assumption
      | with_reducible apply ih
      | with_reducible apply State.sendOne_kept
      | fail_if_no_progress with_reducible refine State.Kept.mk0 ?_ rfl rfl
      | split

theorem State.sessionWrite_kept {s0 : State} (s : State) (k : Nat) (i : Nat) (sub : Nat) (d : List Byte) (h0 : s0.Kept s) :
    s0.Kept (State.sessionWrite s k i sub d) := by
  unfold State.sessionWrite
  try dsimp only
  repeat' first
    | with_reducible assumption
    | with_reducible apply State.queueFrame_kept
    | with_reducible apply State.writeObject_kept
    | fail_if_no_progress with_reducible refine State.Kept.mk0 ?_ rfl rfl
    | with_reducible refine State.Kept.ite ?_ ?_
    | with_reducible refine State.Kept.of_pair ‹_› ?_
    | split

theorem State.transmit_kept {s0 : State} (s : State) (n : Nat) (h0 : s0.Kept s) :
    s0.Kept (State.transmit s n) := by
  unfold State.transmit
  try dsimp only
  repeat' first
    | with_reducible assumption
    | with_reducible apply State.sendOne_kept
    | with_reducible apply State.sendMany_kept
    | fail_if_no_progress with_reducible refine State.Kept.mk0 ?_ rfl rfl
    | with_reducible refine State.Kept.ite ?_ ?_
    | split

theorem execApply_kept {s u : State} {session : Nat} {index : Nat} (h0 : execApply session index s = .next u) : s.Kept u := by
  unfold execApply at h0
  refine guardUnit_kept ?_ h0
  clear h0
  try dsimp only
  repeat' first
    | with_reducible exact State.Kept.refl s
    | with_reducible assumption
    | with_reducible apply State.sessionWrite_kept
    | fail_if_no_progress with_reducible refine State.Kept.mk0 ?_ rfl rfl

theorem execAuth_kept {s u : State} {f : Frame} {cert : List Byte} {key : List Byte} {signer : List Byte} {sig : List Byte} (h0 : execAuth f cert key signer sig s = .next u) : s.Kept u := by
  unfold execAuth at h0
  refine guardUnit_kept ?_ h0
  clear h0
  try dsimp only
  repeat' first
    | with_reducible exact State.Kept.refl s
    | with_reducible assumption
    | with_reducible apply State.authAct_kept
    | with_reducible apply State.request_kept
    | fail_if_no_progress with_reducible refine State.Kept.mk0 ?_ rfl rfl
    | with_reducible refine State.Kept.of_pair ‹_› ?_
    | (intro; try dsimp only)

theorem execBedReenable_kept {s u : State} {session : Nat} {bed : Nat} {value : Nat} (h0 : execBedReenable session bed value s = .next u) : s.Kept u := by
  unfold execBedReenable at h0
  refine guardUnit_kept ?_ h0
  clear h0
  try dsimp only
  repeat' first
    | with_reducible exact State.Kept.refl s
    | with_reducible assumption
    | with_reducible apply State.sessionWrite_kept
    | fail_if_no_progress with_reducible refine State.Kept.mk0 ?_ rfl rfl

theorem execBorderRestart_kept {s u : State} {session : Nat} {value : Nat} (h0 : execBorderRestart session value s = .next u) : s.Kept u := by
  unfold execBorderRestart at h0
  refine guardUnit_kept ?_ h0
  clear h0
  try dsimp only
  repeat' first
    | with_reducible exact State.Kept.refl s
    | with_reducible assumption
    | with_reducible apply State.sessionWrite_kept
    | fail_if_no_progress with_reducible refine State.Kept.mk0 ?_ rfl rfl

theorem execCert_kept {s u : State} {f : Frame} {offset : Nat} (h0 : execCert f offset s = .next u) : s.Kept u := by
  unfold execCert at h0
  refine guardUnit_kept ?_ h0
  clear h0
  try dsimp only
  repeat' first
    | with_reducible exact State.Kept.refl s
    | with_reducible assumption
    | with_reducible apply State.certFrame_kept
    | fail_if_no_progress with_reducible refine State.Kept.mk0 ?_ rfl rfl

theorem execClose_kept {s u : State} {f : Frame} (h0 : execClose f s = .next u) : s.Kept u := by
  unfold execClose at h0
  refine guardUnit_kept ?_ h0
  clear h0
  try dsimp only
  repeat' first
    | with_reducible exact State.Kept.refl s
    | with_reducible assumption
    | with_reducible apply State.closeSess_kept
    | with_reducible apply State.request_kept
    | fail_if_no_progress with_reducible refine State.Kept.mk0 ?_ rfl rfl
    | (intro; try dsimp only)

theorem execCoordinatorBeacon_kept {s u : State} {seg : Nat} (h0 : execCoordinatorBeacon seg s = .next u) : s.Kept u := by
  unfold execCoordinatorBeacon at h0
  refine guardUnit_kept ?_ h0
  clear h0
  try dsimp only
  repeat' first
    | with_reducible exact State.Kept.refl s
    | with_reducible assumption
    | with_reducible apply State.beacon_kept
    | fail_if_no_progress with_reducible refine State.Kept.mk0 ?_ rfl rfl

theorem execCsmaBackoffExpiry_kept {s u : State} {seg : Nat} {collides : Bool} (h0 : execCsmaBackoffExpiry seg collides s = .next u) : s.Kept u := by
  unfold execCsmaBackoffExpiry at h0
  refine guardUnit_kept ?_ h0
  clear h0
  try dsimp only
  repeat' first
    | with_reducible exact State.Kept.refl s
    | with_reducible assumption
    | with_reducible apply State.backoffOver_kept
    | fail_if_no_progress with_reducible refine State.Kept.mk0 ?_ rfl rfl
    | with_reducible refine State.Kept.ite ?_ ?_
    | split

theorem execDebugToken_kept {s u : State} {session : Nat} {valid : Bool} {validTicks : Nat} {reach : List DebugTarget} (h0 : execDebugToken session valid validTicks reach s = .next u) : s.Kept u := by
  unfold execDebugToken at h0
  refine guardUnit_kept ?_ h0
  clear h0
  try dsimp only
  repeat' first
    | with_reducible exact State.Kept.refl s
    | with_reducible assumption
    | with_reducible apply State.takeToken_kept
    | with_reducible apply State.debugRequest_kept
    | fail_if_no_progress with_reducible refine State.Kept.mk0 ?_ rfl rfl
    | with_reducible refine State.Kept.ite ?_ ?_
    | with_reducible refine State.Kept.foldl ?_ ?_
    | with_reducible refine State.Kept.foldl_fst ?_ ?_
    | with_reducible refine State.Kept.of_pair ‹_› ?_
    | split
    | (intro; try dsimp only)

theorem execDebugTokenExpiry_kept {s u : State}  (h0 : execDebugTokenExpiry s = .next u) : s.Kept u := by
  unfold execDebugTokenExpiry at h0
  refine guardUnit_kept ?_ h0
  clear h0
  try dsimp only
  repeat' first
    | with_reducible exact State.Kept.refl s
    | with_reducible assumption
    | fail_if_no_progress with_reducible refine State.Kept.mk0 ?_ rfl rfl

theorem execEvtRecords_kept {s u : State} {session : Nat} (h0 : execEvtRecords session s = .next u) : s.Kept u := by
  unfold execEvtRecords at h0
  refine guardUnit_kept ?_ h0
  clear h0
  try dsimp only
  repeat' first
    | with_reducible exact State.Kept.refl s
    | with_reducible assumption
    | with_reducible apply State.segReadAct_kept
    | fail_if_no_progress with_reducible refine State.Kept.mk0 ?_ rfl rfl
    | with_reducible refine State.Kept.ite ?_ ?_
    | with_reducible refine State.Kept.of_pair ‹_› ?_
    | split

theorem execExpRead_kept {s u : State} {f : Frame} {index : Nat} {sub : Nat} (h0 : execExpRead f index sub s = .next u) : s.Kept u := by
  unfold execExpRead at h0
  refine guardUnit_kept ?_ h0
  clear h0
  try dsimp only
  repeat' first
    | with_reducible exact State.Kept.refl s
    | with_reducible assumption
    | with_reducible apply State.expReadAct_kept
    | with_reducible apply State.request_kept
    | fail_if_no_progress with_reducible refine State.Kept.mk0 ?_ rfl rfl
    | with_reducible refine State.Kept.of_pair ‹_› ?_
    | (intro; try dsimp only)

theorem execExpWrite_kept {s u : State} {f : Frame} {index : Nat} {sub : Nat} {size : Nat} {data : List Byte} (h0 : execExpWrite f index sub size data s = .next u) : s.Kept u := by
  unfold execExpWrite at h0
  refine guardUnit_kept ?_ h0
  clear h0
  try dsimp only
  repeat' first
    | with_reducible exact State.Kept.refl s
    | with_reducible assumption
    | with_reducible apply State.expWriteAct_kept
    | with_reducible apply State.request_kept
    | fail_if_no_progress with_reducible refine State.Kept.mk0 ?_ rfl rfl
    | with_reducible refine State.Kept.of_pair ‹_› ?_
    | (intro; try dsimp only)

theorem execFullTest_kept {s u : State} {session : Nat} {value : Nat} (h0 : execFullTest session value s = .next u) : s.Kept u := by
  unfold execFullTest at h0
  refine guardUnit_kept ?_ h0
  clear h0
  try dsimp only
  repeat' first
    | with_reducible exact State.Kept.refl s
    | with_reducible assumption
    | with_reducible apply State.sessionWrite_kept
    | fail_if_no_progress with_reducible refine State.Kept.mk0 ?_ rfl rfl

theorem execFuseBurn_kept {s u : State} {session : Nat} {value : Nat} (h0 : execFuseBurn session value s = .next u) : s.Kept u := by
  unfold execFuseBurn at h0
  refine guardUnit_kept ?_ h0
  clear h0
  try dsimp only
  repeat' first
    | with_reducible exact State.Kept.refl s
    | with_reducible assumption
    | with_reducible apply State.sessionWrite_kept
    | fail_if_no_progress with_reducible refine State.Kept.mk0 ?_ rfl rfl

theorem execFwChunk_kept {s u : State} {session : Nat} {data : List Byte} (h0 : execFwChunk session data s = .next u) : s.Kept u := by
  unfold execFwChunk at h0
  refine guardUnit_kept ?_ h0
  clear h0
  try dsimp only
  repeat' first
    | with_reducible exact State.Kept.refl s
    | with_reducible assumption
    | with_reducible apply State.sessionWrite_kept
    | fail_if_no_progress with_reducible refine State.Kept.mk0 ?_ rfl rfl

theorem execFwSwitch_kept {s u : State} {session : Nat} {value : Nat} (h0 : execFwSwitch session value s = .next u) : s.Kept u := by
  unfold execFwSwitch at h0
  refine guardUnit_kept ?_ h0
  clear h0
  try dsimp only
  repeat' first
    | with_reducible exact State.Kept.refl s
    | with_reducible assumption
    | with_reducible apply State.sessionWrite_kept
    | fail_if_no_progress with_reducible refine State.Kept.mk0 ?_ rfl rfl

theorem execFwVerify_kept {s u : State} {session : Nat} {value : Nat} (h0 : execFwVerify session value s = .next u) : s.Kept u := by
  unfold execFwVerify at h0
  refine guardUnit_kept ?_ h0
  clear h0
  try dsimp only
  repeat' first
    | with_reducible exact State.Kept.refl s
    | with_reducible assumption
    | with_reducible apply State.sessionWrite_kept
    | fail_if_no_progress with_reducible refine State.Kept.mk0 ?_ rfl rfl

theorem execMaintAuth_kept {s u : State} {session : Nat} {digest : List Byte} (h0 : execMaintAuth session digest s = .next u) : s.Kept u := by
  unfold execMaintAuth at h0
  refine guardUnit_kept ?_ h0
  clear h0
  try dsimp only
  repeat' first
    | with_reducible exact State.Kept.refl s
    | with_reducible assumption
    | with_reducible apply State.sessionWrite_kept
    | fail_if_no_progress with_reducible refine State.Kept.mk0 ?_ rfl rfl

theorem execMctpGelokanRequest_kept {s u : State} {port : Nat} {pdu : Pdu} {index : Nat} {sub : Nat} {offset : Nat} {count : Nat} {fromRoot : Bool} (h0 : execMctpGelokanRequest port pdu index sub offset count fromRoot s = .next u) : s.Kept u := by
  unfold execMctpGelokanRequest at h0
  refine guardUnit_kept ?_ h0
  clear h0
  try dsimp only
  repeat' first
    | with_reducible exact State.Kept.refl s
    | with_reducible assumption
    | with_reducible apply State.control_kept
    | with_reducible apply State.unlessHeld_kept
    | with_reducible apply State.mctpRequest_kept
    | fail_if_no_progress with_reducible refine State.Kept.mk0 ?_ rfl rfl

theorem execObjectWrite_kept {s u : State} {session : Nat} {index : Nat} {sub : Nat} {data : List Byte} (h0 : execObjectWrite session index sub data s = .next u) : s.Kept u := by
  unfold execObjectWrite at h0
  refine guardUnit_kept ?_ h0
  clear h0
  try dsimp only
  repeat' first
    | with_reducible exact State.Kept.refl s
    | with_reducible assumption
    | with_reducible apply State.sessionWrite_kept
    | fail_if_no_progress with_reducible refine State.Kept.mk0 ?_ rfl rfl

theorem execOpenReq_kept {s u : State} {f : Frame} {role : Nat} {nonceR : List Byte} {qR : List Byte} (h0 : execOpenReq f role nonceR qR s = .next u) : s.Kept u := by
  unfold execOpenReq at h0
  refine guardUnit_kept ?_ h0
  clear h0
  try dsimp only
  repeat' first
    | with_reducible exact State.Kept.refl s
    | with_reducible assumption
    | with_reducible apply State.openFrame_kept
    | fail_if_no_progress with_reducible refine State.Kept.mk0 ?_ rfl rfl

theorem execPhysicalCollision_kept {s u : State} {seg : Nat} (h0 : execPhysicalCollision seg s = .next u) : s.Kept u := by
  unfold execPhysicalCollision at h0
  refine guardUnit_kept ?_ h0
  clear h0
  try dsimp only
  repeat' first
    | with_reducible exact State.Kept.refl s
    | with_reducible assumption
    | with_reducible apply State.collision_kept
    | fail_if_no_progress with_reducible refine State.Kept.mk0 ?_ rfl rfl
    | with_reducible refine State.Kept.ite ?_ ?_
    | split

theorem execPlcaBeacon_kept {s u : State} {seg : Nat} (h0 : execPlcaBeacon seg s = .next u) : s.Kept u := by
  unfold execPlcaBeacon at h0
  refine guardUnit_kept ?_ h0
  clear h0
  try dsimp only
  repeat' first
    | with_reducible exact State.Kept.refl s
    | with_reducible assumption
    | with_reducible apply State.setSeg_kept
    | fail_if_no_progress with_reducible refine State.Kept.mk0 ?_ rfl rfl
    | with_reducible refine State.Kept.ite ?_ ?_
    | split

theorem execPlcaLossExpiry_kept {s u : State} {seg : Nat} (h0 : execPlcaLossExpiry seg s = .next u) : s.Kept u := by
  unfold execPlcaLossExpiry at h0
  refine guardUnit_kept ?_ h0
  clear h0
  try dsimp only
  repeat' first
    | with_reducible exact State.Kept.refl s
    | with_reducible assumption
    | with_reducible apply State.setSeg_kept
    | fail_if_no_progress with_reducible refine State.Kept.mk0 ?_ rfl rfl
    | with_reducible refine State.Kept.ite ?_ ?_
    | split

theorem execRekey_kept {s u : State} {session : Nat} {value : Nat} (h0 : execRekey session value s = .next u) : s.Kept u := by
  unfold execRekey at h0
  refine guardUnit_kept ?_ h0
  clear h0
  try dsimp only
  repeat' first
    | with_reducible exact State.Kept.refl s
    | with_reducible assumption
    | with_reducible apply State.sessionWrite_kept
    | fail_if_no_progress with_reducible refine State.Kept.mk0 ?_ rfl rfl

theorem execSegRead_kept {s u : State} {f : Frame} {index : Nat} {sub : Nat} {offset : Nat} {count : Nat} (h0 : execSegRead f index sub offset count s = .next u) : s.Kept u := by
  unfold execSegRead at h0
  refine guardUnit_kept ?_ h0
  clear h0
  try dsimp only
  repeat' first
    | with_reducible exact State.Kept.refl s
    | with_reducible assumption
    | with_reducible apply State.segReadAct_kept
    | with_reducible apply State.request_kept
    | fail_if_no_progress with_reducible refine State.Kept.mk0 ?_ rfl rfl
    | with_reducible refine State.Kept.of_pair ‹_› ?_
    | (intro; try dsimp only)

theorem execSegTransferTimeout_kept {s u : State} {session : Nat} (h0 : execSegTransferTimeout session s = .next u) : s.Kept u := by
  unfold execSegTransferTimeout at h0
  refine guardUnit_kept ?_ h0
  clear h0
  try dsimp only
  repeat' first
    | with_reducible exact State.Kept.refl s
    | with_reducible assumption
    | with_reducible apply State.setSess_kept
    | fail_if_no_progress with_reducible refine State.Kept.mk0 ?_ rfl rfl

theorem execSegWrite_kept {s u : State} {f : Frame} {index : Nat} {sub : Nat} {total : Nat} {offset : Nat} {data : List Byte} (h0 : execSegWrite f index sub total offset data s = .next u) : s.Kept u := by
  unfold execSegWrite at h0
  refine guardUnit_kept ?_ h0
  clear h0
  try dsimp only
  repeat' first
    | with_reducible exact State.Kept.refl s
    | with_reducible assumption
    | with_reducible apply State.request_kept
    | with_reducible apply State.segWriteAct_kept
    | fail_if_no_progress with_reducible refine State.Kept.mk0 ?_ rfl rfl
    | with_reducible refine State.Kept.of_pair ‹_› ?_
    | (intro; try dsimp only)

theorem execSessionAuthTimeout_kept {s u : State} {session : Nat} (h0 : execSessionAuthTimeout session s = .next u) : s.Kept u := by
  unfold execSessionAuthTimeout at h0
  refine guardUnit_kept ?_ h0
  clear h0
  try dsimp only
  repeat' first
    | with_reducible exact State.Kept.refl s
    | with_reducible assumption
    | with_reducible apply State.closeSess_kept
    | fail_if_no_progress with_reducible refine State.Kept.mk0 ?_ rfl rfl
    | with_reducible refine State.Kept.ite ?_ ?_
    | split

theorem execSessionIdleExpiry_kept {s u : State} {session : Nat} (h0 : execSessionIdleExpiry session s = .next u) : s.Kept u := by
  unfold execSessionIdleExpiry at h0
  refine guardUnit_kept ?_ h0
  clear h0
  try dsimp only
  repeat' first
    | with_reducible exact State.Kept.refl s
    | with_reducible assumption
    | with_reducible apply State.closeSess_kept
    | fail_if_no_progress with_reducible refine State.Kept.mk0 ?_ rfl rfl
    | with_reducible refine State.Kept.ite ?_ ?_
    | split

theorem execSvnCommit_kept {s u : State} {session : Nat} {value : Nat} (h0 : execSvnCommit session value s = .next u) : s.Kept u := by
  unfold execSvnCommit at h0
  refine guardUnit_kept ?_ h0
  clear h0
  try dsimp only
  repeat' first
    | with_reducible exact State.Kept.refl s
    | with_reducible assumption
    | with_reducible apply State.sessionWrite_kept
    | fail_if_no_progress with_reducible refine State.Kept.mk0 ?_ rfl rfl

theorem execTransmitOpportunity_kept {s u : State} {seg : Nat} (h0 : execTransmitOpportunity seg s = .next u) : s.Kept u := by
  unfold execTransmitOpportunity at h0
  refine guardUnit_kept ?_ h0
  clear h0
  try dsimp only
  repeat' first
    | with_reducible exact State.Kept.refl s
    | with_reducible assumption
    | with_reducible apply State.transmit_kept
    | fail_if_no_progress with_reducible refine State.Kept.mk0 ?_ rfl rfl

end Sys2Proof.Machine
end

