-- ==== Sys2Proof/Laws/KeepsModule.lean ====
section
/-!
SUPPORT. `_kept` lemmas (Laws/Keeps) of the operations on beds, power-up and the module.
-/
namespace Sys2Proof.Machine

theorem State.newSpares_kept {s0 : State} (s : State) (b : Nat) (h0 : s0.Kept s) :
    s0.Kept (State.newSpares s b) := by
  unfold State.newSpares
  try dsimp only
  repeat' first
    | with_reducible assumption
    | fail_if_no_progress with_reducible refine State.Kept.mk0 ?_ rfl rfl

theorem State.loseHs_kept {s0 : State} (s : State) (h : Nat) (h0 : s0.Kept s) :
    s0.Kept (State.loseHs s h) := by
  unfold State.loseHs
  try dsimp only
  repeat' first
    | with_reducible assumption
    | with_reducible apply State.portReset_kept
    | with_reducible apply State.routeLostAt_kept
    | with_reducible apply State.setPort_kept
    | with_reducible apply State.event_kept
    | fail_if_no_progress with_reducible refine State.Kept.mk0 ?_ rfl rfl
    | with_reducible refine State.Kept.ite ?_ ?_
    | split

theorem State.loseStation_kept {s0 : State} (s : State) (st : Nat) (h0 : s0.Kept s) :
    s0.Kept (State.loseStation s st) := by
  unfold State.loseStation
  try dsimp only
  repeat' first
    | with_reducible assumption
    | with_reducible apply State.loseMs_kept
    | with_reducible apply State.loseFs_kept
    | with_reducible apply State.loseHs_kept
    | fail_if_no_progress with_reducible refine State.Kept.mk0 ?_ rfl rfl
    | with_reducible refine State.Kept.ite ?_ ?_
    | split

theorem State.loseStationsAt_kept {s0 : State} (s : State) (a1 : List Nat) (h0 : s0.Kept s) :
    s0.Kept (State.loseStationsAt s a1) := by
  induction a1 generalizing s h0 with
  | nil =>
    unfold State.loseStationsAt
    try dsimp only
    repeat' first
      | with_reducible assumption
      | with_reducible apply ih
      | with_reducible apply State.loseStation_kept
      | fail_if_no_progress with_reducible refine State.Kept.mk0 ?_ rfl rfl
      | split
  | cons x xs ih =>
    unfold State.loseStationsAt
    try dsimp only
    repeat' first
      | with_reducible assumption
      | with_reducible apply ih
      | with_reducible apply State.loseStation_kept
      | fail_if_no_progress with_reducible refine State.Kept.mk0 ?_ rfl rfl
      | split

theorem State.routesLost_kept {s0 : State} (s : State) (a1 : List (Nat × Nat)) (h0 : s0.Kept s) :
    s0.Kept (State.routesLost s a1) := by
  induction a1 generalizing s h0 with
  | nil =>
    unfold State.routesLost
    try dsimp only
    repeat' first
      | with_reducible assumption
      | with_reducible apply ih
      | with_reducible apply State.routeLostAt_kept
      | fail_if_no_progress with_reducible refine State.Kept.mk0 ?_ rfl rfl
      | split
  | cons x xs ih =>
    unfold State.routesLost
    try dsimp only
    repeat' first
      | with_reducible assumption
      | with_reducible apply ih
      | with_reducible apply State.routeLostAt_kept
      | fail_if_no_progress with_reducible refine State.Kept.mk0 ?_ rfl rfl
      | split

theorem State.dropRouter_kept {s0 : State} (s : State) (site : Nat) (failed : Bool) (h0 : s0.Kept s) :
    s0.Kept (State.dropRouter s site failed) := by
  unfold State.dropRouter
  try dsimp only
  repeat' first
    | with_reducible assumption
    | with_reducible apply State.setRouter_kept
    | fail_if_no_progress with_reducible refine State.Kept.mk0 ?_ rfl rfl
    | with_reducible refine State.Kept.ite ?_ ?_
    | split

theorem State.dropRouters_kept {s0 : State} (s : State) (failed : Bool) (a2 : List Nat) (h0 : s0.Kept s) :
    s0.Kept (State.dropRouters s failed a2) := by
  induction a2 generalizing s failed h0 with
  | nil =>
    unfold State.dropRouters
    try dsimp only
    repeat' first
      | with_reducible assumption
      | with_reducible apply ih
      | with_reducible apply State.dropRouter_kept
      | fail_if_no_progress with_reducible refine State.Kept.mk0 ?_ rfl rfl
      | split
  | cons x xs ih =>
    unfold State.dropRouters
    try dsimp only
    repeat' first
      | with_reducible assumption
      | with_reducible apply ih
      | with_reducible apply State.dropRouter_kept
      | fail_if_no_progress with_reducible refine State.Kept.mk0 ?_ rfl rfl
      | split

theorem State.loseRouters_kept {s0 : State} (s : State) (failed : Bool) (spared : List Nat) (sites : List Nat) (h0 : s0.Kept s) :
    s0.Kept (State.loseRouters s failed spared sites) := by
  unfold State.loseRouters
  try dsimp only
  repeat' first
    | with_reducible assumption
    | with_reducible apply State.loseStationsAt_kept
    | with_reducible apply State.routesLost_kept
    | with_reducible apply State.dropRouters_kept
    | fail_if_no_progress with_reducible refine State.Kept.mk0 ?_ rfl rfl

theorem State.ranTest_kept {s0 : State} (s : State) (result : Nat) (t : Nat) (h0 : s0.Kept s) :
    s0.Kept (State.ranTest s result t) := by
  unfold State.ranTest
  try dsimp only
  repeat' first
    | with_reducible assumption
    | fail_if_no_progress with_reducible refine State.Kept.mk0 ?_ rfl rfl

theorem State.endFaulted_kept {s0 : State} (s : State) (b : Nat) (waking : Bool) (a3 : List Nat) (h0 : s0.Kept s) :
    s0.Kept (State.endFaulted s b waking a3) := by
  induction a3 generalizing s b waking h0 with
  | nil =>
    unfold State.endFaulted
    try dsimp only
    repeat' first
      | with_reducible assumption
      | with_reducible apply ih
      | with_reducible apply State.bedLost_kept
      | with_reducible apply State.lockFails_kept
      | fail_if_no_progress with_reducible refine State.Kept.mk0 ?_ rfl rfl
      | with_reducible refine State.Kept.ite ?_ ?_
      | split
  | cons x xs ih =>
    unfold State.endFaulted
    try dsimp only
    repeat' first
      | with_reducible assumption
      | with_reducible apply ih
      | with_reducible apply State.bedLost_kept
      | with_reducible apply State.lockFails_kept
      | fail_if_no_progress with_reducible refine State.Kept.mk0 ?_ rfl rfl
      | with_reducible refine State.Kept.ite ?_ ?_
      | split

theorem State.coreOff_kept {s0 : State} (s : State) (b : Nat) (code : Nat) (h0 : s0.Kept s) :
    s0.Kept (State.coreOff s b code) := by
  unfold State.coreOff
  try dsimp only
  repeat' first
    | with_reducible assumption
    | with_reducible apply State.setBed_kept
    | with_reducible apply State.endFaulted_kept
    | with_reducible apply State.event_kept
    | fail_if_no_progress with_reducible refine State.Kept.mk0 ?_ rfl rfl

theorem State.crossCheck_kept {s0 : State} (s : State) (b : Nat) (rs : List Int) (h0 : s0.Kept s) :
    s0.Kept (State.crossCheck s b rs) := by
  unfold State.crossCheck
  try dsimp only
  repeat' first
    | with_reducible assumption
    | with_reducible apply State.setBed_kept
    | with_reducible apply State.coreOff_kept
    | with_reducible apply State.event_kept
    | fail_if_no_progress with_reducible refine State.Kept.mk0 ?_ rfl rfl
    | with_reducible refine State.Kept.ite ?_ ?_
    | with_reducible refine State.Kept.foldl ?_ ?_
    | with_reducible refine State.Kept.foldl_fst ?_ ?_
    | split
    | (intro; try dsimp only)

theorem State.ranWith_kept {s0 : State} (s : State) (res : SMap Nat) (a2 : List Nat) (h0 : s0.Kept s) :
    s0.Kept (State.ranWith s res a2) := by
  induction a2 generalizing s res h0 with
  | nil =>
    unfold State.ranWith
    try dsimp only
    repeat' first
      | with_reducible assumption
      | with_reducible apply ih
      | with_reducible apply State.ranTest_kept
      | fail_if_no_progress with_reducible refine State.Kept.mk0 ?_ rfl rfl
      | split
  | cons x xs ih =>
    unfold State.ranWith
    try dsimp only
    repeat' first
      | with_reducible assumption
      | with_reducible apply ih
      | with_reducible apply State.ranTest_kept
      | fail_if_no_progress with_reducible refine State.Kept.mk0 ?_ rfl rfl
      | split

theorem State.placeAgain_kept {s0 : State} (s : State) (p : Nat) (n : Nat) (b : Nat) (h0 : s0.Kept s) :
    s0.Kept (State.placeAgain s p n b) := by
  unfold State.placeAgain
  try dsimp only
  repeat' first
    | with_reducible assumption
    | with_reducible apply State.setArr_kept
    | with_reducible apply State.bedLost_kept
    | with_reducible apply State.setPart_kept
    | with_reducible apply giveArrays_kept
    | with_reducible apply State.wakeBeds_kept
    | with_reducible apply State.wakeBed_kept
    | with_reducible apply State.moveSite_kept
    | fail_if_no_progress with_reducible refine State.Kept.mk0 ?_ rfl rfl
    | split

theorem State.siteFails_kept {s0 : State} (s : State) (b : Nat) (site : Nat) (h0 : s0.Kept s) :
    s0.Kept (State.siteFails s b site) := by
  unfold State.siteFails
  try dsimp only
  repeat' first
    | with_reducible assumption
    | with_reducible apply State.bedLost_kept
    | with_reducible apply State.placeAgain_kept
    | with_reducible apply State.leaveSite_kept
    | with_reducible apply State.lockFails_kept
    | fail_if_no_progress with_reducible refine State.Kept.mk0 ?_ rfl rfl
    | with_reducible refine State.Kept.ite ?_ ?_
    | split

theorem State.coreFound_kept {s0 : State} (s : State) (n : Nat) (y : Nat) (f : Nat) (h0 : s0.Kept s) :
    s0.Kept (State.coreFound s n y f) := by
  unfold State.coreFound
  try dsimp only
  repeat' first
    | with_reducible assumption
    | with_reducible apply State.siteFails_kept
    | with_reducible apply State.mapOutAt_kept
    | with_reducible apply State.event_kept
    | fail_if_no_progress with_reducible refine State.Kept.mk0 ?_ rfl rfl
    | with_reducible refine State.Kept.ite ?_ ?_
    | split

theorem State.rowFound_kept {s0 : State} (s : State) (k : Nat) (u : Nat) (h0 : s0.Kept s) :
    s0.Kept (State.rowFound s k u) := by
  unfold State.rowFound
  try dsimp only
  repeat' first
    | with_reducible assumption
    | with_reducible apply State.softRow_kept
    | with_reducible apply State.coreFound_kept
    | with_reducible apply State.event_kept
    | fail_if_no_progress with_reducible refine State.Kept.mk0 ?_ rfl rfl
    | with_reducible refine State.Kept.ite ?_ ?_
    | split

theorem State.bedFinding_kept {s0 : State} (s : State) (f : Finding) (h0 : s0.Kept s) :
    s0.Kept (State.bedFinding s f) := by
  unfold State.bedFinding
  try dsimp only
  repeat' first
    | with_reducible assumption
    | with_reducible apply State.siteFails_kept
    | with_reducible apply State.rowFound_kept
    | with_reducible apply State.coreFound_kept
    | fail_if_no_progress with_reducible refine State.Kept.mk0 ?_ rfl rfl
    | split

theorem State.bedFindings_kept {s0 : State} (s : State) (site : Nat → Nat) (res : SMap Nat) (a3 : List Finding) (h0 : s0.Kept s) :
    s0.Kept (State.bedFindings s site res a3).1 := by
  induction a3 generalizing s site res h0 with
  | nil =>
    unfold State.bedFindings
    try dsimp only
    repeat' first
      | with_reducible assumption
      | with_reducible apply ih
      | with_reducible apply State.bedFinding_kept
      | fail_if_no_progress with_reducible refine State.Kept.mk0 ?_ rfl rfl
      | with_reducible refine State.Kept.ite ?_ ?_
      | split
  | cons x xs ih =>
    unfold State.bedFindings
    try dsimp only
    repeat' first
      | with_reducible assumption
      | with_reducible apply ih
      | with_reducible apply State.bedFinding_kept
      | fail_if_no_progress with_reducible refine State.Kept.mk0 ?_ rfl rfl
      | with_reducible refine State.Kept.ite ?_ ?_
      | split

theorem State.wakeEnds_kept {s0 : State} (s : State) (b : Nat) (found : List Finding) (h0 : s0.Kept s) :
    s0.Kept (State.wakeEnds s b found) := by
  unfold State.wakeEnds
  try dsimp only
  repeat' first
    | with_reducible assumption
    | with_reducible apply State.newSpares_kept
    | with_reducible apply State.startTest_kept
    | with_reducible apply State.setBed_kept
    | with_reducible apply State.ranWith_kept
    | with_reducible apply State.bedFindings_kept
    | fail_if_no_progress with_reducible refine State.Kept.mk0 ?_ rfl rfl
    | with_reducible refine State.Kept.ite ?_ ?_
    | with_reducible refine State.Kept.of_pair ‹_› ?_
    | split

theorem State.awaken_kept {s0 : State} (s : State) (b : Nat) (found : List Finding) (readings : List Int) (h0 : s0.Kept s) :
    s0.Kept (State.awaken s b found readings) := by
  unfold State.awaken
  try dsimp only
  repeat' first
    | with_reducible assumption
    | with_reducible apply State.ranTest_kept
    | with_reducible apply State.crossCheck_kept
    | with_reducible apply State.wakeEnds_kept
    | with_reducible apply State.coreOff_kept
    | fail_if_no_progress with_reducible refine State.Kept.mk0 ?_ rfl rfl
    | with_reducible refine State.Kept.ite ?_ ?_
    | split

theorem State.loseTransit_kept {s0 : State} (s : State) (b : Nat) (h0 : s0.Kept s) :
    s0.Kept (State.loseTransit s b) := by
  unfold State.loseTransit
  try dsimp only
  repeat' first
    | with_reducible assumption
    | with_reducible apply State.respine_kept
    | with_reducible apply State.setBed_kept
    | with_reducible apply State.loseRouters_kept
    | with_reducible apply State.endFaulted_kept
    | with_reducible apply State.event_kept
    | fail_if_no_progress with_reducible refine State.Kept.mk0 ?_ rfl rfl
    | with_reducible refine State.Kept.ite ?_ ?_
    | split

theorem State.settleTransit_kept {s0 : State} (s : State) (h0 : s0.Kept s) :
    s0.Kept (State.settleTransit s) := by
  unfold State.settleTransit
  try dsimp only
  repeat' first
    | with_reducible assumption
    | with_reducible apply State.loseTransit_kept
    | fail_if_no_progress with_reducible refine State.Kept.mk0 ?_ rfl rfl
    | with_reducible refine State.Kept.ite ?_ ?_
    | with_reducible refine State.Kept.foldl ?_ ?_
    | with_reducible refine State.Kept.foldl_fst ?_ ?_
    | split
    | (intro; try dsimp only)

theorem State.branchFault_kept {s0 : State} (s : State) (b : Nat) (blown : Bool) (h0 : s0.Kept s) :
    s0.Kept (State.branchFault s b blown) := by
  unfold State.branchFault
  try dsimp only
  repeat' first
    | with_reducible assumption
    | with_reducible apply State.setBed_kept
    | with_reducible apply State.coreOff_kept
    | with_reducible apply State.settleTransit_kept
    | fail_if_no_progress with_reducible refine State.Kept.mk0 ?_ rfl rfl
    | with_reducible refine State.Kept.ite ?_ ?_
    | split

theorem State.converterFail_kept {s0 : State} (s : State) (b : Nat) (h0 : s0.Kept s) :
    s0.Kept (State.converterFail s b) := by
  unfold State.converterFail
  try dsimp only
  repeat' first
    | with_reducible assumption
    | with_reducible apply State.setBed_kept
    | with_reducible apply State.settleTransit_kept
    | with_reducible apply State.event_kept
    | fail_if_no_progress with_reducible refine State.Kept.mk0 ?_ rfl rfl
    | with_reducible refine State.Kept.ite ?_ ?_
    | split

theorem State.cooled_kept {s0 : State} (s : State) (b : Nat) (h0 : s0.Kept s) :
    s0.Kept (State.cooled s b) := by
  unfold State.cooled
  try dsimp only
  repeat' first
    | with_reducible assumption
    | with_reducible apply State.startTest_kept
    | with_reducible apply State.setBed_kept
    | with_reducible apply State.event_kept
    | fail_if_no_progress with_reducible refine State.Kept.mk0 ?_ rfl rfl
    | with_reducible refine State.Kept.ite ?_ ?_
    | split

theorem State.endBed_kept {s0 : State} (s : State) (b : Nat) (heat : Bool) (a3 : List Nat) (h0 : s0.Kept s) :
    s0.Kept (State.endBed s b heat a3) := by
  induction a3 generalizing s b heat h0 with
  | nil =>
    unfold State.endBed
    try dsimp only
    repeat' first
      | with_reducible assumption
      | with_reducible apply ih
      | with_reducible apply State.bedLost_kept
      | fail_if_no_progress with_reducible refine State.Kept.mk0 ?_ rfl rfl
      | split
  | cons x xs ih =>
    unfold State.endBed
    try dsimp only
    repeat' first
      | with_reducible assumption
      | with_reducible apply ih
      | with_reducible apply State.bedLost_kept
      | fail_if_no_progress with_reducible refine State.Kept.mk0 ?_ rfl rfl
      | split

theorem State.crit_kept {s0 : State} (s : State) (b : Nat) (temp : Int) (h0 : s0.Kept s) :
    s0.Kept (State.crit s b temp) := by
  unfold State.crit
  try dsimp only
  repeat' first
    | with_reducible assumption
    | with_reducible apply State.endBed_kept
    | with_reducible apply State.setBed_kept
    | with_reducible apply State.event_kept
    | fail_if_no_progress with_reducible refine State.Kept.mk0 ?_ rfl rfl
    | with_reducible refine State.Kept.ite ?_ ?_
    | split

theorem State.drainPart_kept {s0 : State} (s : State) (b : Nat) (p : Nat) (h0 : s0.Kept s) :
    s0.Kept (State.drainPart s b p) := by
  unfold State.drainPart
  try dsimp only
  repeat' first
    | with_reducible assumption
    | with_reducible apply State.bedLost_kept
    | with_reducible apply State.setPart_kept
    | with_reducible apply State.stopNow_kept
    | with_reducible apply State.quiesce_kept
    | fail_if_no_progress with_reducible refine State.Kept.mk0 ?_ rfl rfl
    | with_reducible refine State.Kept.ite ?_ ?_
    | split

theorem State.drainParts_kept {s0 : State} (s : State) (b : Nat) (a2 : List Nat) (h0 : s0.Kept s) :
    s0.Kept (State.drainParts s b a2) := by
  induction a2 generalizing s b h0 with
  | nil =>
    unfold State.drainParts
    try dsimp only
    repeat' first
      | with_reducible assumption
      | with_reducible apply ih
      | with_reducible apply State.drainPart_kept
      | fail_if_no_progress with_reducible refine State.Kept.mk0 ?_ rfl rfl
      | split
  | cons x xs ih =>
    unfold State.drainParts
    try dsimp only
    repeat' first
      | with_reducible assumption
      | with_reducible apply ih
      | with_reducible apply State.drainPart_kept
      | fail_if_no_progress with_reducible refine State.Kept.mk0 ?_ rfl rfl
      | split

theorem State.drain_kept {s0 : State} (s : State) (b : Nat) (h0 : s0.Kept s) :
    s0.Kept (State.drain s b) := by
  unfold State.drain
  try dsimp only
  repeat' first
    | with_reducible assumption
    | with_reducible apply State.setBed_kept
    | with_reducible apply State.drainParts_kept
    | with_reducible apply State.event_kept
    | fail_if_no_progress with_reducible refine State.Kept.mk0 ?_ rfl rfl
    | with_reducible refine State.Kept.ite ?_ ?_
    | split

theorem State.drained_kept {s0 : State} (s : State) (b : Nat) (h0 : s0.Kept s) :
    s0.Kept (State.drained s b) := by
  unfold State.drained
  try dsimp only
  repeat' first
    | with_reducible assumption
    | with_reducible apply State.setBed_kept
    | with_reducible apply State.event_kept
    | fail_if_no_progress with_reducible refine State.Kept.mk0 ?_ rfl rfl
    | with_reducible refine State.Kept.ite ?_ ?_
    | split

theorem State.fallAsleep_kept {s0 : State} (s : State) (b : Nat) (h0 : s0.Kept s) :
    s0.Kept (State.fallAsleep s b) := by
  unfold State.fallAsleep
  try dsimp only
  repeat' first
    | with_reducible assumption
    | with_reducible apply State.setBed_kept
    | fail_if_no_progress with_reducible refine State.Kept.mk0 ?_ rfl rfl
    | with_reducible refine State.Kept.ite ?_ ?_
    | split

theorem State.freqStep_kept {s0 : State} (s : State) (b : Nat) (h0 : s0.Kept s) :
    s0.Kept (State.freqStep s b) := by
  unfold State.freqStep
  try dsimp only
  repeat' first
    | with_reducible assumption
    | with_reducible apply State.setBed_kept
    | fail_if_no_progress with_reducible refine State.Kept.mk0 ?_ rfl rfl
    | with_reducible refine State.Kept.ite ?_ ?_
    | split

theorem State.lockLoss_kept {s0 : State} (s : State) (b : Nat) (h0 : s0.Kept s) :
    s0.Kept (State.lockLoss s b) := by
  unfold State.lockLoss
  try dsimp only
  repeat' first
    | with_reducible assumption
    | with_reducible apply State.coreOff_kept
    | fail_if_no_progress with_reducible refine State.Kept.mk0 ?_ rfl rfl
    | with_reducible refine State.Kept.ite ?_ ?_
    | split

theorem State.monitorFail_kept {s0 : State} (s : State) (b : Nat) (h0 : s0.Kept s) :
    s0.Kept (State.monitorFail s b) := by
  unfold State.monitorFail
  try dsimp only
  repeat' first
    | with_reducible assumption
    | with_reducible apply State.setBed_kept
    | with_reducible apply State.coreOff_kept
    | fail_if_no_progress with_reducible refine State.Kept.mk0 ?_ rfl rfl
    | with_reducible refine State.Kept.ite ?_ ?_
    | split

theorem State.monitorFails_kept {s0 : State} (s : State) (a1 : List Nat) (h0 : s0.Kept s) :
    s0.Kept (State.monitorFails s a1) := by
  induction a1 generalizing s h0 with
  | nil =>
    unfold State.monitorFails
    try dsimp only
    repeat' first
      | with_reducible assumption
      | with_reducible apply ih
      | with_reducible apply State.monitorFail_kept
      | fail_if_no_progress with_reducible refine State.Kept.mk0 ?_ rfl rfl
      | split
  | cons x xs ih =>
    unfold State.monitorFails
    try dsimp only
    repeat' first
      | with_reducible assumption
      | with_reducible apply ih
      | with_reducible apply State.monitorFail_kept
      | fail_if_no_progress with_reducible refine State.Kept.mk0 ?_ rfl rfl
      | split

theorem State.monitorCheck_kept {s0 : State} (s : State) (failed : List Nat) (h0 : s0.Kept s) :
    s0.Kept (State.monitorCheck s failed) := by
  unfold State.monitorCheck
  try dsimp only
  repeat' first
    | with_reducible assumption
    | with_reducible apply State.ranTest_kept
    | with_reducible apply State.monitorFails_kept
    | fail_if_no_progress with_reducible refine State.Kept.mk0 ?_ rfl rfl
    | with_reducible refine State.Kept.ite ?_ ?_
    | split

theorem State.powerPeriod_kept {s0 : State} (s : State) (now : Nat) (cost : Nat) (coolIn : Int) (coolOut : Int) (flow : Nat) (h0 : s0.Kept s) :
    s0.Kept (State.powerPeriod s now cost coolIn coolOut flow) := by
  unfold State.powerPeriod
  try dsimp only
  repeat' first
    | with_reducible assumption
    | with_reducible apply State.noted_kept
    | fail_if_no_progress with_reducible refine State.Kept.mk0 ?_ rfl rfl
    | with_reducible refine State.Kept.ite ?_ ?_
    | split

theorem State.railFault_kept {s0 : State} (s : State) (b : Nat) (h0 : s0.Kept s) :
    s0.Kept (State.railFault s b) := by
  unfold State.railFault
  try dsimp only
  repeat' first
    | with_reducible assumption
    | with_reducible apply State.coreOff_kept
    | fail_if_no_progress with_reducible refine State.Kept.mk0 ?_ rfl rfl
    | with_reducible refine State.Kept.ite ?_ ?_
    | split

theorem State.ranTests_kept {s0 : State} (s : State) (result : Nat) (a2 : List Nat) (h0 : s0.Kept s) :
    s0.Kept (State.ranTests s result a2) := by
  induction a2 generalizing s result h0 with
  | nil =>
    unfold State.ranTests
    try dsimp only
    repeat' first
      | with_reducible assumption
      | with_reducible apply ih
      | with_reducible apply State.ranTest_kept
      | fail_if_no_progress with_reducible refine State.Kept.mk0 ?_ rfl rfl
      | split
  | cons x xs ih =>
    unfold State.ranTests
    try dsimp only
    repeat' first
      | with_reducible assumption
      | with_reducible apply ih
      | with_reducible apply State.ranTest_kept
      | fail_if_no_progress with_reducible refine State.Kept.mk0 ?_ rfl rfl
      | split

theorem State.sensorCheck_kept {s0 : State} (s : State) (b : Nat) (rs : List Int) (h0 : s0.Kept s) :
    s0.Kept (State.sensorCheck s b rs) := by
  unfold State.sensorCheck
  try dsimp only
  repeat' first
    | with_reducible assumption
    | with_reducible apply State.ranTest_kept
    | with_reducible apply State.crossCheck_kept
    | fail_if_no_progress with_reducible refine State.Kept.mk0 ?_ rfl rfl
    | with_reducible refine State.Kept.ite ?_ ?_
    | split

theorem State.thermal_kept {s0 : State} (s : State) (b : Nat) (rs : List Int) (h0 : s0.Kept s) :
    s0.Kept (State.thermal s b rs) := by
  unfold State.thermal
  try dsimp only
  repeat' first
    | with_reducible assumption
    | with_reducible apply State.setBed_kept
    | fail_if_no_progress with_reducible refine State.Kept.mk0 ?_ rfl rfl
    | with_reducible refine State.Kept.ite ?_ ?_
    | split

theorem execBedAwake_kept {s u : State} {bed : Nat} {found : List Finding} {readings : List Int} (h0 : execBedAwake bed found readings s = .next u) : s.Kept u := by
  unfold execBedAwake at h0
  refine guardUnit_kept ?_ h0
  clear h0
  try dsimp only
  repeat' first
    | with_reducible exact State.Kept.refl s
    | with_reducible assumption
    | with_reducible apply State.unlessHeld_kept
    | with_reducible apply State.awaken_kept
    | fail_if_no_progress with_reducible refine State.Kept.mk0 ?_ rfl rfl

theorem execBedCrit_kept {s u : State} {bed : Nat} {temp : Int} (h0 : execBedCrit bed temp s = .next u) : s.Kept u := by
  unfold execBedCrit at h0
  refine guardUnit_kept ?_ h0
  clear h0
  try dsimp only
  repeat' first
    | with_reducible exact State.Kept.refl s
    | with_reducible assumption
    | with_reducible apply State.crit_kept
    | fail_if_no_progress with_reducible refine State.Kept.mk0 ?_ rfl rfl

theorem execBedDrain_kept {s u : State} {bed : Nat} (h0 : execBedDrain bed s = .next u) : s.Kept u := by
  unfold execBedDrain at h0
  refine guardUnit_kept ?_ h0
  clear h0
  try dsimp only
  repeat' first
    | with_reducible exact State.Kept.refl s
    | with_reducible assumption
    | with_reducible apply State.drain_kept
    | fail_if_no_progress with_reducible refine State.Kept.mk0 ?_ rfl rfl

theorem execBedDrainDone_kept {s u : State} {bed : Nat} (h0 : execBedDrainDone bed s = .next u) : s.Kept u := by
  unfold execBedDrainDone at h0
  refine guardUnit_kept ?_ h0
  clear h0
  try dsimp only
  repeat' first
    | with_reducible exact State.Kept.refl s
    | with_reducible assumption
    | with_reducible apply State.drained_kept
    | fail_if_no_progress with_reducible refine State.Kept.mk0 ?_ rfl rfl

theorem execBedFreqStep_kept {s u : State} {bed : Nat} (h0 : execBedFreqStep bed s = .next u) : s.Kept u := by
  unfold execBedFreqStep at h0
  refine guardUnit_kept ?_ h0
  clear h0
  try dsimp only
  repeat' first
    | with_reducible exact State.Kept.refl s
    | with_reducible assumption
    | with_reducible apply State.freqStep_kept
    | with_reducible apply State.unlessHeld_kept
    | fail_if_no_progress with_reducible refine State.Kept.mk0 ?_ rfl rfl

theorem execBedPllLockLoss_kept {s u : State} {bed : Nat} (h0 : execBedPllLockLoss bed s = .next u) : s.Kept u := by
  unfold execBedPllLockLoss at h0
  refine guardUnit_kept ?_ h0
  clear h0
  try dsimp only
  repeat' first
    | with_reducible exact State.Kept.refl s
    | with_reducible assumption
    | with_reducible apply State.lockLoss_kept
    | fail_if_no_progress with_reducible refine State.Kept.mk0 ?_ rfl rfl

theorem execBedSleep_kept {s u : State} {bed : Nat} (h0 : execBedSleep bed s = .next u) : s.Kept u := by
  unfold execBedSleep at h0
  refine guardUnit_kept ?_ h0
  clear h0
  try dsimp only
  repeat' first
    | with_reducible exact State.Kept.refl s
    | with_reducible assumption
    | with_reducible apply State.unlessHeld_kept
    | with_reducible apply State.fallAsleep_kept
    | fail_if_no_progress with_reducible refine State.Kept.mk0 ?_ rfl rfl

theorem execBedWake_kept {s u : State} {bed : Nat} (h0 : execBedWake bed s = .next u) : s.Kept u := by
  unfold execBedWake at h0
  refine guardUnit_kept ?_ h0
  clear h0
  try dsimp only
  repeat' first
    | with_reducible exact State.Kept.refl s
    | with_reducible assumption
    | with_reducible apply State.wakeBed_kept
    | fail_if_no_progress with_reducible refine State.Kept.mk0 ?_ rfl rfl
    | with_reducible refine State.Kept.ite ?_ ?_
    | split

theorem execBranchFault_kept {s u : State} {bed : Nat} {blown : Bool} (h0 : execBranchFault bed blown s = .next u) : s.Kept u := by
  unfold execBranchFault at h0
  refine guardUnit_kept ?_ h0
  clear h0
  try dsimp only
  repeat' first
    | with_reducible exact State.Kept.refl s
    | with_reducible assumption
    | with_reducible apply State.branchFault_kept
    | fail_if_no_progress with_reducible refine State.Kept.mk0 ?_ rfl rfl

theorem execCoreRailFault_kept {s u : State} {bed : Nat} (h0 : execCoreRailFault bed s = .next u) : s.Kept u := by
  unfold execCoreRailFault at h0
  refine guardUnit_kept ?_ h0
  clear h0
  try dsimp only
  repeat' first
    | with_reducible exact State.Kept.refl s
    | with_reducible assumption
    | with_reducible apply State.railFault_kept
    | fail_if_no_progress with_reducible refine State.Kept.mk0 ?_ rfl rfl

theorem execOffHeatRecover_kept {s u : State} {bed : Nat} (h0 : execOffHeatRecover bed s = .next u) : s.Kept u := by
  unfold execOffHeatRecover at h0
  refine guardUnit_kept ?_ h0
  clear h0
  try dsimp only
  repeat' first
    | with_reducible exact State.Kept.refl s
    | with_reducible assumption
    | with_reducible apply State.cooled_kept
    | fail_if_no_progress with_reducible refine State.Kept.mk0 ?_ rfl rfl

theorem execPowerControlPeriod_kept {s u : State} {powerNow : Nat} {stepCost : Nat} {coolIn : Int} {coolOut : Int} {coolFlow : Nat} (h0 : execPowerControlPeriod powerNow stepCost coolIn coolOut coolFlow s = .next u) : s.Kept u := by
  unfold execPowerControlPeriod at h0
  refine guardUnit_kept ?_ h0
  clear h0
  try dsimp only
  repeat' first
    | with_reducible exact State.Kept.refl s
    | with_reducible assumption
    | with_reducible apply State.powerPeriod_kept
    | fail_if_no_progress with_reducible refine State.Kept.mk0 ?_ rfl rfl

theorem execThermalSensorCheck_kept {s u : State} {bed : Nat} {readings : List Int} (h0 : execThermalSensorCheck bed readings s = .next u) : s.Kept u := by
  unfold execThermalSensorCheck at h0
  refine guardUnit_kept ?_ h0
  clear h0
  try dsimp only
  repeat' first
    | with_reducible exact State.Kept.refl s
    | with_reducible assumption
    | with_reducible apply State.sensorCheck_kept
    | fail_if_no_progress with_reducible refine State.Kept.mk0 ?_ rfl rfl

theorem execThermalStep_kept {s u : State} {bed : Nat} {readings : List Int} (h0 : execThermalStep bed readings s = .next u) : s.Kept u := by
  unfold execThermalStep at h0
  refine guardUnit_kept ?_ h0
  clear h0
  try dsimp only
  repeat' first
    | with_reducible exact State.Kept.refl s
    | with_reducible assumption
    | with_reducible apply State.thermal_kept
    | fail_if_no_progress with_reducible refine State.Kept.mk0 ?_ rfl rfl

theorem execTransitConverterFail_kept {s u : State} {bed : Nat} (h0 : execTransitConverterFail bed s = .next u) : s.Kept u := by
  unfold execTransitConverterFail at h0
  refine guardUnit_kept ?_ h0
  clear h0
  try dsimp only
  repeat' first
    | with_reducible exact State.Kept.refl s
    | with_reducible assumption
    | with_reducible apply State.converterFail_kept
    | fail_if_no_progress with_reducible refine State.Kept.mk0 ?_ rfl rfl

theorem execTransitRailShort_kept {s u : State} {bed : Nat} (h0 : execTransitRailShort bed s = .next u) : s.Kept u := by
  unfold execTransitRailShort at h0
  refine guardUnit_kept ?_ h0
  clear h0
  try dsimp only
  repeat' first
    | with_reducible exact State.Kept.refl s
    | with_reducible assumption
    | with_reducible apply State.loseTransit_kept
    | fail_if_no_progress with_reducible refine State.Kept.mk0 ?_ rfl rfl
    | with_reducible refine State.Kept.ite ?_ ?_
    | split

theorem execVoltageMonitorCheck_kept {s u : State} {failed : List Nat} (h0 : execVoltageMonitorCheck failed s = .next u) : s.Kept u := by
  unfold execVoltageMonitorCheck at h0
  refine guardUnit_kept ?_ h0
  clear h0
  try dsimp only
  repeat' first
    | with_reducible exact State.Kept.refl s
    | with_reducible assumption
    | with_reducible apply State.monitorCheck_kept
    | fail_if_no_progress with_reducible refine State.Kept.mk0 ?_ rfl rfl

theorem State.allSpares_kept {s0 : State} (s : State) (h0 : s0.Kept s) :
    s0.Kept (State.allSpares s) := by
  unfold State.allSpares
  try dsimp only
  repeat' first
    | with_reducible assumption
    | with_reducible apply State.newSpares_kept
    | fail_if_no_progress with_reducible refine State.Kept.mk0 ?_ rfl rfl
    | with_reducible refine State.Kept.ite ?_ ?_
    | with_reducible refine State.Kept.foldl ?_ ?_
    | with_reducible refine State.Kept.foldl_fst ?_ ?_
    | split
    | (intro; try dsimp only)

theorem State.attachFails_kept {s0 : State} (s : State) (site : Nat) (h0 : s0.Kept s) :
    s0.Kept (State.attachFails s site) := by
  unfold State.attachFails
  try dsimp only
  repeat' first
    | with_reducible assumption
    | with_reducible apply State.routeLostAt_kept
    | with_reducible apply State.leaveSite_kept
    | with_reducible apply State.loseRouters_kept
    | fail_if_no_progress with_reducible refine State.Kept.mk0 ?_ rfl rfl
    | with_reducible refine State.Kept.ite ?_ ?_
    | split

theorem State.endConf_kept {s0 : State} (s : State) (a1 : List Nat) (h0 : s0.Kept s) :
    s0.Kept (State.endConf s a1) := by
  induction a1 generalizing s h0 with
  | nil =>
    unfold State.endConf
    try dsimp only
    repeat' first
      | with_reducible assumption
      | with_reducible apply ih
      | with_reducible apply State.bedLost_kept
      | fail_if_no_progress with_reducible refine State.Kept.mk0 ?_ rfl rfl
      | with_reducible refine State.Kept.ite ?_ ?_
      | split
  | cons x xs ih =>
    unfold State.endConf
    try dsimp only
    repeat' first
      | with_reducible assumption
      | with_reducible apply ih
      | with_reducible apply State.bedLost_kept
      | fail_if_no_progress with_reducible refine State.Kept.mk0 ?_ rfl rfl
      | with_reducible refine State.Kept.ite ?_ ?_
      | split

theorem State.bankFails_kept {s0 : State} (s : State) (n : Nat) (h0 : s0.Kept s) :
    s0.Kept (State.bankFails s n) := by
  unfold State.bankFails
  try dsimp only
  repeat' first
    | with_reducible assumption
    | with_reducible apply mapParts_kept
    | with_reducible apply State.endConf_kept
    | with_reducible apply State.event_kept
    | fail_if_no_progress with_reducible refine State.Kept.mk0 ?_ rfl rfl
    | with_reducible refine State.Kept.ite ?_ ?_
    | split

theorem State.loseBlocks_kept {s0 : State} (s : State) (a1 : List (Nat × Ms)) (h0 : s0.Kept s) :
    s0.Kept (State.loseBlocks s a1) := by
  induction a1 generalizing s h0 with
  | nil =>
    unfold State.loseBlocks
    try dsimp only
    repeat' first
      | with_reducible assumption
      | with_reducible apply ih
      | with_reducible apply State.dirtyLost_kept
      | fail_if_no_progress with_reducible refine State.Kept.mk0 ?_ rfl rfl
      | split
  | cons x xs ih =>
    unfold State.loseBlocks
    try dsimp only
    repeat' first
      | with_reducible assumption
      | with_reducible apply ih
      | with_reducible apply State.dirtyLost_kept
      | fail_if_no_progress with_reducible refine State.Kept.mk0 ?_ rfl rfl
      | split

theorem State.coldBorder_kept {s0 : State} (s : State) (h0 : s0.Kept s) :
    s0.Kept (State.coldBorder s) := by
  unfold State.coldBorder
  try dsimp only
  repeat' first
    | with_reducible assumption
    | with_reducible apply State.loseBlocks_kept
    | fail_if_no_progress (with_reducible refine State.Kept.mk ?_ rfl rfl ?_ ?_ ?_ ?_ ?_ ?_ ?_ ?_ ?_ <;>
        first | with_reducible exact id | (with_reducible exact fun k => SMap.wf_put _ _ _ k)
              | (with_reducible exact fun k => SMap.wf_filter _ _ k) | (with_reducible exact fun k => SMap.wf_mapV _ _ k)
              | (with_reducible exact fun _ => SMap.wf_nil _) | skip)

theorem State.blackout_kept {s0 : State} (s : State) (h0 : s0.Kept s) :
    s0.Kept (State.blackout s) := by
  unfold State.blackout
  try dsimp only
  repeat' first
    | with_reducible assumption
    | with_reducible apply State.coldBorder_kept
    | fail_if_no_progress (with_reducible refine State.Kept.mk ?_ rfl rfl ?_ ?_ ?_ ?_ ?_ ?_ ?_ ?_ ?_ <;>
        first | with_reducible exact id | (with_reducible exact fun k => SMap.wf_put _ _ _ k)
              | (with_reducible exact fun k => SMap.wf_filter _ _ k) | (with_reducible exact fun k => SMap.wf_mapV _ _ k)
              | (with_reducible exact fun _ => SMap.wf_nil _) | skip)

theorem State.holdBed_kept {s0 : State} (s : State) (b : Nat) (h0 : s0.Kept s) :
    s0.Kept (State.holdBed s b) := by
  unfold State.holdBed
  try dsimp only
  repeat' first
    | with_reducible assumption
    | with_reducible apply State.setBed_kept
    | with_reducible apply State.event_kept
    | fail_if_no_progress with_reducible refine State.Kept.mk0 ?_ rfl rfl
    | with_reducible refine State.Kept.ite ?_ ?_
    | split

theorem State.laneFound_kept {s0 : State} (s : State) (site : Nat) (dir : Nat) (lane : Nat) (h0 : s0.Kept s) :
    s0.Kept (State.laneFound s site dir lane) := by
  unfold State.laneFound
  try dsimp only
  repeat' first
    | with_reducible assumption
    | with_reducible apply State.spareLane_kept
    | with_reducible apply State.setRouter_kept
    | fail_if_no_progress with_reducible refine State.Kept.mk0 ?_ rfl rfl
    | with_reducible refine State.Kept.ite ?_ ?_
    | split

theorem State.channelFails_kept {s0 : State} (s : State) (n : Nat) (c : Nat) (h0 : s0.Kept s) :
    s0.Kept (State.channelFails s n c) := by
  unfold State.channelFails
  try dsimp only
  repeat' first
    | with_reducible assumption
    | with_reducible apply State.loseFs_kept
    | with_reducible apply State.setFlash_kept
    | with_reducible apply State.event_kept
    | fail_if_no_progress with_reducible refine State.Kept.mk0 ?_ rfl rfl
    | with_reducible refine State.Kept.ite ?_ ?_
    | split

theorem State.stackFound_kept {s0 : State} (s : State) (st : Nat) (repair : Ms → Ms) (param : Nat) (h0 : s0.Kept s) :
    s0.Kept (State.stackFound s st repair param) := by
  unfold State.stackFound
  try dsimp only
  repeat' first
    | with_reducible assumption
    | with_reducible apply State.loseMs_kept
    | with_reducible apply State.updMem_kept
    | with_reducible apply State.addSoft_kept
    | with_reducible apply State.event_kept
    | fail_if_no_progress with_reducible refine State.Kept.mk0 ?_ rfl rfl
    | with_reducible refine State.Kept.ite ?_ ?_
    | split

theorem State.serdesFound_kept {s0 : State} (s : State) (h : Nat) (lane : Nat) (h0 : s0.Kept s) :
    s0.Kept (State.serdesFound s h lane) := by
  unfold State.serdesFound
  try dsimp only
  repeat' first
    | with_reducible assumption
    | with_reducible apply State.setPort_kept
    | with_reducible apply State.event_kept
    | fail_if_no_progress with_reducible refine State.Kept.mk0 ?_ rfl rfl
    | with_reducible refine State.Kept.ite ?_ ?_
    | split

theorem State.borderFinding_kept {s0 : State} (s : State) (f : Finding) (h0 : s0.Kept s) :
    s0.Kept (State.borderFinding s f) := by
  unfold State.borderFinding
  try dsimp only
  repeat' first
    | with_reducible assumption
    | with_reducible apply State.holdBed_kept
    | with_reducible apply State.loseMs_kept
    | with_reducible apply State.loseStation_kept
    | with_reducible apply State.leaveSite_kept
    | with_reducible apply State.laneFound_kept
    | with_reducible apply State.bedFinding_kept
    | with_reducible apply State.setBed_kept
    | with_reducible apply State.channelFails_kept
    | with_reducible apply State.stackFound_kept
    | with_reducible apply State.serdesFound_kept
    | with_reducible apply State.loseRouters_kept
    | with_reducible apply State.event_kept
    | fail_if_no_progress with_reducible refine State.Kept.mk0 ?_ rfl rfl
    | with_reducible refine State.Kept.ite ?_ ?_
    | split

theorem State.borderFindings_kept {s0 : State} (s : State) (site : Nat → Nat) (res : SMap Nat) (a3 : List Finding) (h0 : s0.Kept s) :
    s0.Kept (State.borderFindings s site res a3).1 := by
  induction a3 generalizing s site res h0 with
  | nil =>
    unfold State.borderFindings
    try dsimp only
    repeat' first
      | with_reducible assumption
      | with_reducible apply ih
      | with_reducible apply State.borderFinding_kept
      | fail_if_no_progress with_reducible refine State.Kept.mk0 ?_ rfl rfl
      | with_reducible refine State.Kept.ite ?_ ?_
      | split
  | cons x xs ih =>
    unfold State.borderFindings
    try dsimp only
    repeat' first
      | with_reducible assumption
      | with_reducible apply ih
      | with_reducible apply State.borderFinding_kept
      | fail_if_no_progress with_reducible refine State.Kept.mk0 ?_ rfl rfl
      | with_reducible refine State.Kept.ite ?_ ?_
      | split

theorem State.checkFailed_kept {s0 : State} (s : State) (n : Nat) (site : Nat) (again : Bool) (a4 : List CheckFail) (h0 : s0.Kept s) :
    s0.Kept (State.checkFailed s n site again a4) := by
  induction a4 generalizing s n site again h0 with
  | nil =>
    unfold State.checkFailed
    try dsimp only
    repeat' first
      | with_reducible assumption
      | with_reducible apply ih
      | with_reducible apply State.mapOutAt_kept
      | with_reducible apply State.event_kept
      | fail_if_no_progress with_reducible refine State.Kept.mk0 ?_ rfl rfl
      | with_reducible refine State.Kept.ite ?_ ?_
      | split
  | cons x xs ih =>
    unfold State.checkFailed
    try dsimp only
    repeat' first
      | with_reducible assumption
      | with_reducible apply ih
      | with_reducible apply State.mapOutAt_kept
      | with_reducible apply State.event_kept
      | fail_if_no_progress with_reducible refine State.Kept.mk0 ?_ rfl rfl
      | with_reducible refine State.Kept.ite ?_ ?_
      | split

theorem State.check_kept {s0 : State} (s : State) (n : Nat) (skein : List Byte) (failing : List CheckFail) (h0 : s0.Kept s) :
    s0.Kept (State.check s n skein failing) := by
  unfold State.check
  try dsimp only
  repeat' first
    | with_reducible assumption
    | with_reducible apply State.setArr_kept
    | with_reducible apply State.ranTest_kept
    | with_reducible apply State.leaveSite_kept
    | with_reducible apply mapCores_kept
    | with_reducible apply State.checkFailed_kept
    | fail_if_no_progress with_reducible refine State.Kept.mk0 ?_ rfl rfl
    | with_reducible refine State.Kept.ite ?_ ?_
    | split

theorem State.dropParts_kept {s0 : State} (s : State) (a1 : List Nat) (h0 : s0.Kept s) :
    s0.Kept (State.dropParts s a1) := by
  induction a1 generalizing s h0 with
  | nil =>
    unfold State.dropParts
    try dsimp only
    repeat' first
      | with_reducible assumption
      | with_reducible apply ih
      | with_reducible apply State.bedLost_kept
      | with_reducible apply State.bindOff_kept
      | fail_if_no_progress with_reducible refine State.Kept.mk0 ?_ rfl rfl
      | with_reducible refine State.Kept.ite ?_ ?_
      | split
  | cons x xs ih =>
    unfold State.dropParts
    try dsimp only
    repeat' first
      | with_reducible assumption
      | with_reducible apply ih
      | with_reducible apply State.bedLost_kept
      | with_reducible apply State.bindOff_kept
      | fail_if_no_progress with_reducible refine State.Kept.mk0 ?_ rfl rfl
      | with_reducible refine State.Kept.ite ?_ ?_
      | split

theorem State.dropBorder_kept {s0 : State} (s : State) (h0 : s0.Kept s) :
    s0.Kept (State.dropBorder s) := by
  unfold State.dropBorder
  try dsimp only
  repeat' first
    | with_reducible assumption
    | with_reducible apply State.coldBorder_kept
    | with_reducible apply State.dropParts_kept
    | fail_if_no_progress (with_reducible refine State.Kept.mk ?_ rfl rfl ?_ ?_ ?_ ?_ ?_ ?_ ?_ ?_ ?_ <;>
        first | with_reducible exact id | (with_reducible exact fun k => SMap.wf_put _ _ _ k)
              | (with_reducible exact fun k => SMap.wf_filter _ _ k) | (with_reducible exact fun k => SMap.wf_mapV _ _ k)
              | (with_reducible exact fun _ => SMap.wf_nil _) | skip)

theorem State.controllerFails_kept {s0 : State} (s : State) (n : Nat) (h0 : s0.Kept s) :
    s0.Kept (State.controllerFails s n) := by
  unfold State.controllerFails
  try dsimp only
  repeat' first
    | with_reducible assumption
    | with_reducible apply State.dropBorder_kept
    | with_reducible apply State.event_kept
    | fail_if_no_progress with_reducible refine State.Kept.mk0 ?_ rfl rfl
    | with_reducible refine State.Kept.ite ?_ ?_
    | split

theorem State.controllersTested_kept {s0 : State} (s : State) (bad : List Nat) (h0 : s0.Kept s) :
    s0.Kept (State.controllersTested s bad) := by
  unfold State.controllersTested
  try dsimp only
  repeat' first
    | with_reducible assumption
    | with_reducible apply State.event_kept
    | fail_if_no_progress with_reducible refine State.Kept.mk0 ?_ rfl rfl
    | with_reducible refine State.Kept.foldl ?_ ?_
    | with_reducible refine State.Kept.foldl_fst ?_ ?_
    | (intro; try dsimp only)

theorem State.countLate_kept {s0 : State} (s : State) (n : Nat) (h0 : s0.Kept s) :
    s0.Kept (State.countLate s n) := by
  unfold State.countLate
  try dsimp only
  repeat' first
    | with_reducible assumption
    | with_reducible apply State.setPart_kept
    | with_reducible apply State.setMem_kept
    | fail_if_no_progress with_reducible refine State.Kept.mk0 ?_ rfl rfl
    | with_reducible refine State.Kept.ite ?_ ?_
    | with_reducible refine State.Kept.foldl ?_ ?_
    | with_reducible refine State.Kept.foldl_fst ?_ ?_
    | split
    | (intro; try dsimp only)

theorem State.crossChecks_kept {s0 : State} (s : State) (a1 : List (Nat × List Int)) (h0 : s0.Kept s) :
    s0.Kept (State.crossChecks s a1) := by
  induction a1 generalizing s h0 with
  | nil =>
    unfold State.crossChecks
    try dsimp only
    repeat' first
      | with_reducible assumption
      | with_reducible apply ih
      | with_reducible apply State.crossCheck_kept
      | fail_if_no_progress with_reducible refine State.Kept.mk0 ?_ rfl rfl
      | with_reducible refine State.Kept.ite ?_ ?_
      | split
  | cons x xs ih =>
    unfold State.crossChecks
    try dsimp only
    repeat' first
      | with_reducible assumption
      | with_reducible apply ih
      | with_reducible apply State.crossCheck_kept
      | fail_if_no_progress with_reducible refine State.Kept.mk0 ?_ rfl rfl
      | with_reducible refine State.Kept.ite ?_ ?_
      | split

theorem State.dropFeed_kept {s0 : State} (s : State) (feed : Nat) (h0 : s0.Kept s) :
    s0.Kept (State.dropFeed s feed) := by
  unfold State.dropFeed
  try dsimp only
  repeat' first
    | with_reducible assumption
    | with_reducible apply State.dropBorder_kept
    | with_reducible apply State.event_kept
    | fail_if_no_progress with_reducible refine State.Kept.mk0 ?_ rfl rfl
    | with_reducible refine State.Kept.ite ?_ ?_
    | split

theorem State.setImage_kept {s0 : State} (s : State) (st : Nat) (i : Nat) (h0 : s0.Kept s) :
    s0.Kept (State.setImage s st i) := by
  unfold State.setImage
  try dsimp only
  repeat' first
    | with_reducible assumption
    | with_reducible apply State.setPort_kept
    | with_reducible apply State.setMem_kept
    | with_reducible apply State.setFlash_kept
    | fail_if_no_progress with_reducible refine State.Kept.mk0 ?_ rfl rfl
    | with_reducible refine State.Kept.ite ?_ ?_
    | split

theorem State.switchElement_kept {s0 : State} (s : State) (e : Nat × Nat) (h0 : s0.Kept s) :
    s0.Kept (State.switchElement s e) := by
  unfold State.switchElement
  try dsimp only
  repeat' first
    | with_reducible assumption
    | with_reducible apply State.setImage_kept
    | with_reducible apply State.countLate_kept
    | fail_if_no_progress with_reducible refine State.Kept.mk0 ?_ rfl rfl
    | split

theorem State.elementDone_kept {s0 : State} (s : State) (h0 : s0.Kept s) :
    s0.Kept (State.elementDone s) := by
  unfold State.elementDone
  try dsimp only
  repeat' first
    | with_reducible assumption
    | with_reducible apply State.switchElement_kept
    | with_reducible apply State.event_kept
    | fail_if_no_progress with_reducible refine State.Kept.mk0 ?_ rfl rfl
    | with_reducible refine State.Kept.ite ?_ ?_
    | split

theorem State.layer_kept {s0 : State} (s : State) (i : Nat) (h0 : s0.Kept s) :
    s0.Kept (State.layer s i) := by
  unfold State.layer
  try dsimp only
  repeat' first
    | with_reducible assumption
    | fail_if_no_progress with_reducible refine State.Kept.mk0 ?_ rfl rfl

theorem State.loadImages_kept {s0 : State} (s : State) (images : List (Nat × Nat)) (h0 : s0.Kept s) :
    s0.Kept (State.loadImages s images) := by
  unfold State.loadImages
  try dsimp only
  repeat' first
    | with_reducible assumption
    | with_reducible apply State.setImage_kept
    | with_reducible apply State.loseStation_kept
    | fail_if_no_progress with_reducible refine State.Kept.mk0 ?_ rfl rfl
    | with_reducible refine State.Kept.ite ?_ ?_
    | with_reducible refine State.Kept.foldl ?_ ?_
    | with_reducible refine State.Kept.foldl_fst ?_ ?_
    | split
    | (intro; try dsimp only)

theorem State.sourcesTested_kept {s0 : State} (s : State) (bad : List Nat) (h0 : s0.Kept s) :
    s0.Kept (State.sourcesTested s bad) := by
  unfold State.sourcesTested
  try dsimp only
  repeat' first
    | with_reducible assumption
    | with_reducible apply State.event_kept
    | fail_if_no_progress with_reducible refine State.Kept.mk0 ?_ rfl rfl
    | with_reducible refine State.Kept.foldl ?_ ?_
    | with_reducible refine State.Kept.foldl_fst ?_ ?_
    | (intro; try dsimp only)

theorem State.powerUp_kept {s0 : State} (s : State) (img : Option Nat) (mgcs : List Nat) (sources : List Nat) (fuses : Fuses) (h0 : s0.Kept s) :
    s0.Kept (State.powerUp s img mgcs sources fuses) := by
  unfold State.powerUp
  try dsimp only
  repeat' first
    | with_reducible assumption
    | with_reducible apply State.ranTest_kept
    | with_reducible apply State.sourcesTested_kept
    | with_reducible apply State.noted_kept
    | with_reducible apply State.controllersTested_kept
    | with_reducible apply State.layer_kept
    | fail_if_no_progress with_reducible refine State.Kept.mk0 ?_ rfl rfl
    | with_reducible refine State.Kept.ite ?_ ?_
    | split

theorem State.release_kept {s0 : State} (s : State) (h0 : s0.Kept s) :
    s0.Kept (State.release s) := by
  unfold State.release
  try dsimp only
  repeat' first
    | with_reducible assumption
    | fail_if_no_progress with_reducible refine State.Kept.mk0 ?_ rfl rfl
    | with_reducible refine State.Kept.ite ?_ ?_
    | split

theorem State.setRef_kept {s0 : State} (s : State) (ref : Nat) (good : Bool) (h0 : s0.Kept s) :
    s0.Kept (State.setRef s ref good) := by
  unfold State.setRef
  try dsimp only
  repeat' first
    | with_reducible assumption
    | with_reducible apply State.event_kept
    | fail_if_no_progress with_reducible refine State.Kept.mk0 ?_ rfl rfl
    | with_reducible refine State.Kept.ite ?_ ?_
    | with_reducible exact Mgs.setRef_fuses _ _ _
    | split
    | fail_if_no_progress with_reducible refine State.Kept.mk0 ?_ rfl ?_

theorem State.sourceBack_kept {s0 : State} (s : State) (n : Nat) (h0 : s0.Kept s) :
    s0.Kept (State.sourceBack s n) := by
  unfold State.sourceBack
  try dsimp only
  repeat' first
    | with_reducible assumption
    | fail_if_no_progress with_reducible refine State.Kept.mk0 ?_ rfl rfl
    | with_reducible refine State.Kept.ite ?_ ?_
    | split

theorem State.sourceFails_kept {s0 : State} (s : State) (n : Nat) (h0 : s0.Kept s) :
    s0.Kept (State.sourceFails s n) := by
  unfold State.sourceFails
  try dsimp only
  repeat' first
    | with_reducible assumption
    | with_reducible apply State.event_kept
    | fail_if_no_progress with_reducible refine State.Kept.mk0 ?_ rfl rfl
    | with_reducible refine State.Kept.ite ?_ ?_
    | split

theorem State.standbyDrop_kept {s0 : State} (s : State) (feed : Nat) (h0 : s0.Kept s) :
    s0.Kept (State.standbyDrop s feed) := by
  unfold State.standbyDrop
  try dsimp only
  repeat' first
    | with_reducible assumption
    | with_reducible apply State.event_kept
    | fail_if_no_progress (with_reducible refine State.Kept.mk ?_ rfl rfl ?_ ?_ ?_ ?_ ?_ ?_ ?_ ?_ ?_ <;>
        first | with_reducible exact id | (with_reducible exact fun k => SMap.wf_put _ _ _ k)
              | (with_reducible exact fun k => SMap.wf_filter _ _ k) | (with_reducible exact fun k => SMap.wf_mapV _ _ k)
              | (with_reducible exact fun _ => SMap.wf_nil _) | skip)
    | with_reducible refine State.Kept.ite ?_ ?_
    | split

theorem State.standbyGood_kept {s0 : State} (s : State) (feed : Nat) (img : Option Nat) (mgcs : List Nat) (sources : List Nat) (fuses : Fuses) (h0 : s0.Kept s) :
    s0.Kept (State.standbyGood s feed img mgcs sources fuses) := by
  unfold State.standbyGood
  try dsimp only
  repeat' first
    | with_reducible assumption
    | with_reducible apply State.powerUp_kept
    | fail_if_no_progress with_reducible refine State.Kept.mk0 ?_ rfl rfl
    | with_reducible refine State.Kept.ite ?_ ?_
    | split

theorem State.tested_kept {s0 : State} (s : State) (f : SelfTest) (h0 : s0.Kept s) :
    s0.Kept (State.tested s f) := by
  unfold State.tested
  try dsimp only
  repeat' first
    | with_reducible assumption
    | with_reducible apply State.ranTest_kept
    | with_reducible apply State.allSpares_kept
    | with_reducible apply State.loadImages_kept
    | with_reducible apply State.forgetSoft_kept
    | with_reducible apply State.ranWith_kept
    | with_reducible apply State.crossChecks_kept
    | with_reducible apply State.borderFindings_kept
    | fail_if_no_progress with_reducible refine State.Kept.mk0 ?_ rfl rfl
    | with_reducible refine State.Kept.ite ?_ ?_
    | with_reducible refine State.Kept.of_pair ‹_› ?_
    | split

theorem State.startBorder_kept {s0 : State} (s : State) (f : SelfTest) (h0 : s0.Kept s) :
    s0.Kept (State.startBorder s f) := by
  unfold State.startBorder
  try dsimp only
  repeat' first
    | with_reducible assumption
    | with_reducible apply State.coldBorder_kept
    | with_reducible apply State.respine_kept
    | with_reducible apply State.tested_kept
    | fail_if_no_progress with_reducible refine State.Kept.mk0 ?_ rfl rfl
    | with_reducible refine State.Kept.ite ?_ ?_
    | split

theorem State.verified_kept {s0 : State} (s : State) (sigOk : Bool) (h0 : s0.Kept s) :
    s0.Kept (State.verified s sigOk) := by
  unfold State.verified
  try dsimp only
  repeat' first
    | with_reducible assumption
    | fail_if_no_progress with_reducible refine State.Kept.mk0 ?_ rfl rfl
    | with_reducible refine State.Kept.ite ?_ ?_
    | split

theorem execAttachRouterFail_kept {s u : State} {site : Nat} (h0 : execAttachRouterFail site s = .next u) : s.Kept u := by
  unfold execAttachRouterFail at h0
  refine guardUnit_kept ?_ h0
  clear h0
  try dsimp only
  repeat' first
    | with_reducible exact State.Kept.refl s
    | with_reducible assumption
    | with_reducible apply State.attachFails_kept
    | fail_if_no_progress with_reducible refine State.Kept.mk0 ?_ rfl rfl

theorem execBorderPhaseStart_kept {s u : State} {found : SelfTest} (h0 : execBorderPhaseStart found s = .next u) : s.Kept u := by
  unfold execBorderPhaseStart at h0
  refine guardUnit_kept ?_ h0
  clear h0
  try dsimp only
  repeat' first
    | with_reducible exact State.Kept.refl s
    | with_reducible assumption
    | with_reducible apply State.startBorder_kept
    | fail_if_no_progress with_reducible refine State.Kept.mk0 ?_ rfl rfl

theorem execBorderRelease_kept {s u : State}  (h0 : execBorderRelease s = .next u) : s.Kept u := by
  unfold execBorderRelease at h0
  refine guardUnit_kept ?_ h0
  clear h0
  try dsimp only
  repeat' first
    | with_reducible exact State.Kept.refl s
    | with_reducible assumption
    | with_reducible apply State.release_kept
    | fail_if_no_progress with_reducible refine State.Kept.mk0 ?_ rfl rfl

theorem execCommissionInput_kept {s u : State} {asserted : Bool} (h0 : execCommissionInput asserted s = .next u) : s.Kept u := by
  unfold execCommissionInput at h0
  refine guardUnit_kept ?_ h0
  clear h0
  try dsimp only
  repeat' first
    | with_reducible exact State.Kept.refl s
    | with_reducible assumption
    | fail_if_no_progress with_reducible refine State.Kept.mk0 ?_ rfl rfl

theorem execCoolLeak_kept {s u : State} {water : Bool} (h0 : execCoolLeak water s = .next u) : s.Kept u := by
  unfold execCoolLeak at h0
  refine guardUnit_kept ?_ h0
  clear h0
  try dsimp only
  repeat' first
    | with_reducible exact State.Kept.refl s
    | with_reducible assumption
    | with_reducible apply State.event_kept
    | fail_if_no_progress with_reducible refine State.Kept.mk0 ?_ rfl rfl
    | with_reducible refine State.Kept.ite ?_ ?_
    | split

theorem execEntropyTestFail_kept {s u : State} {source : Nat} {restored : Bool} (h0 : execEntropyTestFail source restored s = .next u) : s.Kept u := by
  unfold execEntropyTestFail at h0
  refine guardUnit_kept ?_ h0
  clear h0
  try dsimp only
  repeat' first
    | with_reducible exact State.Kept.refl s
    | with_reducible assumption
    | with_reducible apply State.sourceBack_kept
    | with_reducible apply State.sourceFails_kept
    | fail_if_no_progress with_reducible refine State.Kept.mk0 ?_ rfl rfl
    | with_reducible refine State.Kept.ite ?_ ?_
    | split

theorem execFeedDrop_kept {s u : State} {feed : Nat} (h0 : execFeedDrop feed s = .next u) : s.Kept u := by
  unfold execFeedDrop at h0
  refine guardUnit_kept ?_ h0
  clear h0
  try dsimp only
  repeat' first
    | with_reducible exact State.Kept.refl s
    | with_reducible assumption
    | with_reducible apply State.dropFeed_kept
    | fail_if_no_progress with_reducible refine State.Kept.mk0 ?_ rfl rfl

theorem execFeedReconnect_kept {s u : State} {feed : Nat} (h0 : execFeedReconnect feed s = .next u) : s.Kept u := by
  unfold execFeedReconnect at h0
  refine guardUnit_kept ?_ h0
  clear h0
  try dsimp only
  repeat' first
    | with_reducible exact State.Kept.refl s
    | with_reducible assumption
    | with_reducible apply State.noted_kept
    | fail_if_no_progress with_reducible refine State.Kept.mk0 ?_ rfl rfl

theorem execFwElementSwitchDone_kept {s u : State}  (h0 : execFwElementSwitchDone s = .next u) : s.Kept u := by
  unfold execFwElementSwitchDone at h0
  refine guardUnit_kept ?_ h0
  clear h0
  try dsimp only
  repeat' first
    | with_reducible exact State.Kept.refl s
    | with_reducible assumption
    | with_reducible apply State.elementDone_kept
    | fail_if_no_progress with_reducible refine State.Kept.mk0 ?_ rfl rfl

theorem execFwVerifyDone_kept {s u : State} {sigOk : Bool} (h0 : execFwVerifyDone sigOk s = .next u) : s.Kept u := by
  unfold execFwVerifyDone at h0
  refine guardUnit_kept ?_ h0
  clear h0
  try dsimp only
  repeat' first
    | with_reducible exact State.Kept.refl s
    | with_reducible assumption
    | with_reducible apply State.verified_kept
    | fail_if_no_progress with_reducible refine State.Kept.mk0 ?_ rfl rfl

theorem execKeyStoreBankFail_kept {s u : State} {bank : Nat} (h0 : execKeyStoreBankFail bank s = .next u) : s.Kept u := by
  unfold execKeyStoreBankFail at h0
  refine guardUnit_kept ?_ h0
  clear h0
  try dsimp only
  repeat' first
    | with_reducible exact State.Kept.refl s
    | with_reducible assumption
    | with_reducible apply State.bankFails_kept
    | fail_if_no_progress with_reducible refine State.Kept.mk0 ?_ rfl rfl

theorem execMgcFail_kept {s u : State} {mgc : Nat} (h0 : execMgcFail mgc s = .next u) : s.Kept u := by
  unfold execMgcFail at h0
  refine guardUnit_kept ?_ h0
  clear h0
  try dsimp only
  repeat' first
    | with_reducible exact State.Kept.refl s
    | with_reducible assumption
    | with_reducible apply State.controllerFails_kept
    | fail_if_no_progress with_reducible refine State.Kept.mk0 ?_ rfl rfl

theorem execNandChannelFail_kept {s u : State} {fs : Nat} {channel : Nat} (h0 : execNandChannelFail fs channel s = .next u) : s.Kept u := by
  unfold execNandChannelFail at h0
  refine guardUnit_kept ?_ h0
  clear h0
  try dsimp only
  repeat' first
    | with_reducible exact State.Kept.refl s
    | with_reducible assumption
    | with_reducible apply State.channelFails_kept
    | fail_if_no_progress with_reducible refine State.Kept.mk0 ?_ rfl rfl

theorem execPeriodicCheck_kept {s u : State} {sa : Nat} {skein : List Byte} {failing : List CheckFail} (h0 : execPeriodicCheck sa skein failing s = .next u) : s.Kept u := by
  unfold execPeriodicCheck at h0
  refine guardUnit_kept ?_ h0
  clear h0
  try dsimp only
  repeat' first
    | with_reducible exact State.Kept.refl s
    | with_reducible assumption
    | with_reducible apply State.check_kept
    | fail_if_no_progress with_reducible refine State.Kept.mk0 ?_ rfl rfl

theorem execRefLoss_kept {s u : State} {ref : Nat} (h0 : execRefLoss ref s = .next u) : s.Kept u := by
  unfold execRefLoss at h0
  refine guardUnit_kept ?_ h0
  clear h0
  try dsimp only
  repeat' first
    | with_reducible exact State.Kept.refl s
    | with_reducible assumption
    | with_reducible apply State.setRef_kept
    | fail_if_no_progress with_reducible refine State.Kept.mk0 ?_ rfl rfl

theorem execReferenceRestored_kept {s u : State} {ref : Nat} (h0 : execReferenceRestored ref s = .next u) : s.Kept u := by
  unfold execReferenceRestored at h0
  refine guardUnit_kept ?_ h0
  clear h0
  try dsimp only
  repeat' first
    | with_reducible exact State.Kept.refl s
    | with_reducible assumption
    | with_reducible apply State.setRef_kept
    | fail_if_no_progress with_reducible refine State.Kept.mk0 ?_ rfl rfl

theorem execStandbyFeedDrop_kept {s u : State} {feed : Nat} (h0 : execStandbyFeedDrop feed s = .next u) : s.Kept u := by
  unfold execStandbyFeedDrop at h0
  refine guardUnit_kept ?_ h0
  clear h0
  try dsimp only
  repeat' first
    | with_reducible exact State.Kept.refl s
    | with_reducible assumption
    | with_reducible apply State.standbyDrop_kept
    | fail_if_no_progress with_reducible refine State.Kept.mk0 ?_ rfl rfl

theorem execStandbyLoss_kept {s u : State}  (h0 : execStandbyLoss s = .next u) : s.Kept u := by
  unfold execStandbyLoss at h0
  refine guardUnit_kept ?_ h0
  clear h0
  try dsimp only
  repeat' first
    | with_reducible exact State.Kept.refl s
    | with_reducible assumption
    | with_reducible apply State.blackout_kept
    | fail_if_no_progress with_reducible refine State.Kept.mk0 ?_ rfl rfl

theorem execStandbyPowerGood_kept {s u : State} {feed : Nat} {imageA : Bool} {imageB : Bool} {golden : Bool} {mgcs : List Nat} {sources : List Nat} {fuses : Fuses} (h0 : execStandbyPowerGood feed imageA imageB golden mgcs sources fuses s = .next u) : s.Kept u := by
  unfold execStandbyPowerGood at h0
  refine guardUnit_kept ?_ h0
  clear h0
  try dsimp only
  repeat' first
    | with_reducible exact State.Kept.refl s
    | with_reducible assumption
    | with_reducible apply State.standbyGood_kept
    | fail_if_no_progress with_reducible refine State.Kept.mk0 ?_ rfl rfl

theorem execTrellisPllFailover_kept {s u : State} {failed : Bool} (h0 : execTrellisPllFailover failed s = .next u) : s.Kept u := by
  unfold execTrellisPllFailover at h0
  refine guardUnit_kept ?_ h0
  clear h0
  try dsimp only
  repeat' first
    | with_reducible exact State.Kept.refl s
    | with_reducible assumption
    | with_reducible apply State.event_kept
    | fail_if_no_progress with_reducible refine State.Kept.mk0 ?_ rfl rfl
    | with_reducible refine State.Kept.ite ?_ ?_
    | split

end Sys2Proof.Machine
end

