-- ==== Sys2Proof/Laws/KeepsExec.lean ====
section
/-!
SUPPORT. Every command keeps what `State.Kept` names: the queue it was given, the log's bound, the fuses, the tables' canonical form.
-/
namespace Sys2Proof.Machine

theorem exec_kept {c : Instr} {s u : State} (h : exec c s = .next u) : s.Kept u := by
  cases c with
  | nop _ _ _ => exact execNop_kept h
  | wait _ _ _ => exact execWait_kept h
  | loop _ _ _ => exact execLoop_kept h
  | halt _ _ _ => exact execHalt_kept h
  | hold _ => exact execHold_kept h
  | mload _ _ _ _ => exact execMload_kept h
  | mma _ _ _ _ => exact execMma_kept h
  | mmaLeafInsert _ _ _ => exact execMmaLeafInsert_kept h
  | mdrain _ _ _ => exact execMdrain_kept h
  | mnode _ _ _ => exact execMnode_kept h
  | mcheck _ _ _ _ => exact execMcheck_kept h
  | tload _ _ _ _ => exact execTload_kept h
  | tstore _ _ _ => exact execTstore_kept h
  | vrun _ _ _ => exact execVrun_kept h
  | vrow _ _ _ => exact execVrow_kept h
  | vcvt _ _ _ => exact execVcvt_kept h
  | vacc _ _ _ => exact execVacc_kept h
  | vectorResultWrite _ _ _ => exact execVectorResultWrite_kept h
  | send _ _ _ => exact execSend_kept h
  | rwrite _ _ _ => exact execRwrite_kept h
  | sendDrained _ _ _ _ _ => exact execSendDrained_kept h
  | fset _ _ _ => exact execFset_kept h
  | fclr _ _ _ => exact execFclr_kept h
  | cinc _ _ _ => exact execCinc_kept h
  | cdec _ _ _ => exact execCdec_kept h
  | cclr _ _ _ => exact execCclr_kept h
  | sfetch _ _ _ _ => exact execSfetch_kept h
  | srel _ _ _ _ => exact execSrel_kept h
  | stok _ _ _ => exact execStok_kept h
  | steerItemArrival _ _ _ _ _ _ _ => exact execSteerItemArrival_kept h
  | steerSkew _ _ _ _ => exact execSteerSkew_kept h
  | ringMessageArrival _ _ => exact execRingMessageArrival_kept h
  | directWriteArrival _ _ => exact execDirectWriteArrival_kept h
  | creditReturn _ _ _ _ => exact execCreditReturn_kept h
  | deadlock _ => exact execDeadlock_kept h
  | dlCtlWrite _ _ _ => exact execDlCtlWrite_kept h
  | routerMessage _ _ => exact execRouterMessage_kept h
  | laneSpare _ _ _ => exact execLaneSpare_kept h
  | releaseToken _ _ => exact execReleaseToken_kept h
  | reductionInput _ => exact execReductionInput_kept h
  | reductionAdd _ _ => exact execReductionAdd_kept h
  | stationRedInput _ => exact execStationRedInput_kept h
  | stationRedAdd _ _ => exact execStationRedAdd_kept h
  | streamRequestArrival _ => exact execStreamRequestArrival_kept h
  | streamRequestAdmit _ => exact execStreamRequestAdmit_kept h
  | stackAccessComplete _ _ _ => exact execStackAccessComplete_kept h
  | tileResponse _ _ => exact execTileResponse_kept h
  | tileLanding _ => exact execTileLanding_kept h
  | writeAck _ => exact execWriteAck_kept h
  | pseThreadReturn _ _ _ => exact execPseThreadReturn_kept h
  | updatePartArrival _ => exact execUpdatePartArrival_kept h
  | updateApply _ _ => exact execUpdateApply_kept h
  | divRereadDone _ _ => exact execDivRereadDone_kept h
  | divRecomputeDone _ _ _ => exact execDivRecomputeDone_kept h
  | divRecomputeTimeout _ _ => exact execDivRecomputeTimeout_kept h
  | flashStageComplete _ _ _ => exact execFlashStageComplete_kept h
  | writebackComplete _ _ _ => exact execWritebackComplete_kept h
  | pendingApply _ _ _ => exact execPendingApply_kept h
  | slowStarved _ _ => exact execSlowStarved_kept h
  | scrubRead _ _ _ => exact execScrubRead_kept h
  | softRowRepair _ _ => exact execSoftRowRepair_kept h
  | zeroWriteDone _ => exact execZeroWriteDone_kept h
  | skeinStart _ _ => exact execSkeinStart_kept h
  | skeinEnd _ => exact execSkeinEnd_kept h
  | skeinAbort _ => exact execSkeinAbort_kept h
  | skeinWinWrite _ _ => exact execSkeinWinWrite_kept h
  | skeinVerifyDone _ => exact execSkeinVerifyDone_kept h
  | skeinDeadlineExpiry _ => exact execSkeinDeadlineExpiry_kept h
  | commit _ _ _ => exact execCommit_kept h
  | commitHaltDone _ => exact execCommitHaltDone_kept h
  | commitAllocate _ => exact execCommitAllocate_kept h
  | drainComplete _ => exact execDrainComplete_kept h
  | drainTimeout _ => exact execDrainTimeout_kept h
  | partCreate _ _ _ _ => exact execPartCreate_kept h
  | partStart _ _ => exact execPartStart_kept h
  | castLockDone _ => exact execCastLockDone_kept h
  | castLockTimeout _ => exact execCastLockTimeout_kept h
  | partStop _ _ _ => exact execPartStop_kept h
  | bindOffDone _ => exact execBindOffDone_kept h
  | partSuspend _ _ => exact execPartSuspend_kept h
  | quiesceDone _ => exact execQuiesceDone_kept h
  | quiesceTimeout _ _ => exact execQuiesceTimeout_kept h
  | scanOutDone _ _ _ => exact execScanOutDone_kept h
  | partPlace _ _ => exact execPartPlace_kept h
  | placeDone _ => exact execPlaceDone_kept h
  | partResume _ _ => exact execPartResume_kept h
  | resumeDone _ _ => exact execResumeDone_kept h
  | partRelease _ _ => exact execPartRelease_kept h
  | warnClr _ _ => exact execWarnClr_kept h
  | partComplete _ => exact execPartComplete_kept h
  | statusGather _ => exact execStatusGather_kept h
  | portReset _ kind => exact execPortReset_kept (_kind := kind) h
  | linkUp _ _ _ _ => exact execLinkUp_kept h
  | portReady _ => exact execPortReady_kept h
  | configRequest _ _ _ _ => exact execConfigRequest_kept h
  | registerWrite _ _ _ _ _ => exact execRegisterWrite_kept h
  | winMapWrite _ _ _ => exact execWinMapWrite_kept h
  | windowRead _ _ _ _ _ => exact execWindowRead_kept h
  | windowWrite _ _ _ _ => exact execWindowWrite_kept h
  | partDb _ _ _ _ => exact execPartDb_kept h
  | doorbellRelease _ => exact execDoorbellRelease_kept h
  | doorbellLand _ _ => exact execDoorbellLand_kept h
  | sqTailWrite _ _ _ _ => exact execSqTailWrite_kept h
  | cqHeadWrite _ _ _ _ => exact execCqHeadWrite_kept h
  | queueEnable _ _ _ => exact execQueueEnable_kept h
  | queueDisable _ _ => exact execQueueDisable_kept h
  | skeinFetch _ _ _ _ => exact execSkeinFetch_kept h
  | winRead _ _ _ _ _ => exact execWinRead_kept h
  | winWrite _ _ _ _ _ => exact execWinWrite_kept h
  | volCreate _ _ _ => exact execVolCreate_kept h
  | volDelete _ _ _ => exact execVolDelete_kept h
  | volBind _ _ _ => exact execVolBind_kept h
  | volInfo _ _ _ => exact execVolInfo_kept h
  | volRead _ _ _ _ => exact execVolRead_kept h
  | volWrite _ _ _ _ _ => exact execVolWrite_kept h
  | completionPost _ _ => exact execCompletionPost_kept h
  | ideIntegrityFail _ _ => exact execIdeIntegrityFail_kept h
  | doeDiscovery _ _ => exact execDoeDiscovery_kept h
  | getVersion _ => exact execGetVersion_kept h
  | getCapabilities _ => exact execGetCapabilities_kept h
  | negotiateAlgorithms _ => exact execNegotiateAlgorithms_kept h
  | getDigests _ => exact execGetDigests_kept h
  | getCertificate _ _ _ => exact execGetCertificate_kept h
  | challenge _ _ => exact execChallenge_kept h
  | getMeasurements _ _ _ _ => exact execGetMeasurements_kept h
  | keyExchange _ => exact execKeyExchange_kept h
  | finish _ _ _ => exact execFinish_kept h
  | keyUpdate _ _ => exact execKeyUpdate_kept h
  | heartbeat _ _ => exact execHeartbeat_kept h
  | endSession _ _ => exact execEndSession_kept h
  | hostKey _ _ _ _ => exact execHostKey_kept h
  | query _ _ => exact execQuery_kept h
  | keyProg _ _ _ _ => exact execKeyProg_kept h
  | kSetGo _ _ _ _ => exact execKSetGo_kept h
  | kSetStop _ _ _ _ => exact execKSetStop_kept h
  | setEndpointId _ _ _ => exact execSetEndpointId_kept h
  | getEndpointId _ _ => exact execGetEndpointId_kept h
  | getEndpointUuid _ _ => exact execGetEndpointUuid_kept h
  | getMctpVersionSupport _ _ => exact execGetMctpVersionSupport_kept h
  | getMessageTypeSupport _ _ => exact execGetMessageTypeSupport_kept h
  | getVendorDefinedMessageSupport _ _ => exact execGetVendorDefinedMessageSupport_kept h
  | mctpGelokanRequest _ _ _ _ _ _ _ => exact execMctpGelokanRequest_kept h
  | cert _ _ => exact execCert_kept h
  | openReq _ _ _ _ => exact execOpenReq_kept h
  | auth _ _ _ _ _ => exact execAuth_kept h
  | close _ => exact execClose_kept h
  | expRead _ _ _ => exact execExpRead_kept h
  | expWrite _ _ _ _ _ => exact execExpWrite_kept h
  | segRead _ _ _ _ _ => exact execSegRead_kept h
  | segWrite _ _ _ _ _ _ => exact execSegWrite_kept h
  | apply _ _ => exact execApply_kept h
  | objectWrite _ _ _ _ => exact execObjectWrite_kept h
  | sessionIdleExpiry _ => exact execSessionIdleExpiry_kept h
  | sessionAuthTimeout _ => exact execSessionAuthTimeout_kept h
  | segTransferTimeout _ => exact execSegTransferTimeout_kept h
  | transmitOpportunity _ => exact execTransmitOpportunity_kept h
  | plcaBeacon _ => exact execPlcaBeacon_kept h
  | plcaLossExpiry _ => exact execPlcaLossExpiry_kept h
  | csmaBackoffExpiry _ _ => exact execCsmaBackoffExpiry_kept h
  | rekey _ _ => exact execRekey_kept h
  | svnCommit _ _ => exact execSvnCommit_kept h
  | maintAuth _ _ => exact execMaintAuth_kept h
  | debugToken _ _ _ _ => exact execDebugToken_kept h
  | debugTokenExpiry => exact execDebugTokenExpiry_kept h
  | evtRecords _ => exact execEvtRecords_kept h
  | bedReenable _ _ _ => exact execBedReenable_kept h
  | borderRestart _ _ => exact execBorderRestart_kept h
  | fullTest _ _ => exact execFullTest_kept h
  | fuseBurn _ _ => exact execFuseBurn_kept h
  | fwChunk _ _ => exact execFwChunk_kept h
  | fwVerify _ _ => exact execFwVerify_kept h
  | fwVerifyDone _ => exact execFwVerifyDone_kept h
  | fwSwitch _ _ => exact execFwSwitch_kept h
  | fwElementSwitchDone => exact execFwElementSwitchDone_kept h
  | standbyPowerGood _ _ _ _ _ _ _ => exact execStandbyPowerGood_kept h
  | borderPhaseStart _ => exact execBorderPhaseStart_kept h
  | borderRelease => exact execBorderRelease_kept h
  | standbyLoss => exact execStandbyLoss_kept h
  | feedDrop _ => exact execFeedDrop_kept h
  | feedReconnect _ => exact execFeedReconnect_kept h
  | branchFault _ _ => exact execBranchFault_kept h
  | coreRailFault _ => exact execCoreRailFault_kept h
  | transitRailShort _ => exact execTransitRailShort_kept h
  | transitConverterFail _ => exact execTransitConverterFail_kept h
  | bedPllLockLoss _ => exact execBedPllLockLoss_kept h
  | voltageMonitorCheck _ => exact execVoltageMonitorCheck_kept h
  | refLoss _ => exact execRefLoss_kept h
  | trellisPllFailover _ => exact execTrellisPllFailover_kept h
  | bedFreqStep _ => exact execBedFreqStep_kept h
  | powerControlPeriod _ _ _ _ _ => exact execPowerControlPeriod_kept h
  | thermalStep _ _ => exact execThermalStep_kept h
  | bedDrain _ => exact execBedDrain_kept h
  | bedDrainDone _ => exact execBedDrainDone_kept h
  | bedCrit _ _ => exact execBedCrit_kept h
  | offHeatRecover _ => exact execOffHeatRecover_kept h
  | bedWake _ => exact execBedWake_kept h
  | bedAwake _ _ _ => exact execBedAwake_kept h
  | bedSleep _ => exact execBedSleep_kept h
  | thermalSensorCheck _ _ => exact execThermalSensorCheck_kept h
  | coolLeak _ => exact execCoolLeak_kept h
  | commissionInput _ => exact execCommissionInput_kept h
  | periodicCheck _ _ _ => exact execPeriodicCheck_kept h
  | entropyTestFail _ _ => exact execEntropyTestFail_kept h
  | keyStoreBankFail _ => exact execKeyStoreBankFail_kept h
  | mgcFail _ => exact execMgcFail_kept h
  | attachRouterFail _ => exact execAttachRouterFail_kept h
  | referenceRestored _ => exact execReferenceRestored_kept h
  | standbyFeedDrop _ => exact execStandbyFeedDrop_kept h
  | completionTimeout _ _ _ _ => exact execCompletionTimeout_kept h
  | physicalCollision _ => exact execPhysicalCollision_kept h
  | coordinatorBeacon _ => exact execCoordinatorBeacon_kept h
  | nandChannelFail _ _ => exact execNandChannelFail_kept h

end Sys2Proof.Machine
end

