-- ==== Sys2Proof/Laws/State.lean ====
section
/-!
SUPPORT. What each named update of the state leaves: one lemma per update and field, and per update and unit read by number; and what a
unit reads after it was written.
-/
namespace Sys2Proof.Machine

/-! ## The other fields -/

@[simp] theorem State.setCore_pending (s : State) (k : Nat) (c : Core) : (s.setCore k c).pending = s.pending := rfl
@[simp] theorem State.setCore_arrays (s : State) (k : Nat) (c : Core) : (s.setCore k c).arrays = s.arrays := rfl
@[simp] theorem State.setCore_net (s : State) (k : Nat) (c : Core) : (s.setCore k c).net = s.net := rfl
@[simp] theorem State.setCore_nextId (s : State) (k : Nat) (c : Core) : (s.setCore k c).nextId = s.nextId := rfl
@[simp] theorem State.setCore_routers (s : State) (k : Nat) (c : Core) : (s.setCore k c).routers = s.routers := rfl
@[simp] theorem State.setCore_ms (s : State) (k : Nat) (c : Core) : (s.setCore k c).ms = s.ms := rfl
@[simp] theorem State.setCore_fs (s : State) (k : Nat) (c : Core) : (s.setCore k c).fs = s.fs := rfl
@[simp] theorem State.setCore_volumes (s : State) (k : Nat) (c : Core) : (s.setCore k c).volumes = s.volumes := rfl
@[simp] theorem State.setCore_parts (s : State) (k : Nat) (c : Core) : (s.setCore k c).parts = s.parts := rfl
@[simp] theorem State.setCore_ports (s : State) (k : Nat) (c : Core) : (s.setCore k c).ports = s.ports := rfl
@[simp] theorem State.setCore_beds (s : State) (k : Nat) (c : Core) : (s.setCore k c).beds = s.beds := rfl
@[simp] theorem State.setCore_gel (s : State) (k : Nat) (c : Core) : (s.setCore k c).gel = s.gel := rfl
@[simp] theorem State.setCore_tune (s : State) (k : Nat) (c : Core) : (s.setCore k c).tune = s.tune := rfl
@[simp] theorem State.setCore_tally (s : State) (k : Nat) (c : Core) : (s.setCore k c).tally = s.tally := rfl
@[simp] theorem State.setCore_mgs (s : State) (k : Nat) (c : Core) : (s.setCore k c).mgs = s.mgs := rfl
@[simp] theorem State.setCore_fw (s : State) (k : Nat) (c : Core) : (s.setCore k c).fw = s.fw := rfl
@[simp] theorem State.setCore_out (s : State) (k : Nat) (c : Core) : (s.setCore k c).out = s.out := rfl
@[simp] theorem State.setCore_draws (s : State) (k : Nat) (c : Core) : (s.setCore k c).draws = s.draws := rfl
@[simp] theorem State.setArr_pending (s : State) (k : Nat) (a : Arr) : (s.setArr k a).pending = s.pending := rfl
@[simp] theorem State.setArr_cores (s : State) (k : Nat) (a : Arr) : (s.setArr k a).cores = s.cores := rfl
@[simp] theorem State.setArr_net (s : State) (k : Nat) (a : Arr) : (s.setArr k a).net = s.net := rfl
@[simp] theorem State.setArr_nextId (s : State) (k : Nat) (a : Arr) : (s.setArr k a).nextId = s.nextId := rfl
@[simp] theorem State.setArr_routers (s : State) (k : Nat) (a : Arr) : (s.setArr k a).routers = s.routers := rfl
@[simp] theorem State.setArr_ms (s : State) (k : Nat) (a : Arr) : (s.setArr k a).ms = s.ms := rfl
@[simp] theorem State.setArr_fs (s : State) (k : Nat) (a : Arr) : (s.setArr k a).fs = s.fs := rfl
@[simp] theorem State.setArr_volumes (s : State) (k : Nat) (a : Arr) : (s.setArr k a).volumes = s.volumes := rfl
@[simp] theorem State.setArr_parts (s : State) (k : Nat) (a : Arr) : (s.setArr k a).parts = s.parts := rfl
@[simp] theorem State.setArr_ports (s : State) (k : Nat) (a : Arr) : (s.setArr k a).ports = s.ports := rfl
@[simp] theorem State.setArr_beds (s : State) (k : Nat) (a : Arr) : (s.setArr k a).beds = s.beds := rfl
@[simp] theorem State.setArr_gel (s : State) (k : Nat) (a : Arr) : (s.setArr k a).gel = s.gel := rfl
@[simp] theorem State.setArr_tune (s : State) (k : Nat) (a : Arr) : (s.setArr k a).tune = s.tune := rfl
@[simp] theorem State.setArr_tally (s : State) (k : Nat) (a : Arr) : (s.setArr k a).tally = s.tally := rfl
@[simp] theorem State.setArr_mgs (s : State) (k : Nat) (a : Arr) : (s.setArr k a).mgs = s.mgs := rfl
@[simp] theorem State.setArr_fw (s : State) (k : Nat) (a : Arr) : (s.setArr k a).fw = s.fw := rfl
@[simp] theorem State.setArr_out (s : State) (k : Nat) (a : Arr) : (s.setArr k a).out = s.out := rfl
@[simp] theorem State.setArr_draws (s : State) (k : Nat) (a : Arr) : (s.setArr k a).draws = s.draws := rfl
@[simp] theorem State.setRouter_pending (s : State) (k : Nat) (r : Router) : (s.setRouter k r).pending = s.pending := rfl
@[simp] theorem State.setRouter_cores (s : State) (k : Nat) (r : Router) : (s.setRouter k r).cores = s.cores := rfl
@[simp] theorem State.setRouter_arrays (s : State) (k : Nat) (r : Router) : (s.setRouter k r).arrays = s.arrays := rfl
@[simp] theorem State.setRouter_net (s : State) (k : Nat) (r : Router) : (s.setRouter k r).net = s.net := rfl
@[simp] theorem State.setRouter_nextId (s : State) (k : Nat) (r : Router) : (s.setRouter k r).nextId = s.nextId := rfl
@[simp] theorem State.setRouter_ms (s : State) (k : Nat) (r : Router) : (s.setRouter k r).ms = s.ms := rfl
@[simp] theorem State.setRouter_fs (s : State) (k : Nat) (r : Router) : (s.setRouter k r).fs = s.fs := rfl
@[simp] theorem State.setRouter_volumes (s : State) (k : Nat) (r : Router) : (s.setRouter k r).volumes = s.volumes := rfl
@[simp] theorem State.setRouter_parts (s : State) (k : Nat) (r : Router) : (s.setRouter k r).parts = s.parts := rfl
@[simp] theorem State.setRouter_ports (s : State) (k : Nat) (r : Router) : (s.setRouter k r).ports = s.ports := rfl
@[simp] theorem State.setRouter_beds (s : State) (k : Nat) (r : Router) : (s.setRouter k r).beds = s.beds := rfl
@[simp] theorem State.setRouter_gel (s : State) (k : Nat) (r : Router) : (s.setRouter k r).gel = s.gel := rfl
@[simp] theorem State.setRouter_tune (s : State) (k : Nat) (r : Router) : (s.setRouter k r).tune = s.tune := rfl
@[simp] theorem State.setRouter_tally (s : State) (k : Nat) (r : Router) : (s.setRouter k r).tally = s.tally := rfl
@[simp] theorem State.setRouter_mgs (s : State) (k : Nat) (r : Router) : (s.setRouter k r).mgs = s.mgs := rfl
@[simp] theorem State.setRouter_fw (s : State) (k : Nat) (r : Router) : (s.setRouter k r).fw = s.fw := rfl
@[simp] theorem State.setRouter_out (s : State) (k : Nat) (r : Router) : (s.setRouter k r).out = s.out := rfl
@[simp] theorem State.setRouter_draws (s : State) (k : Nat) (r : Router) : (s.setRouter k r).draws = s.draws := rfl
@[simp] theorem State.setMem_pending (s : State) (k : Nat) (m : Ms) : (s.setMem k m).pending = s.pending := rfl
@[simp] theorem State.setMem_cores (s : State) (k : Nat) (m : Ms) : (s.setMem k m).cores = s.cores := rfl
@[simp] theorem State.setMem_arrays (s : State) (k : Nat) (m : Ms) : (s.setMem k m).arrays = s.arrays := rfl
@[simp] theorem State.setMem_net (s : State) (k : Nat) (m : Ms) : (s.setMem k m).net = s.net := rfl
@[simp] theorem State.setMem_nextId (s : State) (k : Nat) (m : Ms) : (s.setMem k m).nextId = s.nextId := rfl
@[simp] theorem State.setMem_routers (s : State) (k : Nat) (m : Ms) : (s.setMem k m).routers = s.routers := rfl
@[simp] theorem State.setMem_fs (s : State) (k : Nat) (m : Ms) : (s.setMem k m).fs = s.fs := rfl
@[simp] theorem State.setMem_volumes (s : State) (k : Nat) (m : Ms) : (s.setMem k m).volumes = s.volumes := rfl
@[simp] theorem State.setMem_parts (s : State) (k : Nat) (m : Ms) : (s.setMem k m).parts = s.parts := rfl
@[simp] theorem State.setMem_ports (s : State) (k : Nat) (m : Ms) : (s.setMem k m).ports = s.ports := rfl
@[simp] theorem State.setMem_beds (s : State) (k : Nat) (m : Ms) : (s.setMem k m).beds = s.beds := rfl
@[simp] theorem State.setMem_gel (s : State) (k : Nat) (m : Ms) : (s.setMem k m).gel = s.gel := rfl
@[simp] theorem State.setMem_tune (s : State) (k : Nat) (m : Ms) : (s.setMem k m).tune = s.tune := rfl
@[simp] theorem State.setMem_tally (s : State) (k : Nat) (m : Ms) : (s.setMem k m).tally = s.tally := rfl
@[simp] theorem State.setMem_mgs (s : State) (k : Nat) (m : Ms) : (s.setMem k m).mgs = s.mgs := rfl
@[simp] theorem State.setMem_fw (s : State) (k : Nat) (m : Ms) : (s.setMem k m).fw = s.fw := rfl
@[simp] theorem State.setMem_out (s : State) (k : Nat) (m : Ms) : (s.setMem k m).out = s.out := rfl
@[simp] theorem State.setMem_draws (s : State) (k : Nat) (m : Ms) : (s.setMem k m).draws = s.draws := rfl
@[simp] theorem State.setFlash_pending (s : State) (k : Nat) (f : Fs) : (s.setFlash k f).pending = s.pending := rfl
@[simp] theorem State.setFlash_cores (s : State) (k : Nat) (f : Fs) : (s.setFlash k f).cores = s.cores := rfl
@[simp] theorem State.setFlash_arrays (s : State) (k : Nat) (f : Fs) : (s.setFlash k f).arrays = s.arrays := rfl
@[simp] theorem State.setFlash_net (s : State) (k : Nat) (f : Fs) : (s.setFlash k f).net = s.net := rfl
@[simp] theorem State.setFlash_nextId (s : State) (k : Nat) (f : Fs) : (s.setFlash k f).nextId = s.nextId := rfl
@[simp] theorem State.setFlash_routers (s : State) (k : Nat) (f : Fs) : (s.setFlash k f).routers = s.routers := rfl
@[simp] theorem State.setFlash_ms (s : State) (k : Nat) (f : Fs) : (s.setFlash k f).ms = s.ms := rfl
@[simp] theorem State.setFlash_volumes (s : State) (k : Nat) (f : Fs) : (s.setFlash k f).volumes = s.volumes := rfl
@[simp] theorem State.setFlash_parts (s : State) (k : Nat) (f : Fs) : (s.setFlash k f).parts = s.parts := rfl
@[simp] theorem State.setFlash_ports (s : State) (k : Nat) (f : Fs) : (s.setFlash k f).ports = s.ports := rfl
@[simp] theorem State.setFlash_beds (s : State) (k : Nat) (f : Fs) : (s.setFlash k f).beds = s.beds := rfl
@[simp] theorem State.setFlash_gel (s : State) (k : Nat) (f : Fs) : (s.setFlash k f).gel = s.gel := rfl
@[simp] theorem State.setFlash_tune (s : State) (k : Nat) (f : Fs) : (s.setFlash k f).tune = s.tune := rfl
@[simp] theorem State.setFlash_tally (s : State) (k : Nat) (f : Fs) : (s.setFlash k f).tally = s.tally := rfl
@[simp] theorem State.setFlash_mgs (s : State) (k : Nat) (f : Fs) : (s.setFlash k f).mgs = s.mgs := rfl
@[simp] theorem State.setFlash_fw (s : State) (k : Nat) (f : Fs) : (s.setFlash k f).fw = s.fw := rfl
@[simp] theorem State.setFlash_out (s : State) (k : Nat) (f : Fs) : (s.setFlash k f).out = s.out := rfl
@[simp] theorem State.setFlash_draws (s : State) (k : Nat) (f : Fs) : (s.setFlash k f).draws = s.draws := rfl
@[simp] theorem State.setVolume_pending (s : State) (k : Nat) (v : Option Volume) : (s.setVolume k v).pending = s.pending := rfl
@[simp] theorem State.setVolume_cores (s : State) (k : Nat) (v : Option Volume) : (s.setVolume k v).cores = s.cores := rfl
@[simp] theorem State.setVolume_arrays (s : State) (k : Nat) (v : Option Volume) : (s.setVolume k v).arrays = s.arrays := rfl
@[simp] theorem State.setVolume_net (s : State) (k : Nat) (v : Option Volume) : (s.setVolume k v).net = s.net := rfl
@[simp] theorem State.setVolume_nextId (s : State) (k : Nat) (v : Option Volume) : (s.setVolume k v).nextId = s.nextId := rfl
@[simp] theorem State.setVolume_routers (s : State) (k : Nat) (v : Option Volume) : (s.setVolume k v).routers = s.routers := rfl
@[simp] theorem State.setVolume_ms (s : State) (k : Nat) (v : Option Volume) : (s.setVolume k v).ms = s.ms := rfl
@[simp] theorem State.setVolume_fs (s : State) (k : Nat) (v : Option Volume) : (s.setVolume k v).fs = s.fs := rfl
@[simp] theorem State.setVolume_parts (s : State) (k : Nat) (v : Option Volume) : (s.setVolume k v).parts = s.parts := rfl
@[simp] theorem State.setVolume_ports (s : State) (k : Nat) (v : Option Volume) : (s.setVolume k v).ports = s.ports := rfl
@[simp] theorem State.setVolume_beds (s : State) (k : Nat) (v : Option Volume) : (s.setVolume k v).beds = s.beds := rfl
@[simp] theorem State.setVolume_gel (s : State) (k : Nat) (v : Option Volume) : (s.setVolume k v).gel = s.gel := rfl
@[simp] theorem State.setVolume_tune (s : State) (k : Nat) (v : Option Volume) : (s.setVolume k v).tune = s.tune := rfl
@[simp] theorem State.setVolume_tally (s : State) (k : Nat) (v : Option Volume) : (s.setVolume k v).tally = s.tally := rfl
@[simp] theorem State.setVolume_mgs (s : State) (k : Nat) (v : Option Volume) : (s.setVolume k v).mgs = s.mgs := rfl
@[simp] theorem State.setVolume_fw (s : State) (k : Nat) (v : Option Volume) : (s.setVolume k v).fw = s.fw := rfl
@[simp] theorem State.setVolume_out (s : State) (k : Nat) (v : Option Volume) : (s.setVolume k v).out = s.out := rfl
@[simp] theorem State.setVolume_draws (s : State) (k : Nat) (v : Option Volume) : (s.setVolume k v).draws = s.draws := rfl
@[simp] theorem State.setPart_pending (s : State) (k : Nat) (q : Part) : (s.setPart k q).pending = s.pending := rfl
@[simp] theorem State.setPart_cores (s : State) (k : Nat) (q : Part) : (s.setPart k q).cores = s.cores := rfl
@[simp] theorem State.setPart_arrays (s : State) (k : Nat) (q : Part) : (s.setPart k q).arrays = s.arrays := rfl
@[simp] theorem State.setPart_net (s : State) (k : Nat) (q : Part) : (s.setPart k q).net = s.net := rfl
@[simp] theorem State.setPart_nextId (s : State) (k : Nat) (q : Part) : (s.setPart k q).nextId = s.nextId := rfl
@[simp] theorem State.setPart_routers (s : State) (k : Nat) (q : Part) : (s.setPart k q).routers = s.routers := rfl
@[simp] theorem State.setPart_ms (s : State) (k : Nat) (q : Part) : (s.setPart k q).ms = s.ms := rfl
@[simp] theorem State.setPart_fs (s : State) (k : Nat) (q : Part) : (s.setPart k q).fs = s.fs := rfl
@[simp] theorem State.setPart_volumes (s : State) (k : Nat) (q : Part) : (s.setPart k q).volumes = s.volumes := rfl
@[simp] theorem State.setPart_ports (s : State) (k : Nat) (q : Part) : (s.setPart k q).ports = s.ports := rfl
@[simp] theorem State.setPart_beds (s : State) (k : Nat) (q : Part) : (s.setPart k q).beds = s.beds := rfl
@[simp] theorem State.setPart_gel (s : State) (k : Nat) (q : Part) : (s.setPart k q).gel = s.gel := rfl
@[simp] theorem State.setPart_tune (s : State) (k : Nat) (q : Part) : (s.setPart k q).tune = s.tune := rfl
@[simp] theorem State.setPart_tally (s : State) (k : Nat) (q : Part) : (s.setPart k q).tally = s.tally := rfl
@[simp] theorem State.setPart_mgs (s : State) (k : Nat) (q : Part) : (s.setPart k q).mgs = s.mgs := rfl
@[simp] theorem State.setPart_fw (s : State) (k : Nat) (q : Part) : (s.setPart k q).fw = s.fw := rfl
@[simp] theorem State.setPart_out (s : State) (k : Nat) (q : Part) : (s.setPart k q).out = s.out := rfl
@[simp] theorem State.setPart_draws (s : State) (k : Nat) (q : Part) : (s.setPart k q).draws = s.draws := rfl
@[simp] theorem State.setPort_pending (s : State) (k : Nat) (q : Port) : (s.setPort k q).pending = s.pending := rfl
@[simp] theorem State.setPort_cores (s : State) (k : Nat) (q : Port) : (s.setPort k q).cores = s.cores := rfl
@[simp] theorem State.setPort_arrays (s : State) (k : Nat) (q : Port) : (s.setPort k q).arrays = s.arrays := rfl
@[simp] theorem State.setPort_net (s : State) (k : Nat) (q : Port) : (s.setPort k q).net = s.net := rfl
@[simp] theorem State.setPort_nextId (s : State) (k : Nat) (q : Port) : (s.setPort k q).nextId = s.nextId := rfl
@[simp] theorem State.setPort_routers (s : State) (k : Nat) (q : Port) : (s.setPort k q).routers = s.routers := rfl
@[simp] theorem State.setPort_ms (s : State) (k : Nat) (q : Port) : (s.setPort k q).ms = s.ms := rfl
@[simp] theorem State.setPort_fs (s : State) (k : Nat) (q : Port) : (s.setPort k q).fs = s.fs := rfl
@[simp] theorem State.setPort_volumes (s : State) (k : Nat) (q : Port) : (s.setPort k q).volumes = s.volumes := rfl
@[simp] theorem State.setPort_parts (s : State) (k : Nat) (q : Port) : (s.setPort k q).parts = s.parts := rfl
@[simp] theorem State.setPort_beds (s : State) (k : Nat) (q : Port) : (s.setPort k q).beds = s.beds := rfl
@[simp] theorem State.setPort_gel (s : State) (k : Nat) (q : Port) : (s.setPort k q).gel = s.gel := rfl
@[simp] theorem State.setPort_tune (s : State) (k : Nat) (q : Port) : (s.setPort k q).tune = s.tune := rfl
@[simp] theorem State.setPort_tally (s : State) (k : Nat) (q : Port) : (s.setPort k q).tally = s.tally := rfl
@[simp] theorem State.setPort_mgs (s : State) (k : Nat) (q : Port) : (s.setPort k q).mgs = s.mgs := rfl
@[simp] theorem State.setPort_fw (s : State) (k : Nat) (q : Port) : (s.setPort k q).fw = s.fw := rfl
@[simp] theorem State.setPort_out (s : State) (k : Nat) (q : Port) : (s.setPort k q).out = s.out := rfl
@[simp] theorem State.setPort_draws (s : State) (k : Nat) (q : Port) : (s.setPort k q).draws = s.draws := rfl
@[simp] theorem State.setBed_pending (s : State) (k : Nat) (d : Bed) : (s.setBed k d).pending = s.pending := rfl
@[simp] theorem State.setBed_cores (s : State) (k : Nat) (d : Bed) : (s.setBed k d).cores = s.cores := rfl
@[simp] theorem State.setBed_arrays (s : State) (k : Nat) (d : Bed) : (s.setBed k d).arrays = s.arrays := rfl
@[simp] theorem State.setBed_net (s : State) (k : Nat) (d : Bed) : (s.setBed k d).net = s.net := rfl
@[simp] theorem State.setBed_nextId (s : State) (k : Nat) (d : Bed) : (s.setBed k d).nextId = s.nextId := rfl
@[simp] theorem State.setBed_routers (s : State) (k : Nat) (d : Bed) : (s.setBed k d).routers = s.routers := rfl
@[simp] theorem State.setBed_ms (s : State) (k : Nat) (d : Bed) : (s.setBed k d).ms = s.ms := rfl
@[simp] theorem State.setBed_fs (s : State) (k : Nat) (d : Bed) : (s.setBed k d).fs = s.fs := rfl
@[simp] theorem State.setBed_volumes (s : State) (k : Nat) (d : Bed) : (s.setBed k d).volumes = s.volumes := rfl
@[simp] theorem State.setBed_parts (s : State) (k : Nat) (d : Bed) : (s.setBed k d).parts = s.parts := rfl
@[simp] theorem State.setBed_ports (s : State) (k : Nat) (d : Bed) : (s.setBed k d).ports = s.ports := rfl
@[simp] theorem State.setBed_gel (s : State) (k : Nat) (d : Bed) : (s.setBed k d).gel = s.gel := rfl
@[simp] theorem State.setBed_tune (s : State) (k : Nat) (d : Bed) : (s.setBed k d).tune = s.tune := rfl
@[simp] theorem State.setBed_tally (s : State) (k : Nat) (d : Bed) : (s.setBed k d).tally = s.tally := rfl
@[simp] theorem State.setBed_mgs (s : State) (k : Nat) (d : Bed) : (s.setBed k d).mgs = s.mgs := rfl
@[simp] theorem State.setBed_fw (s : State) (k : Nat) (d : Bed) : (s.setBed k d).fw = s.fw := rfl
@[simp] theorem State.setBed_out (s : State) (k : Nat) (d : Bed) : (s.setBed k d).out = s.out := rfl
@[simp] theorem State.setBed_draws (s : State) (k : Nat) (d : Bed) : (s.setBed k d).draws = s.draws := rfl
@[simp] theorem State.setSess_pending (s : State) (k : Nat) (c : Sess) : (s.setSess k c).pending = s.pending := rfl
@[simp] theorem State.setSess_cores (s : State) (k : Nat) (c : Sess) : (s.setSess k c).cores = s.cores := rfl
@[simp] theorem State.setSess_arrays (s : State) (k : Nat) (c : Sess) : (s.setSess k c).arrays = s.arrays := rfl
@[simp] theorem State.setSess_net (s : State) (k : Nat) (c : Sess) : (s.setSess k c).net = s.net := rfl
@[simp] theorem State.setSess_nextId (s : State) (k : Nat) (c : Sess) : (s.setSess k c).nextId = s.nextId := rfl
@[simp] theorem State.setSess_routers (s : State) (k : Nat) (c : Sess) : (s.setSess k c).routers = s.routers := rfl
@[simp] theorem State.setSess_ms (s : State) (k : Nat) (c : Sess) : (s.setSess k c).ms = s.ms := rfl
@[simp] theorem State.setSess_fs (s : State) (k : Nat) (c : Sess) : (s.setSess k c).fs = s.fs := rfl
@[simp] theorem State.setSess_volumes (s : State) (k : Nat) (c : Sess) : (s.setSess k c).volumes = s.volumes := rfl
@[simp] theorem State.setSess_parts (s : State) (k : Nat) (c : Sess) : (s.setSess k c).parts = s.parts := rfl
@[simp] theorem State.setSess_ports (s : State) (k : Nat) (c : Sess) : (s.setSess k c).ports = s.ports := rfl
@[simp] theorem State.setSess_beds (s : State) (k : Nat) (c : Sess) : (s.setSess k c).beds = s.beds := rfl
@[simp] theorem State.setSess_tune (s : State) (k : Nat) (c : Sess) : (s.setSess k c).tune = s.tune := rfl
@[simp] theorem State.setSess_tally (s : State) (k : Nat) (c : Sess) : (s.setSess k c).tally = s.tally := rfl
@[simp] theorem State.setSess_mgs (s : State) (k : Nat) (c : Sess) : (s.setSess k c).mgs = s.mgs := rfl
@[simp] theorem State.setSess_fw (s : State) (k : Nat) (c : Sess) : (s.setSess k c).fw = s.fw := rfl
@[simp] theorem State.setSess_out (s : State) (k : Nat) (c : Sess) : (s.setSess k c).out = s.out := rfl
@[simp] theorem State.setSess_draws (s : State) (k : Nat) (c : Sess) : (s.setSess k c).draws = s.draws := rfl
@[simp] theorem State.setSeg_pending (s : State) (k : Nat) (g : Seg) : (s.setSeg k g).pending = s.pending := rfl
@[simp] theorem State.setSeg_cores (s : State) (k : Nat) (g : Seg) : (s.setSeg k g).cores = s.cores := rfl
@[simp] theorem State.setSeg_arrays (s : State) (k : Nat) (g : Seg) : (s.setSeg k g).arrays = s.arrays := rfl
@[simp] theorem State.setSeg_net (s : State) (k : Nat) (g : Seg) : (s.setSeg k g).net = s.net := rfl
@[simp] theorem State.setSeg_nextId (s : State) (k : Nat) (g : Seg) : (s.setSeg k g).nextId = s.nextId := rfl
@[simp] theorem State.setSeg_routers (s : State) (k : Nat) (g : Seg) : (s.setSeg k g).routers = s.routers := rfl
@[simp] theorem State.setSeg_ms (s : State) (k : Nat) (g : Seg) : (s.setSeg k g).ms = s.ms := rfl
@[simp] theorem State.setSeg_fs (s : State) (k : Nat) (g : Seg) : (s.setSeg k g).fs = s.fs := rfl
@[simp] theorem State.setSeg_volumes (s : State) (k : Nat) (g : Seg) : (s.setSeg k g).volumes = s.volumes := rfl
@[simp] theorem State.setSeg_parts (s : State) (k : Nat) (g : Seg) : (s.setSeg k g).parts = s.parts := rfl
@[simp] theorem State.setSeg_ports (s : State) (k : Nat) (g : Seg) : (s.setSeg k g).ports = s.ports := rfl
@[simp] theorem State.setSeg_beds (s : State) (k : Nat) (g : Seg) : (s.setSeg k g).beds = s.beds := rfl
@[simp] theorem State.setSeg_tune (s : State) (k : Nat) (g : Seg) : (s.setSeg k g).tune = s.tune := rfl
@[simp] theorem State.setSeg_tally (s : State) (k : Nat) (g : Seg) : (s.setSeg k g).tally = s.tally := rfl
@[simp] theorem State.setSeg_mgs (s : State) (k : Nat) (g : Seg) : (s.setSeg k g).mgs = s.mgs := rfl
@[simp] theorem State.setSeg_fw (s : State) (k : Nat) (g : Seg) : (s.setSeg k g).fw = s.fw := rfl
@[simp] theorem State.setSeg_out (s : State) (k : Nat) (g : Seg) : (s.setSeg k g).out = s.out := rfl
@[simp] theorem State.setSeg_draws (s : State) (k : Nat) (g : Seg) : (s.setSeg k g).draws = s.draws := rfl
@[simp] theorem State.emit_pending (s : State) (o : Out) : (s.emit o).pending = s.pending := rfl
@[simp] theorem State.emit_cores (s : State) (o : Out) : (s.emit o).cores = s.cores := rfl
@[simp] theorem State.emit_arrays (s : State) (o : Out) : (s.emit o).arrays = s.arrays := rfl
@[simp] theorem State.emit_net (s : State) (o : Out) : (s.emit o).net = s.net := rfl
@[simp] theorem State.emit_nextId (s : State) (o : Out) : (s.emit o).nextId = s.nextId := rfl
@[simp] theorem State.emit_routers (s : State) (o : Out) : (s.emit o).routers = s.routers := rfl
@[simp] theorem State.emit_ms (s : State) (o : Out) : (s.emit o).ms = s.ms := rfl
@[simp] theorem State.emit_fs (s : State) (o : Out) : (s.emit o).fs = s.fs := rfl
@[simp] theorem State.emit_volumes (s : State) (o : Out) : (s.emit o).volumes = s.volumes := rfl
@[simp] theorem State.emit_parts (s : State) (o : Out) : (s.emit o).parts = s.parts := rfl
@[simp] theorem State.emit_ports (s : State) (o : Out) : (s.emit o).ports = s.ports := rfl
@[simp] theorem State.emit_beds (s : State) (o : Out) : (s.emit o).beds = s.beds := rfl
@[simp] theorem State.emit_gel (s : State) (o : Out) : (s.emit o).gel = s.gel := rfl
@[simp] theorem State.emit_tune (s : State) (o : Out) : (s.emit o).tune = s.tune := rfl
@[simp] theorem State.emit_tally (s : State) (o : Out) : (s.emit o).tally = s.tally := rfl
@[simp] theorem State.emit_mgs (s : State) (o : Out) : (s.emit o).mgs = s.mgs := rfl
@[simp] theorem State.emit_fw (s : State) (o : Out) : (s.emit o).fw = s.fw := rfl
@[simp] theorem State.emit_draws (s : State) (o : Out) : (s.emit o).draws = s.draws := rfl
@[simp] theorem State.event_pending (s : State) (code source part param : Nat) : (s.event code source part param).pending = s.pending := rfl
@[simp] theorem State.event_cores (s : State) (code source part param : Nat) : (s.event code source part param).cores = s.cores := rfl
@[simp] theorem State.event_arrays (s : State) (code source part param : Nat) : (s.event code source part param).arrays = s.arrays := rfl
@[simp] theorem State.event_net (s : State) (code source part param : Nat) : (s.event code source part param).net = s.net := rfl
@[simp] theorem State.event_nextId (s : State) (code source part param : Nat) : (s.event code source part param).nextId = s.nextId := rfl
@[simp] theorem State.event_routers (s : State) (code source part param : Nat) : (s.event code source part param).routers = s.routers := rfl
@[simp] theorem State.event_ms (s : State) (code source part param : Nat) : (s.event code source part param).ms = s.ms := rfl
@[simp] theorem State.event_fs (s : State) (code source part param : Nat) : (s.event code source part param).fs = s.fs := rfl
@[simp] theorem State.event_volumes (s : State) (code source part param : Nat) : (s.event code source part param).volumes = s.volumes := rfl
@[simp] theorem State.event_parts (s : State) (code source part param : Nat) : (s.event code source part param).parts = s.parts := rfl
@[simp] theorem State.event_ports (s : State) (code source part param : Nat) : (s.event code source part param).ports = s.ports := rfl
@[simp] theorem State.event_beds (s : State) (code source part param : Nat) : (s.event code source part param).beds = s.beds := rfl
@[simp] theorem State.event_tune (s : State) (code source part param : Nat) : (s.event code source part param).tune = s.tune := rfl
@[simp] theorem State.event_tally (s : State) (code source part param : Nat) : (s.event code source part param).tally = s.tally := rfl
@[simp] theorem State.event_mgs (s : State) (code source part param : Nat) : (s.event code source part param).mgs = s.mgs := rfl
@[simp] theorem State.event_fw (s : State) (code source part param : Nat) : (s.event code source part param).fw = s.fw := rfl
@[simp] theorem State.event_out (s : State) (code source part param : Nat) : (s.event code source part param).out = s.out := rfl
@[simp] theorem State.event_draws (s : State) (code source part param : Nat) : (s.event code source part param).draws = s.draws := rfl
@[simp] theorem State.inject_pending (s : State) (p cls epoch : Nat) (l : Loc) (e : Nat) (b : Body) : (s.inject p cls epoch l e b).pending = s.pending := rfl
@[simp] theorem State.inject_cores (s : State) (p cls epoch : Nat) (l : Loc) (e : Nat) (b : Body) : (s.inject p cls epoch l e b).cores = s.cores := rfl
@[simp] theorem State.inject_arrays (s : State) (p cls epoch : Nat) (l : Loc) (e : Nat) (b : Body) : (s.inject p cls epoch l e b).arrays = s.arrays := rfl
@[simp] theorem State.inject_routers (s : State) (p cls epoch : Nat) (l : Loc) (e : Nat) (b : Body) : (s.inject p cls epoch l e b).routers = s.routers := rfl
@[simp] theorem State.inject_ms (s : State) (p cls epoch : Nat) (l : Loc) (e : Nat) (b : Body) : (s.inject p cls epoch l e b).ms = s.ms := rfl
@[simp] theorem State.inject_fs (s : State) (p cls epoch : Nat) (l : Loc) (e : Nat) (b : Body) : (s.inject p cls epoch l e b).fs = s.fs := rfl
@[simp] theorem State.inject_volumes (s : State) (p cls epoch : Nat) (l : Loc) (e : Nat) (b : Body) : (s.inject p cls epoch l e b).volumes = s.volumes := rfl
@[simp] theorem State.inject_parts (s : State) (p cls epoch : Nat) (l : Loc) (e : Nat) (b : Body) : (s.inject p cls epoch l e b).parts = s.parts := rfl
@[simp] theorem State.inject_ports (s : State) (p cls epoch : Nat) (l : Loc) (e : Nat) (b : Body) : (s.inject p cls epoch l e b).ports = s.ports := rfl
@[simp] theorem State.inject_beds (s : State) (p cls epoch : Nat) (l : Loc) (e : Nat) (b : Body) : (s.inject p cls epoch l e b).beds = s.beds := rfl
@[simp] theorem State.inject_gel (s : State) (p cls epoch : Nat) (l : Loc) (e : Nat) (b : Body) : (s.inject p cls epoch l e b).gel = s.gel := rfl
@[simp] theorem State.inject_tune (s : State) (p cls epoch : Nat) (l : Loc) (e : Nat) (b : Body) : (s.inject p cls epoch l e b).tune = s.tune := rfl
@[simp] theorem State.inject_tally (s : State) (p cls epoch : Nat) (l : Loc) (e : Nat) (b : Body) : (s.inject p cls epoch l e b).tally = s.tally := rfl
@[simp] theorem State.inject_mgs (s : State) (p cls epoch : Nat) (l : Loc) (e : Nat) (b : Body) : (s.inject p cls epoch l e b).mgs = s.mgs := rfl
@[simp] theorem State.inject_fw (s : State) (p cls epoch : Nat) (l : Loc) (e : Nat) (b : Body) : (s.inject p cls epoch l e b).fw = s.fw := rfl
@[simp] theorem State.inject_out (s : State) (p cls epoch : Nat) (l : Loc) (e : Nat) (b : Body) : (s.inject p cls epoch l e b).out = s.out := rfl
@[simp] theorem State.inject_draws (s : State) (p cls epoch : Nat) (l : Loc) (e : Nat) (b : Body) : (s.inject p cls epoch l e b).draws = s.draws := rfl
@[simp] theorem State.injectFor_pending (s : State) (p : Nat) (l : Loc) (e : Nat) (b : Body) : (s.injectFor p l e b).pending = s.pending := rfl
@[simp] theorem State.injectFor_cores (s : State) (p : Nat) (l : Loc) (e : Nat) (b : Body) : (s.injectFor p l e b).cores = s.cores := rfl
@[simp] theorem State.injectFor_arrays (s : State) (p : Nat) (l : Loc) (e : Nat) (b : Body) : (s.injectFor p l e b).arrays = s.arrays := rfl
@[simp] theorem State.injectFor_routers (s : State) (p : Nat) (l : Loc) (e : Nat) (b : Body) : (s.injectFor p l e b).routers = s.routers := rfl
@[simp] theorem State.injectFor_ms (s : State) (p : Nat) (l : Loc) (e : Nat) (b : Body) : (s.injectFor p l e b).ms = s.ms := rfl
@[simp] theorem State.injectFor_fs (s : State) (p : Nat) (l : Loc) (e : Nat) (b : Body) : (s.injectFor p l e b).fs = s.fs := rfl
@[simp] theorem State.injectFor_volumes (s : State) (p : Nat) (l : Loc) (e : Nat) (b : Body) : (s.injectFor p l e b).volumes = s.volumes := rfl
@[simp] theorem State.injectFor_parts (s : State) (p : Nat) (l : Loc) (e : Nat) (b : Body) : (s.injectFor p l e b).parts = s.parts := rfl
@[simp] theorem State.injectFor_ports (s : State) (p : Nat) (l : Loc) (e : Nat) (b : Body) : (s.injectFor p l e b).ports = s.ports := rfl
@[simp] theorem State.injectFor_beds (s : State) (p : Nat) (l : Loc) (e : Nat) (b : Body) : (s.injectFor p l e b).beds = s.beds := rfl
@[simp] theorem State.injectFor_gel (s : State) (p : Nat) (l : Loc) (e : Nat) (b : Body) : (s.injectFor p l e b).gel = s.gel := rfl
@[simp] theorem State.injectFor_tune (s : State) (p : Nat) (l : Loc) (e : Nat) (b : Body) : (s.injectFor p l e b).tune = s.tune := rfl
@[simp] theorem State.injectFor_tally (s : State) (p : Nat) (l : Loc) (e : Nat) (b : Body) : (s.injectFor p l e b).tally = s.tally := rfl
@[simp] theorem State.injectFor_mgs (s : State) (p : Nat) (l : Loc) (e : Nat) (b : Body) : (s.injectFor p l e b).mgs = s.mgs := rfl
@[simp] theorem State.injectFor_fw (s : State) (p : Nat) (l : Loc) (e : Nat) (b : Body) : (s.injectFor p l e b).fw = s.fw := rfl
@[simp] theorem State.injectFor_out (s : State) (p : Nat) (l : Loc) (e : Nat) (b : Body) : (s.injectFor p l e b).out = s.out := rfl
@[simp] theorem State.injectFor_draws (s : State) (p : Nat) (l : Loc) (e : Nat) (b : Body) : (s.injectFor p l e b).draws = s.draws := rfl
@[simp] theorem State.consume_pending (s : State) (id : Nat) : (s.consume id).pending = s.pending := rfl
@[simp] theorem State.consume_cores (s : State) (id : Nat) : (s.consume id).cores = s.cores := rfl
@[simp] theorem State.consume_arrays (s : State) (id : Nat) : (s.consume id).arrays = s.arrays := rfl
@[simp] theorem State.consume_nextId (s : State) (id : Nat) : (s.consume id).nextId = s.nextId := rfl
@[simp] theorem State.consume_routers (s : State) (id : Nat) : (s.consume id).routers = s.routers := rfl
@[simp] theorem State.consume_ms (s : State) (id : Nat) : (s.consume id).ms = s.ms := rfl
@[simp] theorem State.consume_fs (s : State) (id : Nat) : (s.consume id).fs = s.fs := rfl
@[simp] theorem State.consume_volumes (s : State) (id : Nat) : (s.consume id).volumes = s.volumes := rfl
@[simp] theorem State.consume_parts (s : State) (id : Nat) : (s.consume id).parts = s.parts := rfl
@[simp] theorem State.consume_ports (s : State) (id : Nat) : (s.consume id).ports = s.ports := rfl
@[simp] theorem State.consume_beds (s : State) (id : Nat) : (s.consume id).beds = s.beds := rfl
@[simp] theorem State.consume_gel (s : State) (id : Nat) : (s.consume id).gel = s.gel := rfl
@[simp] theorem State.consume_tune (s : State) (id : Nat) : (s.consume id).tune = s.tune := rfl
@[simp] theorem State.consume_tally (s : State) (id : Nat) : (s.consume id).tally = s.tally := rfl
@[simp] theorem State.consume_mgs (s : State) (id : Nat) : (s.consume id).mgs = s.mgs := rfl
@[simp] theorem State.consume_fw (s : State) (id : Nat) : (s.consume id).fw = s.fw := rfl
@[simp] theorem State.consume_out (s : State) (id : Nat) : (s.consume id).out = s.out := rfl
@[simp] theorem State.consume_draws (s : State) (id : Nat) : (s.consume id).draws = s.draws := rfl
@[simp] theorem State.draw_pending (s : State) : (s.draw).pending = s.pending := rfl
@[simp] theorem State.draw_cores (s : State) : (s.draw).cores = s.cores := rfl
@[simp] theorem State.draw_arrays (s : State) : (s.draw).arrays = s.arrays := rfl
@[simp] theorem State.draw_net (s : State) : (s.draw).net = s.net := rfl
@[simp] theorem State.draw_nextId (s : State) : (s.draw).nextId = s.nextId := rfl
@[simp] theorem State.draw_routers (s : State) : (s.draw).routers = s.routers := rfl
@[simp] theorem State.draw_ms (s : State) : (s.draw).ms = s.ms := rfl
@[simp] theorem State.draw_fs (s : State) : (s.draw).fs = s.fs := rfl
@[simp] theorem State.draw_volumes (s : State) : (s.draw).volumes = s.volumes := rfl
@[simp] theorem State.draw_parts (s : State) : (s.draw).parts = s.parts := rfl
@[simp] theorem State.draw_ports (s : State) : (s.draw).ports = s.ports := rfl
@[simp] theorem State.draw_beds (s : State) : (s.draw).beds = s.beds := rfl
@[simp] theorem State.draw_gel (s : State) : (s.draw).gel = s.gel := rfl
@[simp] theorem State.draw_tune (s : State) : (s.draw).tune = s.tune := rfl
@[simp] theorem State.draw_tally (s : State) : (s.draw).tally = s.tally := rfl
@[simp] theorem State.draw_mgs (s : State) : (s.draw).mgs = s.mgs := rfl
@[simp] theorem State.draw_fw (s : State) : (s.draw).fw = s.fw := rfl
@[simp] theorem State.draw_out (s : State) : (s.draw).out = s.out := rfl
@[simp] theorem mapCores_pending (s : State) (l : List Nat) (f : Core → Core) : (mapCores s l f).pending = s.pending := rfl
@[simp] theorem mapCores_arrays (s : State) (l : List Nat) (f : Core → Core) : (mapCores s l f).arrays = s.arrays := rfl
@[simp] theorem mapCores_net (s : State) (l : List Nat) (f : Core → Core) : (mapCores s l f).net = s.net := rfl
@[simp] theorem mapCores_nextId (s : State) (l : List Nat) (f : Core → Core) : (mapCores s l f).nextId = s.nextId := rfl
@[simp] theorem mapCores_routers (s : State) (l : List Nat) (f : Core → Core) : (mapCores s l f).routers = s.routers := rfl
@[simp] theorem mapCores_ms (s : State) (l : List Nat) (f : Core → Core) : (mapCores s l f).ms = s.ms := rfl
@[simp] theorem mapCores_fs (s : State) (l : List Nat) (f : Core → Core) : (mapCores s l f).fs = s.fs := rfl
@[simp] theorem mapCores_volumes (s : State) (l : List Nat) (f : Core → Core) : (mapCores s l f).volumes = s.volumes := rfl
@[simp] theorem mapCores_parts (s : State) (l : List Nat) (f : Core → Core) : (mapCores s l f).parts = s.parts := rfl
@[simp] theorem mapCores_ports (s : State) (l : List Nat) (f : Core → Core) : (mapCores s l f).ports = s.ports := rfl
@[simp] theorem mapCores_beds (s : State) (l : List Nat) (f : Core → Core) : (mapCores s l f).beds = s.beds := rfl
@[simp] theorem mapCores_gel (s : State) (l : List Nat) (f : Core → Core) : (mapCores s l f).gel = s.gel := rfl
@[simp] theorem mapCores_tune (s : State) (l : List Nat) (f : Core → Core) : (mapCores s l f).tune = s.tune := rfl
@[simp] theorem mapCores_tally (s : State) (l : List Nat) (f : Core → Core) : (mapCores s l f).tally = s.tally := rfl
@[simp] theorem mapCores_mgs (s : State) (l : List Nat) (f : Core → Core) : (mapCores s l f).mgs = s.mgs := rfl
@[simp] theorem mapCores_fw (s : State) (l : List Nat) (f : Core → Core) : (mapCores s l f).fw = s.fw := rfl
@[simp] theorem mapCores_out (s : State) (l : List Nat) (f : Core → Core) : (mapCores s l f).out = s.out := rfl
@[simp] theorem mapCores_draws (s : State) (l : List Nat) (f : Core → Core) : (mapCores s l f).draws = s.draws := rfl
@[simp] theorem mapRouters_pending (s : State) (f : Router → Router) : (mapRouters s f).pending = s.pending := rfl
@[simp] theorem mapRouters_cores (s : State) (f : Router → Router) : (mapRouters s f).cores = s.cores := rfl
@[simp] theorem mapRouters_arrays (s : State) (f : Router → Router) : (mapRouters s f).arrays = s.arrays := rfl
@[simp] theorem mapRouters_net (s : State) (f : Router → Router) : (mapRouters s f).net = s.net := rfl
@[simp] theorem mapRouters_nextId (s : State) (f : Router → Router) : (mapRouters s f).nextId = s.nextId := rfl
@[simp] theorem mapRouters_ms (s : State) (f : Router → Router) : (mapRouters s f).ms = s.ms := rfl
@[simp] theorem mapRouters_fs (s : State) (f : Router → Router) : (mapRouters s f).fs = s.fs := rfl
@[simp] theorem mapRouters_volumes (s : State) (f : Router → Router) : (mapRouters s f).volumes = s.volumes := rfl
@[simp] theorem mapRouters_parts (s : State) (f : Router → Router) : (mapRouters s f).parts = s.parts := rfl
@[simp] theorem mapRouters_ports (s : State) (f : Router → Router) : (mapRouters s f).ports = s.ports := rfl
@[simp] theorem mapRouters_beds (s : State) (f : Router → Router) : (mapRouters s f).beds = s.beds := rfl
@[simp] theorem mapRouters_gel (s : State) (f : Router → Router) : (mapRouters s f).gel = s.gel := rfl
@[simp] theorem mapRouters_tune (s : State) (f : Router → Router) : (mapRouters s f).tune = s.tune := rfl
@[simp] theorem mapRouters_tally (s : State) (f : Router → Router) : (mapRouters s f).tally = s.tally := rfl
@[simp] theorem mapRouters_mgs (s : State) (f : Router → Router) : (mapRouters s f).mgs = s.mgs := rfl
@[simp] theorem mapRouters_fw (s : State) (f : Router → Router) : (mapRouters s f).fw = s.fw := rfl
@[simp] theorem mapRouters_out (s : State) (f : Router → Router) : (mapRouters s f).out = s.out := rfl
@[simp] theorem mapRouters_draws (s : State) (f : Router → Router) : (mapRouters s f).draws = s.draws := rfl
@[simp] theorem mapMs_pending (s : State) (f : Ms → Ms) : (mapMs s f).pending = s.pending := rfl
@[simp] theorem mapMs_cores (s : State) (f : Ms → Ms) : (mapMs s f).cores = s.cores := rfl
@[simp] theorem mapMs_arrays (s : State) (f : Ms → Ms) : (mapMs s f).arrays = s.arrays := rfl
@[simp] theorem mapMs_net (s : State) (f : Ms → Ms) : (mapMs s f).net = s.net := rfl
@[simp] theorem mapMs_nextId (s : State) (f : Ms → Ms) : (mapMs s f).nextId = s.nextId := rfl
@[simp] theorem mapMs_routers (s : State) (f : Ms → Ms) : (mapMs s f).routers = s.routers := rfl
@[simp] theorem mapMs_fs (s : State) (f : Ms → Ms) : (mapMs s f).fs = s.fs := rfl
@[simp] theorem mapMs_volumes (s : State) (f : Ms → Ms) : (mapMs s f).volumes = s.volumes := rfl
@[simp] theorem mapMs_parts (s : State) (f : Ms → Ms) : (mapMs s f).parts = s.parts := rfl
@[simp] theorem mapMs_ports (s : State) (f : Ms → Ms) : (mapMs s f).ports = s.ports := rfl
@[simp] theorem mapMs_beds (s : State) (f : Ms → Ms) : (mapMs s f).beds = s.beds := rfl
@[simp] theorem mapMs_gel (s : State) (f : Ms → Ms) : (mapMs s f).gel = s.gel := rfl
@[simp] theorem mapMs_tune (s : State) (f : Ms → Ms) : (mapMs s f).tune = s.tune := rfl
@[simp] theorem mapMs_tally (s : State) (f : Ms → Ms) : (mapMs s f).tally = s.tally := rfl
@[simp] theorem mapMs_mgs (s : State) (f : Ms → Ms) : (mapMs s f).mgs = s.mgs := rfl
@[simp] theorem mapMs_fw (s : State) (f : Ms → Ms) : (mapMs s f).fw = s.fw := rfl
@[simp] theorem mapMs_out (s : State) (f : Ms → Ms) : (mapMs s f).out = s.out := rfl
@[simp] theorem mapMs_draws (s : State) (f : Ms → Ms) : (mapMs s f).draws = s.draws := rfl
@[simp] theorem mapFs_pending (s : State) (f : Fs → Fs) : (mapFs s f).pending = s.pending := rfl
@[simp] theorem mapFs_cores (s : State) (f : Fs → Fs) : (mapFs s f).cores = s.cores := rfl
@[simp] theorem mapFs_arrays (s : State) (f : Fs → Fs) : (mapFs s f).arrays = s.arrays := rfl
@[simp] theorem mapFs_net (s : State) (f : Fs → Fs) : (mapFs s f).net = s.net := rfl
@[simp] theorem mapFs_nextId (s : State) (f : Fs → Fs) : (mapFs s f).nextId = s.nextId := rfl
@[simp] theorem mapFs_routers (s : State) (f : Fs → Fs) : (mapFs s f).routers = s.routers := rfl
@[simp] theorem mapFs_ms (s : State) (f : Fs → Fs) : (mapFs s f).ms = s.ms := rfl
@[simp] theorem mapFs_volumes (s : State) (f : Fs → Fs) : (mapFs s f).volumes = s.volumes := rfl
@[simp] theorem mapFs_parts (s : State) (f : Fs → Fs) : (mapFs s f).parts = s.parts := rfl
@[simp] theorem mapFs_ports (s : State) (f : Fs → Fs) : (mapFs s f).ports = s.ports := rfl
@[simp] theorem mapFs_beds (s : State) (f : Fs → Fs) : (mapFs s f).beds = s.beds := rfl
@[simp] theorem mapFs_gel (s : State) (f : Fs → Fs) : (mapFs s f).gel = s.gel := rfl
@[simp] theorem mapFs_tune (s : State) (f : Fs → Fs) : (mapFs s f).tune = s.tune := rfl
@[simp] theorem mapFs_tally (s : State) (f : Fs → Fs) : (mapFs s f).tally = s.tally := rfl
@[simp] theorem mapFs_mgs (s : State) (f : Fs → Fs) : (mapFs s f).mgs = s.mgs := rfl
@[simp] theorem mapFs_fw (s : State) (f : Fs → Fs) : (mapFs s f).fw = s.fw := rfl
@[simp] theorem mapFs_out (s : State) (f : Fs → Fs) : (mapFs s f).out = s.out := rfl
@[simp] theorem mapFs_draws (s : State) (f : Fs → Fs) : (mapFs s f).draws = s.draws := rfl
@[simp] theorem mapPorts_pending (s : State) (f : Port → Port) : (mapPorts s f).pending = s.pending := rfl
@[simp] theorem mapPorts_cores (s : State) (f : Port → Port) : (mapPorts s f).cores = s.cores := rfl
@[simp] theorem mapPorts_arrays (s : State) (f : Port → Port) : (mapPorts s f).arrays = s.arrays := rfl
@[simp] theorem mapPorts_net (s : State) (f : Port → Port) : (mapPorts s f).net = s.net := rfl
@[simp] theorem mapPorts_nextId (s : State) (f : Port → Port) : (mapPorts s f).nextId = s.nextId := rfl
@[simp] theorem mapPorts_routers (s : State) (f : Port → Port) : (mapPorts s f).routers = s.routers := rfl
@[simp] theorem mapPorts_ms (s : State) (f : Port → Port) : (mapPorts s f).ms = s.ms := rfl
@[simp] theorem mapPorts_fs (s : State) (f : Port → Port) : (mapPorts s f).fs = s.fs := rfl
@[simp] theorem mapPorts_volumes (s : State) (f : Port → Port) : (mapPorts s f).volumes = s.volumes := rfl
@[simp] theorem mapPorts_parts (s : State) (f : Port → Port) : (mapPorts s f).parts = s.parts := rfl
@[simp] theorem mapPorts_beds (s : State) (f : Port → Port) : (mapPorts s f).beds = s.beds := rfl
@[simp] theorem mapPorts_gel (s : State) (f : Port → Port) : (mapPorts s f).gel = s.gel := rfl
@[simp] theorem mapPorts_tune (s : State) (f : Port → Port) : (mapPorts s f).tune = s.tune := rfl
@[simp] theorem mapPorts_tally (s : State) (f : Port → Port) : (mapPorts s f).tally = s.tally := rfl
@[simp] theorem mapPorts_mgs (s : State) (f : Port → Port) : (mapPorts s f).mgs = s.mgs := rfl
@[simp] theorem mapPorts_fw (s : State) (f : Port → Port) : (mapPorts s f).fw = s.fw := rfl
@[simp] theorem mapPorts_out (s : State) (f : Port → Port) : (mapPorts s f).out = s.out := rfl
@[simp] theorem mapPorts_draws (s : State) (f : Port → Port) : (mapPorts s f).draws = s.draws := rfl
@[simp] theorem mapParts_pending (s : State) (f : Nat → Part → Part) : (mapParts s f).pending = s.pending := rfl
@[simp] theorem mapParts_cores (s : State) (f : Nat → Part → Part) : (mapParts s f).cores = s.cores := rfl
@[simp] theorem mapParts_arrays (s : State) (f : Nat → Part → Part) : (mapParts s f).arrays = s.arrays := rfl
@[simp] theorem mapParts_net (s : State) (f : Nat → Part → Part) : (mapParts s f).net = s.net := rfl
@[simp] theorem mapParts_nextId (s : State) (f : Nat → Part → Part) : (mapParts s f).nextId = s.nextId := rfl
@[simp] theorem mapParts_routers (s : State) (f : Nat → Part → Part) : (mapParts s f).routers = s.routers := rfl
@[simp] theorem mapParts_ms (s : State) (f : Nat → Part → Part) : (mapParts s f).ms = s.ms := rfl
@[simp] theorem mapParts_fs (s : State) (f : Nat → Part → Part) : (mapParts s f).fs = s.fs := rfl
@[simp] theorem mapParts_volumes (s : State) (f : Nat → Part → Part) : (mapParts s f).volumes = s.volumes := rfl
@[simp] theorem mapParts_ports (s : State) (f : Nat → Part → Part) : (mapParts s f).ports = s.ports := rfl
@[simp] theorem mapParts_beds (s : State) (f : Nat → Part → Part) : (mapParts s f).beds = s.beds := rfl
@[simp] theorem mapParts_gel (s : State) (f : Nat → Part → Part) : (mapParts s f).gel = s.gel := rfl
@[simp] theorem mapParts_tune (s : State) (f : Nat → Part → Part) : (mapParts s f).tune = s.tune := rfl
@[simp] theorem mapParts_tally (s : State) (f : Nat → Part → Part) : (mapParts s f).tally = s.tally := rfl
@[simp] theorem mapParts_mgs (s : State) (f : Nat → Part → Part) : (mapParts s f).mgs = s.mgs := rfl
@[simp] theorem mapParts_fw (s : State) (f : Nat → Part → Part) : (mapParts s f).fw = s.fw := rfl
@[simp] theorem mapParts_out (s : State) (f : Nat → Part → Part) : (mapParts s f).out = s.out := rfl
@[simp] theorem mapParts_draws (s : State) (f : Nat → Part → Part) : (mapParts s f).draws = s.draws := rfl

/-! ## Units of the other tables -/

@[simp] theorem State.setCore_arr (s : State) (k : Nat) (c : Core) (n : Nat) : (s.setCore k c).arr n = s.arr n := rfl
@[simp] theorem State.setCore_router (s : State) (k : Nat) (c : Core) (n : Nat) : (s.setCore k c).router n = s.router n := rfl
@[simp] theorem State.setCore_mem (s : State) (k : Nat) (c : Core) (n : Nat) : (s.setCore k c).mem n = s.mem n := rfl
@[simp] theorem State.setCore_flash (s : State) (k : Nat) (c : Core) (n : Nat) : (s.setCore k c).flash n = s.flash n := rfl
@[simp] theorem State.setCore_volume (s : State) (k : Nat) (c : Core) (n : Nat) : (s.setCore k c).volume n = s.volume n := rfl
@[simp] theorem State.setCore_part (s : State) (k : Nat) (c : Core) (n : Nat) : (s.setCore k c).part n = s.part n := rfl
@[simp] theorem State.setCore_port (s : State) (k : Nat) (c : Core) (n : Nat) : (s.setCore k c).port n = s.port n := rfl
@[simp] theorem State.setCore_bed (s : State) (k : Nat) (c : Core) (n : Nat) : (s.setCore k c).bed n = s.bed n := rfl
@[simp] theorem State.setCore_sess (s : State) (k : Nat) (c : Core) (n : Nat) : (s.setCore k c).sess n = s.sess n := rfl
@[simp] theorem State.setCore_seg (s : State) (k : Nat) (c : Core) (n : Nat) : (s.setCore k c).seg n = s.seg n := rfl
@[simp] theorem State.setCore_siteOf (s : State) (k : Nat) (c : Core) (n : Nat) : (s.setCore k c).siteOf n = s.siteOf n := rfl
@[simp] theorem State.setArr_core (s : State) (k : Nat) (a : Arr) (n : Nat) : (s.setArr k a).core n = s.core n := rfl
@[simp] theorem State.setArr_router (s : State) (k : Nat) (a : Arr) (n : Nat) : (s.setArr k a).router n = s.router n := rfl
@[simp] theorem State.setArr_mem (s : State) (k : Nat) (a : Arr) (n : Nat) : (s.setArr k a).mem n = s.mem n := rfl
@[simp] theorem State.setArr_flash (s : State) (k : Nat) (a : Arr) (n : Nat) : (s.setArr k a).flash n = s.flash n := rfl
@[simp] theorem State.setArr_volume (s : State) (k : Nat) (a : Arr) (n : Nat) : (s.setArr k a).volume n = s.volume n := rfl
@[simp] theorem State.setArr_part (s : State) (k : Nat) (a : Arr) (n : Nat) : (s.setArr k a).part n = s.part n := rfl
@[simp] theorem State.setArr_port (s : State) (k : Nat) (a : Arr) (n : Nat) : (s.setArr k a).port n = s.port n := rfl
@[simp] theorem State.setArr_bed (s : State) (k : Nat) (a : Arr) (n : Nat) : (s.setArr k a).bed n = s.bed n := rfl
@[simp] theorem State.setArr_sess (s : State) (k : Nat) (a : Arr) (n : Nat) : (s.setArr k a).sess n = s.sess n := rfl
@[simp] theorem State.setArr_seg (s : State) (k : Nat) (a : Arr) (n : Nat) : (s.setArr k a).seg n = s.seg n := rfl
@[simp] theorem State.setArr_siteOf (s : State) (k : Nat) (a : Arr) (n : Nat) : (s.setArr k a).siteOf n = s.siteOf n := rfl
@[simp] theorem State.setRouter_core (s : State) (k : Nat) (r : Router) (n : Nat) : (s.setRouter k r).core n = s.core n := rfl
@[simp] theorem State.setRouter_arr (s : State) (k : Nat) (r : Router) (n : Nat) : (s.setRouter k r).arr n = s.arr n := rfl
@[simp] theorem State.setRouter_mem (s : State) (k : Nat) (r : Router) (n : Nat) : (s.setRouter k r).mem n = s.mem n := rfl
@[simp] theorem State.setRouter_flash (s : State) (k : Nat) (r : Router) (n : Nat) : (s.setRouter k r).flash n = s.flash n := rfl
@[simp] theorem State.setRouter_volume (s : State) (k : Nat) (r : Router) (n : Nat) : (s.setRouter k r).volume n = s.volume n := rfl
@[simp] theorem State.setRouter_part (s : State) (k : Nat) (r : Router) (n : Nat) : (s.setRouter k r).part n = s.part n := rfl
@[simp] theorem State.setRouter_port (s : State) (k : Nat) (r : Router) (n : Nat) : (s.setRouter k r).port n = s.port n := rfl
@[simp] theorem State.setRouter_bed (s : State) (k : Nat) (r : Router) (n : Nat) : (s.setRouter k r).bed n = s.bed n := rfl
@[simp] theorem State.setRouter_sess (s : State) (k : Nat) (r : Router) (n : Nat) : (s.setRouter k r).sess n = s.sess n := rfl
@[simp] theorem State.setRouter_seg (s : State) (k : Nat) (r : Router) (n : Nat) : (s.setRouter k r).seg n = s.seg n := rfl
@[simp] theorem State.setRouter_siteOf (s : State) (k : Nat) (r : Router) (n : Nat) : (s.setRouter k r).siteOf n = s.siteOf n := rfl
@[simp] theorem State.setMem_core (s : State) (k : Nat) (m : Ms) (n : Nat) : (s.setMem k m).core n = s.core n := rfl
@[simp] theorem State.setMem_arr (s : State) (k : Nat) (m : Ms) (n : Nat) : (s.setMem k m).arr n = s.arr n := rfl
@[simp] theorem State.setMem_router (s : State) (k : Nat) (m : Ms) (n : Nat) : (s.setMem k m).router n = s.router n := rfl
@[simp] theorem State.setMem_flash (s : State) (k : Nat) (m : Ms) (n : Nat) : (s.setMem k m).flash n = s.flash n := rfl
@[simp] theorem State.setMem_volume (s : State) (k : Nat) (m : Ms) (n : Nat) : (s.setMem k m).volume n = s.volume n := rfl
@[simp] theorem State.setMem_part (s : State) (k : Nat) (m : Ms) (n : Nat) : (s.setMem k m).part n = s.part n := rfl
@[simp] theorem State.setMem_port (s : State) (k : Nat) (m : Ms) (n : Nat) : (s.setMem k m).port n = s.port n := rfl
@[simp] theorem State.setMem_bed (s : State) (k : Nat) (m : Ms) (n : Nat) : (s.setMem k m).bed n = s.bed n := rfl
@[simp] theorem State.setMem_sess (s : State) (k : Nat) (m : Ms) (n : Nat) : (s.setMem k m).sess n = s.sess n := rfl
@[simp] theorem State.setMem_seg (s : State) (k : Nat) (m : Ms) (n : Nat) : (s.setMem k m).seg n = s.seg n := rfl
@[simp] theorem State.setMem_siteOf (s : State) (k : Nat) (m : Ms) (n : Nat) : (s.setMem k m).siteOf n = s.siteOf n := rfl
@[simp] theorem State.setFlash_core (s : State) (k : Nat) (f : Fs) (n : Nat) : (s.setFlash k f).core n = s.core n := rfl
@[simp] theorem State.setFlash_arr (s : State) (k : Nat) (f : Fs) (n : Nat) : (s.setFlash k f).arr n = s.arr n := rfl
@[simp] theorem State.setFlash_router (s : State) (k : Nat) (f : Fs) (n : Nat) : (s.setFlash k f).router n = s.router n := rfl
@[simp] theorem State.setFlash_mem (s : State) (k : Nat) (f : Fs) (n : Nat) : (s.setFlash k f).mem n = s.mem n := rfl
@[simp] theorem State.setFlash_volume (s : State) (k : Nat) (f : Fs) (n : Nat) : (s.setFlash k f).volume n = s.volume n := rfl
@[simp] theorem State.setFlash_part (s : State) (k : Nat) (f : Fs) (n : Nat) : (s.setFlash k f).part n = s.part n := rfl
@[simp] theorem State.setFlash_port (s : State) (k : Nat) (f : Fs) (n : Nat) : (s.setFlash k f).port n = s.port n := rfl
@[simp] theorem State.setFlash_bed (s : State) (k : Nat) (f : Fs) (n : Nat) : (s.setFlash k f).bed n = s.bed n := rfl
@[simp] theorem State.setFlash_sess (s : State) (k : Nat) (f : Fs) (n : Nat) : (s.setFlash k f).sess n = s.sess n := rfl
@[simp] theorem State.setFlash_seg (s : State) (k : Nat) (f : Fs) (n : Nat) : (s.setFlash k f).seg n = s.seg n := rfl
@[simp] theorem State.setFlash_siteOf (s : State) (k : Nat) (f : Fs) (n : Nat) : (s.setFlash k f).siteOf n = s.siteOf n := rfl
@[simp] theorem State.setVolume_core (s : State) (k : Nat) (v : Option Volume) (n : Nat) : (s.setVolume k v).core n = s.core n := rfl
@[simp] theorem State.setVolume_arr (s : State) (k : Nat) (v : Option Volume) (n : Nat) : (s.setVolume k v).arr n = s.arr n := rfl
@[simp] theorem State.setVolume_router (s : State) (k : Nat) (v : Option Volume) (n : Nat) : (s.setVolume k v).router n = s.router n := rfl
@[simp] theorem State.setVolume_mem (s : State) (k : Nat) (v : Option Volume) (n : Nat) : (s.setVolume k v).mem n = s.mem n := rfl
@[simp] theorem State.setVolume_flash (s : State) (k : Nat) (v : Option Volume) (n : Nat) : (s.setVolume k v).flash n = s.flash n := rfl
@[simp] theorem State.setVolume_part (s : State) (k : Nat) (v : Option Volume) (n : Nat) : (s.setVolume k v).part n = s.part n := rfl
@[simp] theorem State.setVolume_port (s : State) (k : Nat) (v : Option Volume) (n : Nat) : (s.setVolume k v).port n = s.port n := rfl
@[simp] theorem State.setVolume_bed (s : State) (k : Nat) (v : Option Volume) (n : Nat) : (s.setVolume k v).bed n = s.bed n := rfl
@[simp] theorem State.setVolume_sess (s : State) (k : Nat) (v : Option Volume) (n : Nat) : (s.setVolume k v).sess n = s.sess n := rfl
@[simp] theorem State.setVolume_seg (s : State) (k : Nat) (v : Option Volume) (n : Nat) : (s.setVolume k v).seg n = s.seg n := rfl
@[simp] theorem State.setVolume_siteOf (s : State) (k : Nat) (v : Option Volume) (n : Nat) : (s.setVolume k v).siteOf n = s.siteOf n := rfl
@[simp] theorem State.setPart_core (s : State) (k : Nat) (q : Part) (n : Nat) : (s.setPart k q).core n = s.core n := rfl
@[simp] theorem State.setPart_arr (s : State) (k : Nat) (q : Part) (n : Nat) : (s.setPart k q).arr n = s.arr n := rfl
@[simp] theorem State.setPart_router (s : State) (k : Nat) (q : Part) (n : Nat) : (s.setPart k q).router n = s.router n := rfl
@[simp] theorem State.setPart_mem (s : State) (k : Nat) (q : Part) (n : Nat) : (s.setPart k q).mem n = s.mem n := rfl
@[simp] theorem State.setPart_flash (s : State) (k : Nat) (q : Part) (n : Nat) : (s.setPart k q).flash n = s.flash n := rfl
@[simp] theorem State.setPart_volume (s : State) (k : Nat) (q : Part) (n : Nat) : (s.setPart k q).volume n = s.volume n := rfl
@[simp] theorem State.setPart_port (s : State) (k : Nat) (q : Part) (n : Nat) : (s.setPart k q).port n = s.port n := rfl
@[simp] theorem State.setPart_bed (s : State) (k : Nat) (q : Part) (n : Nat) : (s.setPart k q).bed n = s.bed n := rfl
@[simp] theorem State.setPart_sess (s : State) (k : Nat) (q : Part) (n : Nat) : (s.setPart k q).sess n = s.sess n := rfl
@[simp] theorem State.setPart_seg (s : State) (k : Nat) (q : Part) (n : Nat) : (s.setPart k q).seg n = s.seg n := rfl
@[simp] theorem State.setPart_siteOf (s : State) (k : Nat) (q : Part) (n : Nat) : (s.setPart k q).siteOf n = s.siteOf n := rfl
@[simp] theorem State.setPort_core (s : State) (k : Nat) (q : Port) (n : Nat) : (s.setPort k q).core n = s.core n := rfl
@[simp] theorem State.setPort_arr (s : State) (k : Nat) (q : Port) (n : Nat) : (s.setPort k q).arr n = s.arr n := rfl
@[simp] theorem State.setPort_router (s : State) (k : Nat) (q : Port) (n : Nat) : (s.setPort k q).router n = s.router n := rfl
@[simp] theorem State.setPort_mem (s : State) (k : Nat) (q : Port) (n : Nat) : (s.setPort k q).mem n = s.mem n := rfl
@[simp] theorem State.setPort_flash (s : State) (k : Nat) (q : Port) (n : Nat) : (s.setPort k q).flash n = s.flash n := rfl
@[simp] theorem State.setPort_volume (s : State) (k : Nat) (q : Port) (n : Nat) : (s.setPort k q).volume n = s.volume n := rfl
@[simp] theorem State.setPort_part (s : State) (k : Nat) (q : Port) (n : Nat) : (s.setPort k q).part n = s.part n := rfl
@[simp] theorem State.setPort_bed (s : State) (k : Nat) (q : Port) (n : Nat) : (s.setPort k q).bed n = s.bed n := rfl
@[simp] theorem State.setPort_sess (s : State) (k : Nat) (q : Port) (n : Nat) : (s.setPort k q).sess n = s.sess n := rfl
@[simp] theorem State.setPort_seg (s : State) (k : Nat) (q : Port) (n : Nat) : (s.setPort k q).seg n = s.seg n := rfl
@[simp] theorem State.setPort_siteOf (s : State) (k : Nat) (q : Port) (n : Nat) : (s.setPort k q).siteOf n = s.siteOf n := rfl
@[simp] theorem State.setBed_core (s : State) (k : Nat) (d : Bed) (n : Nat) : (s.setBed k d).core n = s.core n := rfl
@[simp] theorem State.setBed_arr (s : State) (k : Nat) (d : Bed) (n : Nat) : (s.setBed k d).arr n = s.arr n := rfl
@[simp] theorem State.setBed_router (s : State) (k : Nat) (d : Bed) (n : Nat) : (s.setBed k d).router n = s.router n := rfl
@[simp] theorem State.setBed_mem (s : State) (k : Nat) (d : Bed) (n : Nat) : (s.setBed k d).mem n = s.mem n := rfl
@[simp] theorem State.setBed_flash (s : State) (k : Nat) (d : Bed) (n : Nat) : (s.setBed k d).flash n = s.flash n := rfl
@[simp] theorem State.setBed_volume (s : State) (k : Nat) (d : Bed) (n : Nat) : (s.setBed k d).volume n = s.volume n := rfl
@[simp] theorem State.setBed_part (s : State) (k : Nat) (d : Bed) (n : Nat) : (s.setBed k d).part n = s.part n := rfl
@[simp] theorem State.setBed_port (s : State) (k : Nat) (d : Bed) (n : Nat) : (s.setBed k d).port n = s.port n := rfl
@[simp] theorem State.setBed_sess (s : State) (k : Nat) (d : Bed) (n : Nat) : (s.setBed k d).sess n = s.sess n := rfl
@[simp] theorem State.setBed_seg (s : State) (k : Nat) (d : Bed) (n : Nat) : (s.setBed k d).seg n = s.seg n := rfl
@[simp] theorem State.setBed_siteOf (s : State) (k : Nat) (d : Bed) (n : Nat) : (s.setBed k d).siteOf n = s.siteOf n := rfl
@[simp] theorem State.setSess_core (s : State) (k : Nat) (c : Sess) (n : Nat) : (s.setSess k c).core n = s.core n := rfl
@[simp] theorem State.setSess_arr (s : State) (k : Nat) (c : Sess) (n : Nat) : (s.setSess k c).arr n = s.arr n := rfl
@[simp] theorem State.setSess_router (s : State) (k : Nat) (c : Sess) (n : Nat) : (s.setSess k c).router n = s.router n := rfl
@[simp] theorem State.setSess_mem (s : State) (k : Nat) (c : Sess) (n : Nat) : (s.setSess k c).mem n = s.mem n := rfl
@[simp] theorem State.setSess_flash (s : State) (k : Nat) (c : Sess) (n : Nat) : (s.setSess k c).flash n = s.flash n := rfl
@[simp] theorem State.setSess_volume (s : State) (k : Nat) (c : Sess) (n : Nat) : (s.setSess k c).volume n = s.volume n := rfl
@[simp] theorem State.setSess_part (s : State) (k : Nat) (c : Sess) (n : Nat) : (s.setSess k c).part n = s.part n := rfl
@[simp] theorem State.setSess_port (s : State) (k : Nat) (c : Sess) (n : Nat) : (s.setSess k c).port n = s.port n := rfl
@[simp] theorem State.setSess_bed (s : State) (k : Nat) (c : Sess) (n : Nat) : (s.setSess k c).bed n = s.bed n := rfl
@[simp] theorem State.setSess_siteOf (s : State) (k : Nat) (c : Sess) (n : Nat) : (s.setSess k c).siteOf n = s.siteOf n := rfl
@[simp] theorem State.setSeg_core (s : State) (k : Nat) (g : Seg) (n : Nat) : (s.setSeg k g).core n = s.core n := rfl
@[simp] theorem State.setSeg_arr (s : State) (k : Nat) (g : Seg) (n : Nat) : (s.setSeg k g).arr n = s.arr n := rfl
@[simp] theorem State.setSeg_router (s : State) (k : Nat) (g : Seg) (n : Nat) : (s.setSeg k g).router n = s.router n := rfl
@[simp] theorem State.setSeg_mem (s : State) (k : Nat) (g : Seg) (n : Nat) : (s.setSeg k g).mem n = s.mem n := rfl
@[simp] theorem State.setSeg_flash (s : State) (k : Nat) (g : Seg) (n : Nat) : (s.setSeg k g).flash n = s.flash n := rfl
@[simp] theorem State.setSeg_volume (s : State) (k : Nat) (g : Seg) (n : Nat) : (s.setSeg k g).volume n = s.volume n := rfl
@[simp] theorem State.setSeg_part (s : State) (k : Nat) (g : Seg) (n : Nat) : (s.setSeg k g).part n = s.part n := rfl
@[simp] theorem State.setSeg_port (s : State) (k : Nat) (g : Seg) (n : Nat) : (s.setSeg k g).port n = s.port n := rfl
@[simp] theorem State.setSeg_bed (s : State) (k : Nat) (g : Seg) (n : Nat) : (s.setSeg k g).bed n = s.bed n := rfl
@[simp] theorem State.setSeg_siteOf (s : State) (k : Nat) (g : Seg) (n : Nat) : (s.setSeg k g).siteOf n = s.siteOf n := rfl
@[simp] theorem State.emit_core (s : State) (o : Out) (n : Nat) : (s.emit o).core n = s.core n := rfl
@[simp] theorem State.emit_arr (s : State) (o : Out) (n : Nat) : (s.emit o).arr n = s.arr n := rfl
@[simp] theorem State.emit_router (s : State) (o : Out) (n : Nat) : (s.emit o).router n = s.router n := rfl
@[simp] theorem State.emit_mem (s : State) (o : Out) (n : Nat) : (s.emit o).mem n = s.mem n := rfl
@[simp] theorem State.emit_flash (s : State) (o : Out) (n : Nat) : (s.emit o).flash n = s.flash n := rfl
@[simp] theorem State.emit_volume (s : State) (o : Out) (n : Nat) : (s.emit o).volume n = s.volume n := rfl
@[simp] theorem State.emit_part (s : State) (o : Out) (n : Nat) : (s.emit o).part n = s.part n := rfl
@[simp] theorem State.emit_port (s : State) (o : Out) (n : Nat) : (s.emit o).port n = s.port n := rfl
@[simp] theorem State.emit_bed (s : State) (o : Out) (n : Nat) : (s.emit o).bed n = s.bed n := rfl
@[simp] theorem State.emit_sess (s : State) (o : Out) (n : Nat) : (s.emit o).sess n = s.sess n := rfl
@[simp] theorem State.emit_seg (s : State) (o : Out) (n : Nat) : (s.emit o).seg n = s.seg n := rfl
@[simp] theorem State.emit_siteOf (s : State) (o : Out) (n : Nat) : (s.emit o).siteOf n = s.siteOf n := rfl
@[simp] theorem State.event_core (s : State) (code source part param : Nat) (n : Nat) : (s.event code source part param).core n = s.core n := rfl
@[simp] theorem State.event_arr (s : State) (code source part param : Nat) (n : Nat) : (s.event code source part param).arr n = s.arr n := rfl
@[simp] theorem State.event_router (s : State) (code source part param : Nat) (n : Nat) : (s.event code source part param).router n = s.router n := rfl
@[simp] theorem State.event_mem (s : State) (code source part param : Nat) (n : Nat) : (s.event code source part param).mem n = s.mem n := rfl
@[simp] theorem State.event_flash (s : State) (code source part param : Nat) (n : Nat) : (s.event code source part param).flash n = s.flash n := rfl
@[simp] theorem State.event_volume (s : State) (code source part param : Nat) (n : Nat) : (s.event code source part param).volume n = s.volume n := rfl
@[simp] theorem State.event_part (s : State) (code source part param : Nat) (n : Nat) : (s.event code source part param).part n = s.part n := rfl
@[simp] theorem State.event_port (s : State) (code source part param : Nat) (n : Nat) : (s.event code source part param).port n = s.port n := rfl
@[simp] theorem State.event_bed (s : State) (code source part param : Nat) (n : Nat) : (s.event code source part param).bed n = s.bed n := rfl
@[simp] theorem State.event_siteOf (s : State) (code source part param : Nat) (n : Nat) : (s.event code source part param).siteOf n = s.siteOf n := rfl
@[simp] theorem State.inject_core (s : State) (p cls epoch : Nat) (l : Loc) (e : Nat) (b : Body) (n : Nat) : (s.inject p cls epoch l e b).core n = s.core n := rfl
@[simp] theorem State.inject_arr (s : State) (p cls epoch : Nat) (l : Loc) (e : Nat) (b : Body) (n : Nat) : (s.inject p cls epoch l e b).arr n = s.arr n := rfl
@[simp] theorem State.inject_router (s : State) (p cls epoch : Nat) (l : Loc) (e : Nat) (b : Body) (n : Nat) : (s.inject p cls epoch l e b).router n = s.router n := rfl
@[simp] theorem State.inject_mem (s : State) (p cls epoch : Nat) (l : Loc) (e : Nat) (b : Body) (n : Nat) : (s.inject p cls epoch l e b).mem n = s.mem n := rfl
@[simp] theorem State.inject_flash (s : State) (p cls epoch : Nat) (l : Loc) (e : Nat) (b : Body) (n : Nat) : (s.inject p cls epoch l e b).flash n = s.flash n := rfl
@[simp] theorem State.inject_volume (s : State) (p cls epoch : Nat) (l : Loc) (e : Nat) (b : Body) (n : Nat) : (s.inject p cls epoch l e b).volume n = s.volume n := rfl
@[simp] theorem State.inject_part (s : State) (p cls epoch : Nat) (l : Loc) (e : Nat) (b : Body) (n : Nat) : (s.inject p cls epoch l e b).part n = s.part n := rfl
@[simp] theorem State.inject_port (s : State) (p cls epoch : Nat) (l : Loc) (e : Nat) (b : Body) (n : Nat) : (s.inject p cls epoch l e b).port n = s.port n := rfl
@[simp] theorem State.inject_bed (s : State) (p cls epoch : Nat) (l : Loc) (e : Nat) (b : Body) (n : Nat) : (s.inject p cls epoch l e b).bed n = s.bed n := rfl
@[simp] theorem State.inject_sess (s : State) (p cls epoch : Nat) (l : Loc) (e : Nat) (b : Body) (n : Nat) : (s.inject p cls epoch l e b).sess n = s.sess n := rfl
@[simp] theorem State.inject_seg (s : State) (p cls epoch : Nat) (l : Loc) (e : Nat) (b : Body) (n : Nat) : (s.inject p cls epoch l e b).seg n = s.seg n := rfl
@[simp] theorem State.inject_siteOf (s : State) (p cls epoch : Nat) (l : Loc) (e : Nat) (b : Body) (n : Nat) : (s.inject p cls epoch l e b).siteOf n = s.siteOf n := rfl
@[simp] theorem State.injectFor_core (s : State) (p : Nat) (l : Loc) (e : Nat) (b : Body) (n : Nat) : (s.injectFor p l e b).core n = s.core n := rfl
@[simp] theorem State.injectFor_arr (s : State) (p : Nat) (l : Loc) (e : Nat) (b : Body) (n : Nat) : (s.injectFor p l e b).arr n = s.arr n := rfl
@[simp] theorem State.injectFor_router (s : State) (p : Nat) (l : Loc) (e : Nat) (b : Body) (n : Nat) : (s.injectFor p l e b).router n = s.router n := rfl
@[simp] theorem State.injectFor_mem (s : State) (p : Nat) (l : Loc) (e : Nat) (b : Body) (n : Nat) : (s.injectFor p l e b).mem n = s.mem n := rfl
@[simp] theorem State.injectFor_flash (s : State) (p : Nat) (l : Loc) (e : Nat) (b : Body) (n : Nat) : (s.injectFor p l e b).flash n = s.flash n := rfl
@[simp] theorem State.injectFor_volume (s : State) (p : Nat) (l : Loc) (e : Nat) (b : Body) (n : Nat) : (s.injectFor p l e b).volume n = s.volume n := rfl
@[simp] theorem State.injectFor_part (s : State) (p : Nat) (l : Loc) (e : Nat) (b : Body) (n : Nat) : (s.injectFor p l e b).part n = s.part n := rfl
@[simp] theorem State.injectFor_port (s : State) (p : Nat) (l : Loc) (e : Nat) (b : Body) (n : Nat) : (s.injectFor p l e b).port n = s.port n := rfl
@[simp] theorem State.injectFor_bed (s : State) (p : Nat) (l : Loc) (e : Nat) (b : Body) (n : Nat) : (s.injectFor p l e b).bed n = s.bed n := rfl
@[simp] theorem State.injectFor_sess (s : State) (p : Nat) (l : Loc) (e : Nat) (b : Body) (n : Nat) : (s.injectFor p l e b).sess n = s.sess n := rfl
@[simp] theorem State.injectFor_seg (s : State) (p : Nat) (l : Loc) (e : Nat) (b : Body) (n : Nat) : (s.injectFor p l e b).seg n = s.seg n := rfl
@[simp] theorem State.injectFor_siteOf (s : State) (p : Nat) (l : Loc) (e : Nat) (b : Body) (n : Nat) : (s.injectFor p l e b).siteOf n = s.siteOf n := rfl
@[simp] theorem State.consume_core (s : State) (id : Nat) (n : Nat) : (s.consume id).core n = s.core n := rfl
@[simp] theorem State.consume_arr (s : State) (id : Nat) (n : Nat) : (s.consume id).arr n = s.arr n := rfl
@[simp] theorem State.consume_router (s : State) (id : Nat) (n : Nat) : (s.consume id).router n = s.router n := rfl
@[simp] theorem State.consume_mem (s : State) (id : Nat) (n : Nat) : (s.consume id).mem n = s.mem n := rfl
@[simp] theorem State.consume_flash (s : State) (id : Nat) (n : Nat) : (s.consume id).flash n = s.flash n := rfl
@[simp] theorem State.consume_volume (s : State) (id : Nat) (n : Nat) : (s.consume id).volume n = s.volume n := rfl
@[simp] theorem State.consume_part (s : State) (id : Nat) (n : Nat) : (s.consume id).part n = s.part n := rfl
@[simp] theorem State.consume_port (s : State) (id : Nat) (n : Nat) : (s.consume id).port n = s.port n := rfl
@[simp] theorem State.consume_bed (s : State) (id : Nat) (n : Nat) : (s.consume id).bed n = s.bed n := rfl
@[simp] theorem State.consume_sess (s : State) (id : Nat) (n : Nat) : (s.consume id).sess n = s.sess n := rfl
@[simp] theorem State.consume_seg (s : State) (id : Nat) (n : Nat) : (s.consume id).seg n = s.seg n := rfl
@[simp] theorem State.consume_siteOf (s : State) (id : Nat) (n : Nat) : (s.consume id).siteOf n = s.siteOf n := rfl
@[simp] theorem State.draw_core (s : State) (n : Nat) : (s.draw).core n = s.core n := rfl
@[simp] theorem State.draw_arr (s : State) (n : Nat) : (s.draw).arr n = s.arr n := rfl
@[simp] theorem State.draw_router (s : State) (n : Nat) : (s.draw).router n = s.router n := rfl
@[simp] theorem State.draw_mem (s : State) (n : Nat) : (s.draw).mem n = s.mem n := rfl
@[simp] theorem State.draw_flash (s : State) (n : Nat) : (s.draw).flash n = s.flash n := rfl
@[simp] theorem State.draw_volume (s : State) (n : Nat) : (s.draw).volume n = s.volume n := rfl
@[simp] theorem State.draw_part (s : State) (n : Nat) : (s.draw).part n = s.part n := rfl
@[simp] theorem State.draw_port (s : State) (n : Nat) : (s.draw).port n = s.port n := rfl
@[simp] theorem State.draw_bed (s : State) (n : Nat) : (s.draw).bed n = s.bed n := rfl
@[simp] theorem State.draw_sess (s : State) (n : Nat) : (s.draw).sess n = s.sess n := rfl
@[simp] theorem State.draw_seg (s : State) (n : Nat) : (s.draw).seg n = s.seg n := rfl
@[simp] theorem State.draw_siteOf (s : State) (n : Nat) : (s.draw).siteOf n = s.siteOf n := rfl
@[simp] theorem mapCores_arr (s : State) (l : List Nat) (f : Core → Core) (n : Nat) : (mapCores s l f).arr n = s.arr n := rfl
@[simp] theorem mapCores_router (s : State) (l : List Nat) (f : Core → Core) (n : Nat) : (mapCores s l f).router n = s.router n := rfl
@[simp] theorem mapCores_mem (s : State) (l : List Nat) (f : Core → Core) (n : Nat) : (mapCores s l f).mem n = s.mem n := rfl
@[simp] theorem mapCores_flash (s : State) (l : List Nat) (f : Core → Core) (n : Nat) : (mapCores s l f).flash n = s.flash n := rfl
@[simp] theorem mapCores_volume (s : State) (l : List Nat) (f : Core → Core) (n : Nat) : (mapCores s l f).volume n = s.volume n := rfl
@[simp] theorem mapCores_part (s : State) (l : List Nat) (f : Core → Core) (n : Nat) : (mapCores s l f).part n = s.part n := rfl
@[simp] theorem mapCores_port (s : State) (l : List Nat) (f : Core → Core) (n : Nat) : (mapCores s l f).port n = s.port n := rfl
@[simp] theorem mapCores_bed (s : State) (l : List Nat) (f : Core → Core) (n : Nat) : (mapCores s l f).bed n = s.bed n := rfl
@[simp] theorem mapCores_sess (s : State) (l : List Nat) (f : Core → Core) (n : Nat) : (mapCores s l f).sess n = s.sess n := rfl
@[simp] theorem mapCores_seg (s : State) (l : List Nat) (f : Core → Core) (n : Nat) : (mapCores s l f).seg n = s.seg n := rfl
@[simp] theorem mapCores_siteOf (s : State) (l : List Nat) (f : Core → Core) (n : Nat) : (mapCores s l f).siteOf n = s.siteOf n := rfl
@[simp] theorem mapRouters_core (s : State) (f : Router → Router) (n : Nat) : (mapRouters s f).core n = s.core n := rfl
@[simp] theorem mapRouters_arr (s : State) (f : Router → Router) (n : Nat) : (mapRouters s f).arr n = s.arr n := rfl
@[simp] theorem mapRouters_mem (s : State) (f : Router → Router) (n : Nat) : (mapRouters s f).mem n = s.mem n := rfl
@[simp] theorem mapRouters_flash (s : State) (f : Router → Router) (n : Nat) : (mapRouters s f).flash n = s.flash n := rfl
@[simp] theorem mapRouters_volume (s : State) (f : Router → Router) (n : Nat) : (mapRouters s f).volume n = s.volume n := rfl
@[simp] theorem mapRouters_part (s : State) (f : Router → Router) (n : Nat) : (mapRouters s f).part n = s.part n := rfl
@[simp] theorem mapRouters_port (s : State) (f : Router → Router) (n : Nat) : (mapRouters s f).port n = s.port n := rfl
@[simp] theorem mapRouters_bed (s : State) (f : Router → Router) (n : Nat) : (mapRouters s f).bed n = s.bed n := rfl
@[simp] theorem mapRouters_sess (s : State) (f : Router → Router) (n : Nat) : (mapRouters s f).sess n = s.sess n := rfl
@[simp] theorem mapRouters_seg (s : State) (f : Router → Router) (n : Nat) : (mapRouters s f).seg n = s.seg n := rfl
@[simp] theorem mapRouters_siteOf (s : State) (f : Router → Router) (n : Nat) : (mapRouters s f).siteOf n = s.siteOf n := rfl
@[simp] theorem mapMs_core (s : State) (f : Ms → Ms) (n : Nat) : (mapMs s f).core n = s.core n := rfl
@[simp] theorem mapMs_arr (s : State) (f : Ms → Ms) (n : Nat) : (mapMs s f).arr n = s.arr n := rfl
@[simp] theorem mapMs_router (s : State) (f : Ms → Ms) (n : Nat) : (mapMs s f).router n = s.router n := rfl
@[simp] theorem mapMs_flash (s : State) (f : Ms → Ms) (n : Nat) : (mapMs s f).flash n = s.flash n := rfl
@[simp] theorem mapMs_volume (s : State) (f : Ms → Ms) (n : Nat) : (mapMs s f).volume n = s.volume n := rfl
@[simp] theorem mapMs_part (s : State) (f : Ms → Ms) (n : Nat) : (mapMs s f).part n = s.part n := rfl
@[simp] theorem mapMs_port (s : State) (f : Ms → Ms) (n : Nat) : (mapMs s f).port n = s.port n := rfl
@[simp] theorem mapMs_bed (s : State) (f : Ms → Ms) (n : Nat) : (mapMs s f).bed n = s.bed n := rfl
@[simp] theorem mapMs_sess (s : State) (f : Ms → Ms) (n : Nat) : (mapMs s f).sess n = s.sess n := rfl
@[simp] theorem mapMs_seg (s : State) (f : Ms → Ms) (n : Nat) : (mapMs s f).seg n = s.seg n := rfl
@[simp] theorem mapMs_siteOf (s : State) (f : Ms → Ms) (n : Nat) : (mapMs s f).siteOf n = s.siteOf n := rfl
@[simp] theorem mapFs_core (s : State) (f : Fs → Fs) (n : Nat) : (mapFs s f).core n = s.core n := rfl
@[simp] theorem mapFs_arr (s : State) (f : Fs → Fs) (n : Nat) : (mapFs s f).arr n = s.arr n := rfl
@[simp] theorem mapFs_router (s : State) (f : Fs → Fs) (n : Nat) : (mapFs s f).router n = s.router n := rfl
@[simp] theorem mapFs_mem (s : State) (f : Fs → Fs) (n : Nat) : (mapFs s f).mem n = s.mem n := rfl
@[simp] theorem mapFs_volume (s : State) (f : Fs → Fs) (n : Nat) : (mapFs s f).volume n = s.volume n := rfl
@[simp] theorem mapFs_part (s : State) (f : Fs → Fs) (n : Nat) : (mapFs s f).part n = s.part n := rfl
@[simp] theorem mapFs_port (s : State) (f : Fs → Fs) (n : Nat) : (mapFs s f).port n = s.port n := rfl
@[simp] theorem mapFs_bed (s : State) (f : Fs → Fs) (n : Nat) : (mapFs s f).bed n = s.bed n := rfl
@[simp] theorem mapFs_sess (s : State) (f : Fs → Fs) (n : Nat) : (mapFs s f).sess n = s.sess n := rfl
@[simp] theorem mapFs_seg (s : State) (f : Fs → Fs) (n : Nat) : (mapFs s f).seg n = s.seg n := rfl
@[simp] theorem mapFs_siteOf (s : State) (f : Fs → Fs) (n : Nat) : (mapFs s f).siteOf n = s.siteOf n := rfl
@[simp] theorem mapPorts_core (s : State) (f : Port → Port) (n : Nat) : (mapPorts s f).core n = s.core n := rfl
@[simp] theorem mapPorts_arr (s : State) (f : Port → Port) (n : Nat) : (mapPorts s f).arr n = s.arr n := rfl
@[simp] theorem mapPorts_router (s : State) (f : Port → Port) (n : Nat) : (mapPorts s f).router n = s.router n := rfl
@[simp] theorem mapPorts_mem (s : State) (f : Port → Port) (n : Nat) : (mapPorts s f).mem n = s.mem n := rfl
@[simp] theorem mapPorts_flash (s : State) (f : Port → Port) (n : Nat) : (mapPorts s f).flash n = s.flash n := rfl
@[simp] theorem mapPorts_volume (s : State) (f : Port → Port) (n : Nat) : (mapPorts s f).volume n = s.volume n := rfl
@[simp] theorem mapPorts_part (s : State) (f : Port → Port) (n : Nat) : (mapPorts s f).part n = s.part n := rfl
@[simp] theorem mapPorts_bed (s : State) (f : Port → Port) (n : Nat) : (mapPorts s f).bed n = s.bed n := rfl
@[simp] theorem mapPorts_sess (s : State) (f : Port → Port) (n : Nat) : (mapPorts s f).sess n = s.sess n := rfl
@[simp] theorem mapPorts_seg (s : State) (f : Port → Port) (n : Nat) : (mapPorts s f).seg n = s.seg n := rfl
@[simp] theorem mapPorts_siteOf (s : State) (f : Port → Port) (n : Nat) : (mapPorts s f).siteOf n = s.siteOf n := rfl
@[simp] theorem mapParts_core (s : State) (f : Nat → Part → Part) (n : Nat) : (mapParts s f).core n = s.core n := rfl
@[simp] theorem mapParts_arr (s : State) (f : Nat → Part → Part) (n : Nat) : (mapParts s f).arr n = s.arr n := rfl
@[simp] theorem mapParts_router (s : State) (f : Nat → Part → Part) (n : Nat) : (mapParts s f).router n = s.router n := rfl
@[simp] theorem mapParts_mem (s : State) (f : Nat → Part → Part) (n : Nat) : (mapParts s f).mem n = s.mem n := rfl
@[simp] theorem mapParts_flash (s : State) (f : Nat → Part → Part) (n : Nat) : (mapParts s f).flash n = s.flash n := rfl
@[simp] theorem mapParts_volume (s : State) (f : Nat → Part → Part) (n : Nat) : (mapParts s f).volume n = s.volume n := rfl
@[simp] theorem mapParts_port (s : State) (f : Nat → Part → Part) (n : Nat) : (mapParts s f).port n = s.port n := rfl
@[simp] theorem mapParts_bed (s : State) (f : Nat → Part → Part) (n : Nat) : (mapParts s f).bed n = s.bed n := rfl
@[simp] theorem mapParts_sess (s : State) (f : Nat → Part → Part) (n : Nat) : (mapParts s f).sess n = s.sess n := rfl
@[simp] theorem mapParts_seg (s : State) (f : Nat → Part → Part) (n : Nat) : (mapParts s f).seg n = s.seg n := rfl
@[simp] theorem mapParts_siteOf (s : State) (f : Nat → Part → Part) (n : Nat) : (mapParts s f).siteOf n = s.siteOf n := rfl

@[simp] theorem State.event_sess (s : State) (code source part param n : Nat) : (s.event code source part param).sess n = s.sess n := rfl
@[simp] theorem State.event_seg (s : State) (code source part param n : Nat) : (s.event code source part param).seg n = s.seg n := rfl

/-! ## Reading a unit that was written -/

theorem State.setCore_core (s : State) (k j : Nat) (c : Core) :
    (s.setCore k c).core j = if j = k then c else s.core j := SMap.look_put _ _ _ _ _
@[simp] theorem State.setCore_core_same (s : State) (k : Nat) (c : Core) : (s.setCore k c).core k = c := SMap.look_put_same _ _ _ _
theorem State.setCore_core_other (s : State) {k j : Nat} (c : Core) (h : j ≠ k) : (s.setCore k c).core j = s.core j :=
  SMap.look_put_other _ _ _ h

theorem State.setArr_arr (s : State) (k j : Nat) (c : Arr) :
    (s.setArr k c).arr j = if j = k then c else s.arr j := SMap.look_put _ _ _ _ _
@[simp] theorem State.setArr_arr_same (s : State) (k : Nat) (c : Arr) : (s.setArr k c).arr k = c := SMap.look_put_same _ _ _ _
theorem State.setArr_arr_other (s : State) {k j : Nat} (c : Arr) (h : j ≠ k) : (s.setArr k c).arr j = s.arr j :=
  SMap.look_put_other _ _ _ h

theorem State.setRouter_router (s : State) (k j : Nat) (c : Router) :
    (s.setRouter k c).router j = if j = k then c else s.router j := SMap.look_put _ _ _ _ _
@[simp] theorem State.setRouter_router_same (s : State) (k : Nat) (c : Router) : (s.setRouter k c).router k = c := SMap.look_put_same _ _ _ _
theorem State.setRouter_router_other (s : State) {k j : Nat} (c : Router) (h : j ≠ k) : (s.setRouter k c).router j = s.router j :=
  SMap.look_put_other _ _ _ h

theorem State.setMem_mem (s : State) (k j : Nat) (c : Ms) :
    (s.setMem k c).mem j = if j = k then c else s.mem j := SMap.look_put _ _ _ _ _
@[simp] theorem State.setMem_mem_same (s : State) (k : Nat) (c : Ms) : (s.setMem k c).mem k = c := SMap.look_put_same _ _ _ _
theorem State.setMem_mem_other (s : State) {k j : Nat} (c : Ms) (h : j ≠ k) : (s.setMem k c).mem j = s.mem j :=
  SMap.look_put_other _ _ _ h

theorem State.setFlash_flash (s : State) (k j : Nat) (c : Fs) :
    (s.setFlash k c).flash j = if j = k then c else s.flash j := SMap.look_put _ _ _ _ _
@[simp] theorem State.setFlash_flash_same (s : State) (k : Nat) (c : Fs) : (s.setFlash k c).flash k = c := SMap.look_put_same _ _ _ _
theorem State.setFlash_flash_other (s : State) {k j : Nat} (c : Fs) (h : j ≠ k) : (s.setFlash k c).flash j = s.flash j :=
  SMap.look_put_other _ _ _ h

theorem State.setVolume_volume (s : State) (k j : Nat) (c : Option Volume) :
    (s.setVolume k c).volume j = if j = k then c else s.volume j := SMap.look_put _ _ _ _ _
@[simp] theorem State.setVolume_volume_same (s : State) (k : Nat) (c : Option Volume) : (s.setVolume k c).volume k = c := SMap.look_put_same _ _ _ _
theorem State.setVolume_volume_other (s : State) {k j : Nat} (c : Option Volume) (h : j ≠ k) : (s.setVolume k c).volume j = s.volume j :=
  SMap.look_put_other _ _ _ h

theorem State.setPart_part (s : State) (k j : Nat) (c : Part) :
    (s.setPart k c).part j = if j = k then c else s.part j := SMap.look_put _ _ _ _ _
@[simp] theorem State.setPart_part_same (s : State) (k : Nat) (c : Part) : (s.setPart k c).part k = c := SMap.look_put_same _ _ _ _
theorem State.setPart_part_other (s : State) {k j : Nat} (c : Part) (h : j ≠ k) : (s.setPart k c).part j = s.part j :=
  SMap.look_put_other _ _ _ h

theorem State.setPort_port (s : State) (k j : Nat) (c : Port) :
    (s.setPort k c).port j = if j = k then c else s.port j := SMap.look_put _ _ _ _ _
@[simp] theorem State.setPort_port_same (s : State) (k : Nat) (c : Port) : (s.setPort k c).port k = c := SMap.look_put_same _ _ _ _
theorem State.setPort_port_other (s : State) {k j : Nat} (c : Port) (h : j ≠ k) : (s.setPort k c).port j = s.port j :=
  SMap.look_put_other _ _ _ h

theorem State.setBed_bed (s : State) (k j : Nat) (c : Bed) :
    (s.setBed k c).bed j = if j = k then c else s.bed j := SMap.look_put _ _ _ _ _
@[simp] theorem State.setBed_bed_same (s : State) (k : Nat) (c : Bed) : (s.setBed k c).bed k = c := SMap.look_put_same _ _ _ _
theorem State.setBed_bed_other (s : State) {k j : Nat} (c : Bed) (h : j ≠ k) : (s.setBed k c).bed j = s.bed j :=
  SMap.look_put_other _ _ _ h

theorem State.setSess_sess (s : State) (k j : Nat) (c : Sess) :
    (s.setSess k c).sess j = if j = k then c else s.sess j := SMap.look_put _ _ _ _ _
@[simp] theorem State.setSess_sess_same (s : State) (k : Nat) (c : Sess) : (s.setSess k c).sess k = c := SMap.look_put_same _ _ _ _
theorem State.setSess_sess_other (s : State) {k j : Nat} (c : Sess) (h : j ≠ k) : (s.setSess k c).sess j = s.sess j :=
  SMap.look_put_other _ _ _ h

@[simp] theorem State.setSeg_seg_same (s : State) (k : Nat) (g : Seg) : (s.setSeg k g).seg k = g := by
  unfold State.setSeg State.seg
  split <;> simp_all

theorem State.setSeg_seg_other (s : State) {k j : Nat} (g : Seg) (hk : k < 2) (hj : j < 2) (h : j ≠ k) :
    (s.setSeg k g).seg j = s.seg j := by
  rcases k with _ | _ | k <;> rcases j with _ | _ | j <;> first | rfl | omega

@[simp] theorem State.setSeg_sess (s : State) (k : Nat) (g : Seg) (n : Nat) : (s.setSeg k g).sess n = s.sess n := by
  unfold State.setSeg State.sess
  split <;> rfl

@[simp] theorem State.setSess_seg (s : State) (k : Nat) (c : Sess) (n : Nat) : (s.setSess k c).seg n = s.seg n := rfl

@[simp] theorem State.emit_out (s : State) (o : Out) : (s.emit o).out = o :: s.out := rfl
@[simp] theorem State.draw_draws (s : State) : s.draw.draws = s.draws + 1 := rfl
@[simp] theorem State.inject_nextId (s : State) (p cls epoch : Nat) (l : Loc) (e : Nat) (b : Body) :
    (s.inject p cls epoch l e b).nextId = s.nextId + 1 := rfl

/-! ## Reading a unit after every unit was changed -/

/-- A function that keeps the reset value changes every unit, listed or not. -/
theorem mapRouters_router (s : State) (f : Router → Router) (h : f Router.reset = Router.reset) (n : Nat) :
    (mapRouters s f).router n = f (s.router n) := SMap.look_mapV Router.reset (fun _ r => f r) (fun _ => h) s.routers n

theorem mapMs_mem (s : State) (f : Ms → Ms) (h : f Ms.reset = Ms.reset) (n : Nat) : (mapMs s f).mem n = f (s.mem n) :=
  SMap.look_mapV Ms.reset (fun _ m => f m) (fun _ => h) s.ms n

theorem mapPorts_port (s : State) (f : Port → Port) (h : f Port.reset = Port.reset) (n : Nat) :
    (mapPorts s f).port n = f (s.port n) := SMap.look_mapV Port.reset (fun _ q => f q) (fun _ => h) s.ports n

theorem mapParts_part (s : State) (f : Nat → Part → Part) (h : ∀ k, f k Part.reset = Part.reset) (n : Nat) :
    (mapParts s f).part n = f n (s.part n) := SMap.look_mapV Part.reset f h s.parts n

theorem mapCores_core (s : State) (l : List Nat) (f : Core → Core) (h : f Core.reset = Core.reset) (k : Nat) :
    (mapCores s l f).core k = if l.contains (keyArr k) = true then f (s.core k) else s.core k :=
  SMap.look_mapV Core.reset (fun k c => if l.contains (keyArr k) then f c else c)
    (fun k => by
      split
      · exact h
      · rfl) s.cores k

end Sys2Proof.Machine
end

