-- ==== Sys2Proof/Laws/Ops.lean ====
section
/-!
SUPPORT. What the shared operations do, said once: the unit guard, a slot that fires, the cycles an array fires before it, freezes, the
teardown that a fault starts.
-/
namespace Sys2Proof.Machine

/-! ## The unit guard -/

@[simp] theorem guardUnit_true (t : State) : guardUnit true t = .next t := rfl
@[simp] theorem guardUnit_false (t : State) : guardUnit false t = .fault .absentUnit := rfl

theorem guardUnit_of {ok : Bool} (h : ok = true) (t : State) : guardUnit ok t = .next t := by rw [h]; rfl

/-- A guarded meaning goes on exactly for units the device has. -/
theorem guardUnit_next {ok : Bool} {t u : State} : guardUnit ok t = .next u ↔ ok = true ∧ t = u := by
  cases ok <;> simp [guardUnit]

theorem yields_next {t : State} {P : State → Prop} : Yields (.next t) P ↔ P t :=
  ⟨fun ⟨_, e, h⟩ => by cases e; exact h, fun h => ⟨t, rfl, h⟩⟩

theorem yields_guardUnit {ok : Bool} {t : State} {P : State → Prop} (h : ok = true) : Yields (guardUnit ok t) P ↔ P t := by
  rw [guardUnit_of h]
  exact yields_next

/-! ## Slots -/

/-- A slot that fires acts on the state that finds its array in the slot's fire cycle; then the trap of that cycle is taken. -/
theorem State.withSlot_fires {s : State} {sa x y cls op : Nat} (h : s.Fires sa x y cls op) (f : State → Core → W64 → Nat → State) :
    s.withSlot sa x y cls op f =
      (f (s.atSlot sa x y) (s.slotCore sa x y) (s.slotCore sa x y).word (s.dueAt sa x y)).slotEnds sa := by
  unfold State.withSlot
  dsimp only
  rw [if_pos h.1.2]
  exact if_pos h.2

theorem State.withSlot_idle {s : State} {sa x y cls op : Nat} (h : s.slotReady sa (coreKey sa x y) cls op = false)
    (f : State → Core → W64 → Nat → State) : s.withSlot sa x y cls op f = s := by
  unfold State.withSlot
  dsimp only
  rw [if_neg (by simp [h])]

/-- A slot that a trap of an earlier cycle stops does not fire. -/
theorem State.withSlot_stopped {s : State} {sa x y cls op : Nat} (h : s.Due sa x y cls op)
    (e : ((s.atSlot sa x y).arr sa).runs (s.dueAt sa x y) = false) (f : State → Core → W64 → Nat → State) :
    s.withSlot sa x y cls op f = s.atSlot sa x y := by
  unfold State.withSlot
  dsimp only
  rw [if_pos h.2]
  exact if_neg (by rw [Bool.not_eq_true]; exact e)

theorem State.exec_fires {s : State} {sa x y cls op : Nat} (h : s.Fires sa x y cls op) (f : State → Core → W64 → Nat → State) :
    guardUnit (coreOk sa x y) (s.withSlot sa x y cls op f) =
      .next ((f (s.atSlot sa x y) (s.slotCore sa x y) (s.slotCore sa x y).word (s.dueAt sa x y)).slotEnds sa) := by
  rw [guardUnit_of h.1.1, State.withSlot_fires h]

theorem State.fire_slotDone (s : State) (sa x y d : Nat) (c : Core) :
    ((s.atSlot sa x y).fire sa x y d c).slotEnds sa = s.slotDone sa x y (c.advance d 0) := rfl

/-- An array with no trapping event waiting takes no trap. -/
theorem State.latch_none (s : State) (sa : Nat) (h : (s.arr sa).notes = []) : s.latch sa = s := by
  unfold State.latch
  dsimp only
  rw [h]
  rfl

/-! ## Cycles that fire before a slot (R45, R103) -/

/-- What retirement and credit may change. -/
def State.SameBut (s t : State) : Prop :=
  t = { s with cores := t.cores, arrays := t.arrays, parts := t.parts, net := t.net, nextId := t.nextId, routers := t.routers, ms := t.ms }

theorem State.SameBut.refl (s : State) : s.SameBut s := rfl

theorem State.SameBut.trans {s t u : State} (h : s.SameBut t) (k : t.SameBut u) : s.SameBut u := by
  unfold State.SameBut at h k ⊢
  rw [k, h]

theorem State.SameBut.foldl {α : Type} {g : State → α → State} (hg : ∀ u a, State.SameBut u (g u a)) (l : List α) (s : State) :
    s.SameBut (l.foldl g s) := by
  induction l generalizing s with
  | nil => exact State.SameBut.refl s
  | cons a l ih => exact (hg s a).trans (ih (g s a))

theorem State.credit_sameBut (s : State) (p : Nat) (f : Option Feeder) (n : Nat) : s.SameBut (s.credit p f n) := by
  unfold State.credit
  rcases f with _ | f
  · rfl
  · cases f <;> rfl

theorem State.retireMsg_sameBut (s : State) (k ring : Nat) : s.SameBut (s.retireMsg k ring) := by
  unfold State.retireMsg
  dsimp only
  split
  · exact State.SameBut.trans (t := s.setCore k _) rfl (State.credit_sameBut _ _ _ _)
  · rfl

theorem State.settleCore_sameBut (s : State) (d k : Nat) : s.SameBut (s.settleCore d k) := by
  unfold State.settleCore
  dsimp only
  split
  · rfl
  · refine State.SameBut.trans (t := s.setCore k _) rfl (State.SameBut.foldl (fun u a => ?_) _ _)
    split
    · split
      · exact State.retireMsg_sameBut _ _ _
      · rfl
    · rfl

theorem State.note_sameBut (s : State) (sa : Nat) (l : List TrapNote) : s.SameBut (s.note sa l) := by
  unfold State.note
  dsimp only
  split <;> rfl

theorem State.insertMma_sameBut (s : State) (sa x y : Nat) (m : MmaPend) (rest : List MmaPend) (n : Nat) :
    s.SameBut (s.insertMma sa x y m rest n) := by
  unfold State.insertMma
  dsimp only
  split
  · rfl
  · exact State.SameBut.trans (t := s.setCore (coreKey sa x y) _) rfl (State.note_sameBut _ _ _)

theorem State.insertBefore_sameBut (sa x y d : Nat) (l : List MmaPend) (s : State) : s.SameBut (s.insertBefore sa x y d l) := by
  induction l generalizing s with
  | nil => rfl
  | cons m ms ih =>
    unfold State.insertBefore
    dsimp only
    split
    · rfl
    · split
      · exact State.insertMma_sameBut _ _ _ _ _ _ _
      · exact (State.insertMma_sameBut _ _ _ _ _ _ _).trans (ih _)

theorem State.stir_sameBut (s : State) (sa : Nat) : s.SameBut (s.stir sa) := by
  unfold State.stir
  split <;> rfl

theorem State.fireTo_sameBut (s : State) (sa d : Nat) : s.SameBut (s.fireTo sa d) := by
  unfold State.fireTo
  dsimp only
  split
  · exact State.SameBut.trans (t := s.setArr sa _) rfl (State.stir_sameBut _ _)
  · rfl

/-- What firing up to a cycle can do: the leaves and messages that are due, and the cycle that the array has reached. -/
theorem State.reach_sameBut (s : State) (sa d : Nat) : s.SameBut (s.reach sa d) := by
  unfold State.reach State.settle
  dsimp only
  refine State.SameBut.trans ?_ (State.fireTo_sameBut _ _ _)
  exact State.SameBut.trans (State.SameBut.foldl (fun u a => State.insertBefore_sameBut _ _ _ _ _ u) _ s)
    (State.SameBut.foldl (fun u a => State.settleCore_sameBut u d a) _ _)

/-- Nothing of another array changes: neither its registers nor its cores. -/
def State.OnlyArr (sa : Nat) (s t : State) : Prop :=
  (∀ n, n ≠ sa → t.arr n = s.arr n) ∧ ∀ k, keyArr k ≠ sa → t.core k = s.core k

theorem State.OnlyArr.refl (sa : Nat) (s : State) : s.OnlyArr sa s := ⟨fun _ _ => rfl, fun _ _ => rfl⟩

theorem State.OnlyArr.trans {sa : Nat} {s t u : State} (h : s.OnlyArr sa t) (k : t.OnlyArr sa u) : s.OnlyArr sa u :=
  ⟨fun n hn => (k.1 n hn).trans (h.1 n hn), fun n hn => (k.2 n hn).trans (h.2 n hn)⟩

theorem State.OnlyArr.setCore {sa k : Nat} (s : State) (c : Core) (h : keyArr k = sa) : s.OnlyArr sa (s.setCore k c) :=
  ⟨fun _ _ => rfl, fun n hn => State.setCore_core_other s c (by rintro rfl; exact hn h)⟩

theorem State.OnlyArr.setArr (sa : Nat) (s : State) (a : Arr) : s.OnlyArr sa (s.setArr sa a) :=
  ⟨fun _ hn => State.setArr_arr_other s a hn, fun _ _ => rfl⟩

/-- A fold over cores of the array, each step of which touches only the array. -/
theorem State.OnlyArr.foldl {sa : Nat} {g : State → Nat → State} {l : List Nat} (hl : ∀ k ∈ l, keyArr k = sa)
    (hg : ∀ (u : State) (k : Nat), keyArr k = sa → u.OnlyArr sa (g u k)) (s : State) : s.OnlyArr sa (l.foldl g s) := by
  induction l generalizing s with
  | nil => exact State.OnlyArr.refl sa s
  | cons a l ih =>
    exact (hg s a (hl a List.mem_cons_self)).trans (ih (fun k hk => hl k (List.mem_cons_of_mem _ hk)) _)

theorem State.credit_onlyArr (sa : Nat) (s : State) (p : Nat) (f : Option Feeder) (n : Nat) : s.OnlyArr sa (s.credit p f n) := by
  unfold State.credit
  rcases f with _ | f
  · exact State.OnlyArr.refl sa s
  · cases f <;> exact ⟨fun _ _ => rfl, fun _ _ => rfl⟩

theorem State.retireMsg_onlyArr (s : State) (k ring : Nat) : s.OnlyArr (keyArr k) (s.retireMsg k ring) := by
  unfold State.retireMsg
  dsimp only
  split
  · exact (State.OnlyArr.setCore s _ rfl).trans (State.credit_onlyArr _ _ _ _ _)
  · exact State.OnlyArr.setCore s _ rfl

theorem State.settleCore_onlyArr (s : State) (d k : Nat) : s.OnlyArr (keyArr k) (s.settleCore d k) := by
  unfold State.settleCore
  dsimp only
  split
  · exact State.OnlyArr.refl _ s
  · generalize hc : ({ s.core k with retires := (s.core k).retires.filter fun r => !decide (r.1 < d) } : Core) = c
    refine (State.OnlyArr.setCore s c rfl).trans ?_
    generalize s.setCore k c = u
    generalize (s.core k).retires.filter (fun r => decide (r.1 < d)) = l
    induction l generalizing u with
    | nil => exact State.OnlyArr.refl _ u
    | cons a l ih =>
      refine State.OnlyArr.trans ?_ (ih _)
      dsimp only
      split
      · split
        · exact State.retireMsg_onlyArr _ _ _
        · exact State.OnlyArr.refl _ _
      · exact State.OnlyArr.refl _ _

theorem State.note_onlyArr (s : State) (sa : Nat) (l : List TrapNote) : s.OnlyArr sa (s.note sa l) := by
  unfold State.note
  dsimp only
  split
  · exact State.OnlyArr.refl sa s
  · exact State.OnlyArr.setArr sa s _

theorem State.insertMma_onlyArr (s : State) {sa x y : Nat} (m : MmaPend) (rest : List MmaPend) (n : Nat)
    (h : keyArr (coreKey sa x y) = sa) : s.OnlyArr sa (s.insertMma sa x y m rest n) := by
  unfold State.insertMma
  dsimp only
  split
  · exact State.OnlyArr.setCore s _ h
  · exact (State.OnlyArr.setCore s _ h).trans (State.note_onlyArr _ _ _)

theorem State.insertBefore_onlyArr {sa x y : Nat} (d : Nat) (h : keyArr (coreKey sa x y) = sa) (l : List MmaPend) (s : State) :
    s.OnlyArr sa (s.insertBefore sa x y d l) := by
  induction l generalizing s with
  | nil => exact State.OnlyArr.refl sa s
  | cons m ms ih =>
    unfold State.insertBefore
    dsimp only
    split
    · exact State.OnlyArr.refl sa s
    · split
      · exact State.insertMma_onlyArr _ _ _ _ h
      · exact (State.insertMma_onlyArr _ _ _ _ h).trans (ih _)

theorem coreKey_of_key (k : Nat) : coreKey (keyArr k) (keyX k) (keyY k) = k := by
  unfold coreKey keyArr keyX keyY
  omega

theorem State.settleStore_onlyArr (s : State) (d k : Nat) : s.OnlyArr (keyArr k) (s.settleStore d k) := by
  unfold State.settleStore
  exact State.insertBefore_onlyArr d (by rw [coreKey_of_key]) _ s

theorem State.fireTo_onlyArr (s : State) (sa d : Nat) : s.OnlyArr sa (s.fireTo sa d) := by
  unfold State.fireTo
  dsimp only
  split
  · refine State.OnlyArr.trans (State.OnlyArr.setArr sa s { s.arr sa with fireCycle := d }) ?_
    unfold State.stir
    split
    · exact ⟨fun _ _ => rfl, fun _ _ => rfl⟩
    · exact State.OnlyArr.refl _ _
  · exact State.OnlyArr.refl _ _

/-- An array that fires up to `d` touches no other array and no core of another. -/
theorem State.reach_onlyArr (s : State) (sa d : Nat) : s.OnlyArr sa (s.reach sa d) := by
  have mine : ∀ (u : State) (busy : Core → Bool), ∀ k ∈ (u.cores.filter fun kc => keyArr kc.1 == sa && busy kc.2).map (·.1), keyArr k = sa := by
    intro u busy k hk
    simp only [List.mem_map, List.mem_filter, Bool.and_eq_true, beq_iff_eq] at hk
    obtain ⟨e, he, rfl⟩ := hk
    exact he.2.1
  unfold State.reach State.settle
  dsimp only
  have a := State.OnlyArr.foldl (g := fun s k => s.settleStore d k) (mine s fun c => !c.mmaPend.isEmpty) (fun u k hk => by subst hk; exact State.settleStore_onlyArr u d k) s
  revert a
  generalize (List.foldl (fun s k => s.settleStore d k) s _ : State) = v
  intro a
  have b := State.OnlyArr.foldl (g := fun s k => s.settleCore d k) (mine v fun c => !c.retires.isEmpty) (fun u k hk => by subst hk; exact State.settleCore_onlyArr u d k) v
  exact (a.trans b).trans (State.fireTo_onlyArr _ _ _)

/-- A core that waits for no retirement is as before. -/
theorem State.settleCore_none (s : State) (d k : Nat) (h : (s.core k).retires = []) : s.settleCore d k = s := by
  unfold State.settleCore
  simp [h]

/-- With nothing to insert or retire in the array, only its fire cycle moves. -/
theorem State.reach_quiet (s : State) (sa d : Nat) (h : ∀ kc ∈ s.cores, keyArr kc.1 = sa → kc.2.retires = [] ∧ kc.2.mmaPend = []) :
    s.reach sa d = s.fireTo sa d := by
  have e : ∀ busy : Core → Bool, (∀ c, c.retires = [] → c.mmaPend = [] → busy c = false) →
      s.cores.filter (fun kc => keyArr kc.1 == sa && busy kc.2) = [] := by
    intro busy hb
    rw [List.filter_eq_nil_iff]
    intro kc hm
    by_cases hk : keyArr kc.1 = sa
    · simp [hb _ (h kc hm hk).1 (h kc hm hk).2]
    · simp [hk]
  unfold State.reach State.settle
  dsimp only
  rw [e (fun c => !c.mmaPend.isEmpty) (by intro c _ hc; simp [hc])]
  simp only [List.map_nil, List.foldl_nil]
  rw [e (fun c => !c.retires.isEmpty) (by intro c hc _; simp [hc])]
  rfl

/-! ## Freezes (R53) -/

theorem freezeAll_arr (s : State) (why : Freeze) (l : List Nat) (n : Nat) :
    (freezeAll s why l).arr n = if n ∈ l then { s.arr n with freeze := some ((s.arr n).freeze.getD why) } else s.arr n := by
  induction l generalizing s with
  | nil => simp [freezeAll]
  | cons a l ih =>
    unfold freezeAll
    rw [ih, State.setArr_arr]
    by_cases h : n = a
    · subst h
      simp
    · simp [h]

theorem thawAll_arr (s : State) (l : List Nat) (n : Nat) :
    (thawAll s l).arr n = if n ∈ l then { s.arr n with freeze := none } else s.arr n := by
  induction l generalizing s with
  | nil => simp [thawAll]
  | cons a l ih =>
    unfold thawAll
    rw [ih, State.setArr_arr]
    by_cases h : n = a
    · subst h
      simp
    · simp [h]

theorem freezeAll_frame (s : State) (why : Freeze) (l : List Nat) :
    freezeAll s why l = { s with arrays := (freezeAll s why l).arrays } := by
  induction l generalizing s with
  | nil => rfl
  | cons a l ih =>
    unfold freezeAll
    rw [ih]
    rfl

theorem thawAll_frame (s : State) (l : List Nat) : thawAll s l = { s with arrays := (thawAll s l).arrays } := by
  induction l generalizing s with
  | nil => rfl
  | cons a l ih =>
    unfold thawAll
    rw [ih]
    rfl

/-! ## What a fault starts (R227-R229) -/

theorem State.loaderOf_part {s : State} {p h : Nat} (e : s.loaderOf p = some h) : (s.port h).loader.part = p := by
  have := List.find?_some e
  simp only [Bool.and_eq_true, beq_iff_eq] at this
  exact this.2

theorem State.gather_part (s : State) (p o : Nat) : o ≠ p → (s.gather p).part o = s.part o :=
  fun h => State.setPart_part_other s _ h

theorem scratched_frame (l : List Nat) (s : State) :
    l.foldl (fun s k => s.setCore k { s.core k with scratch := [] }) s =
      { s with cores := (l.foldl (fun s k => s.setCore k { s.core k with scratch := [] }) s).cores } := by
  induction l generalizing s with
  | nil => rfl
  | cons a l ih =>
    rw [List.foldl_cons, ih]
    rfl

/-- The end of a load for `p` changes no other partition and no state, END or fault record. -/
theorem State.restoreShadows_frame (s : State) (p : Nat) (l : List Nat) :
    s.restoreShadows p l = { s with cores := (s.restoreShadows p l).cores, parts := (s.restoreShadows p l).parts } := by
  unfold State.restoreShadows
  dsimp only
  rw [scratched_frame]
  rfl

theorem State.restoreShadows_part (s : State) (p o : Nat) (l : List Nat) :
    (s.restoreShadows p l).part o = if o = p then { s.part p with
      regionsShadow := (s.part p).regions, psetsShadow := (s.part p).psets, graphShadow := (s.part p).graph, routesShadow := [] }
      else s.part o := by
  unfold State.restoreShadows
  dsimp only
  rw [scratched_frame]
  exact State.setPart_part s p o _

/-- What an ended load leaves of each partition. -/
theorem State.endLoad_part (s : State) (h reason frame o : Nat) :
    (s.endLoad h reason frame).part o = if o = (s.port h).loader.part then { s.part o with
      regionsShadow := (s.part o).regions, psetsShadow := (s.part o).psets, graphShadow := (s.part o).graph, routesShadow := [],
      commitPending := false, plan := none } else s.part o := by
  have e : (s.endLoad h reason frame).part o = ((s.restoreShadows (s.port h).loader.part (s.port h).loader.scratched).setPart
    (s.port h).loader.part { (s.restoreShadows (s.port h).loader.part (s.port h).loader.scratched).part (s.port h).loader.part with
      commitPending := false, plan := none }).part o := rfl
  rw [e, State.setPart_part]
  split
  · next he =>
    subst he
    rw [State.restoreShadows_part, if_pos rfl]
  · next he => rw [State.restoreShadows_part, if_neg he]

theorem abortLoads_part (s : State) (p o : Nat) (h : o ≠ p) : (abortLoads s p).part o = s.part o := by
  unfold abortLoads
  split
  · next e => rw [State.endLoad_part, if_neg (by rw [State.loaderOf_part e]; exact h)]
  · rfl

/-- The shape, END and records of a partition outlive the end of its load. -/
theorem abortLoads_own (s : State) (p : Nat) :
    ((abortLoads s p).part p).state = (s.part p).state ∧ ((abortLoads s p).part p).sas = (s.part p).sas
      ∧ ((abortLoads s p).part p).endCode = (s.part p).endCode ∧ ((abortLoads s p).part p).fault = (s.part p).fault := by
  unfold abortLoads
  split
  · next e =>
    rw [State.endLoad_part, if_pos (State.loaderOf_part e).symm]
    exact ⟨rfl, rfl, rfl, rfl⟩
  · exact ⟨rfl, rfl, rfl, rfl⟩

theorem flushTokens_parts (s : State) (p : Nat) (old : Nat → Bool) : (flushTokens s p old).1.parts = s.parts := by
  unfold flushTokens
  dsimp only
  split <;> rfl

theorem freezeAll_parts (s : State) (why : Freeze) (l : List Nat) : (freezeAll s why l).parts = s.parts := by
  rw [freezeAll_frame]

/-- The state that teardown gathers: as it is, or with the partition's status word gathered. -/
theorem startBindOff_eq (s : State) (p : Nat) (why : Freeze) (torn : Bool) :
    ∃ v u : State, (v = s ∨ v = s.gather p) ∧ u.parts = (abortLoads v p).parts ∧ startBindOff s p why torn = u.setPart p { u.part p with
      state := .binding, commitPending := false, placing := false, resuming := false, stopWaits := false, castLeft := [], divs := [] } := by
  unfold startBindOff
  dsimp only
  generalize hv : (if ((s.part p).state != .suspended && (s.part p).state != .placed && (s.part p).state != .resumable) = true then s.gather p else s) = v
  have hs : v = s ∨ v = s.gather p := by
    rw [← hv]
    split
    · exact .inr rfl
    · exact .inl rfl
  generalize hx : (flushTokens (freezeAll (abortLoads v p) why ((abortLoads v p).part p).sas) p fun _ => true).1 = x
  have hp : x.parts = (abortLoads v p).parts := by
    rw [← hx]
    exact (flushTokens_parts _ _ _).trans (freezeAll_parts _ _ _)
  cases torn
  · exact ⟨v, x, hs, hp, rfl⟩
  · refine ⟨v, _, hs, ?_, rfl⟩
    exact hp

/-- Teardown: the partition is BINDING, with its arrays, END and record. -/
theorem startBindOff_own (s : State) (p : Nat) (why : Freeze) (torn : Bool) :
    let q := (startBindOff s p why torn).part p
    q.state = .binding ∧ q.sas = (s.part p).sas ∧ q.endCode = (s.part p).endCode ∧ q.fault = (s.part p).fault := by
  have g : ∀ v u : State, (v = s ∨ v = s.gather p) → u.parts = (abortLoads v p).parts →
      (u.part p).sas = (s.part p).sas ∧ (u.part p).endCode = (s.part p).endCode ∧ (u.part p).fault = (s.part p).fault := by
    intro v u hv hu
    have e : u.part p = (abortLoads v p).part p := by unfold State.part; rw [hu]
    have k := abortLoads_own v p
    rw [e, k.2.1, k.2.2.1, k.2.2.2]
    rcases hv with rfl | rfl
    · exact ⟨rfl, rfl, rfl⟩
    · have m : (s.gather p).part p = _ := State.setPart_part_same s p _
      rw [m]
      exact ⟨rfl, rfl, rfl⟩
  obtain ⟨v, u, hv, hu, e⟩ := startBindOff_eq s p why torn
  rw [e]
  dsimp only
  rw [State.setPart_part_same]
  exact ⟨rfl, g v u hv hu⟩

/-- Teardown of one partition leaves every other as it was. -/
theorem startBindOff_other (s : State) (p o : Nat) (why : Freeze) (torn : Bool) (h : o ≠ p) :
    (startBindOff s p why torn).part o = s.part o := by
  obtain ⟨v, u, hv, hu, e⟩ := startBindOff_eq s p why torn
  have g : u.part o = (abortLoads v p).part o := by unfold State.part; rw [hu]
  rw [e, State.setPart_part_other _ _ h, g, abortLoads_part _ _ _ h]
  rcases hv with rfl | rfl
  · rfl
  · exact State.gather_part _ _ _ h

/-- A fault of one partition leaves every other as it was. -/
theorem faultPart_other (s : State) (p o : Nat) (f : FaultInfo) (h : o ≠ p) : (faultPart s p f).part o = s.part o := by
  unfold faultPart
  dsimp only
  split
  · rfl
  · rw [State.setPart_part_other _ _ h]
    split
    · exact State.setPart_part_other s _ h
    · rw [startBindOff_other _ _ _ _ _ h]
      exact State.setPart_part_other s _ h

/-- A fault of a live partition starts its teardown: BINDING, END unless it stays, the record by the arbiter's order. -/
theorem faultPart_live (s : State) (p : Nat) (f : FaultInfo) (h : (s.part p).state.live = true) :
    let q := (faultPart s p f).part p
    q.state = .binding ∧ q.sas = (s.part p).sas
      ∧ q.endCode = (if (s.part p).endYields s.mgs.tick f.rank then f.kind else (s.part p).endCode)
      ∧ q.fault = (recordOf (s.part p).fault (s.part p).faultAt s.mgs.tick f.rank f.words).1 := by
  have n1 : ¬(((s.part p).state == .none || (s.part p).state == .ended) = true) := by
    intro e
    rcases Bool.or_eq_true _ _ ▸ e with e | e <;> rw [beq_iff_eq] at e <;> rw [e] at h <;> cases h
  have n2 : ¬(((s.part p).state == .binding) = true) := by
    intro e
    rw [beq_iff_eq] at e
    rw [e] at h
    cases h
  unfold faultPart
  dsimp only
  rw [if_neg n1, if_neg n2, State.setPart_part_same]
  generalize hr : recordOf (s.part p).fault (s.part p).faultAt s.mgs.tick f.rank f.words = r
  generalize hu : (s.setPart p { s.part p with fault := r.1, faultAt := r.2 }).event f.code f.source p f.param = u
  have m : u.part p = { s.part p with fault := r.1, faultAt := r.2 } := by
    rw [← hu]
    exact State.setPart_part_same s p _
  have k := startBindOff_own u p .fault true
  generalize (startBindOff u p .fault true).part p = q at k ⊢
  dsimp only at k
  rw [m] at k
  unfold endWith
  split
  · exact ⟨k.1, k.2.1, rfl, k.2.2.2⟩
  · exact ⟨k.1, k.2.1, k.2.2.1, k.2.2.2⟩

/-! ## Reads through the outer code (R142, R143) -/

/-- A read that meets no error and no poison changes nothing and delivers its bytes. -/
theorem State.readSpots_clean (s : State) (l : List (Nat × Nat)) (h : ∀ a ∈ l, a.2 ∉ (s.mem a.1).poison) (k : Nat) :
    ∃ bs, s.readSpots [] k l = (s, some bs) := by
  induction l generalizing k with
  | nil => exact ⟨[], rfl⟩
  | cons a l ih =>
    obtain ⟨bs, e⟩ := ih (fun b m => h b (List.mem_cons_of_mem _ m)) (k + 1)
    exact ⟨s.sectorData a.1 a.2 ++ bs, by simp [State.readSpots, State.readSector, h a List.mem_cons_self, e]⟩

/-- So does one of a region range. -/
theorem State.range_clean (s : State) (p r : Nat) (w : Nat × Nat) (h : ∀ a ∈ s.sectorSpots p r w.1 w.2, a.2 ∉ (s.mem a.1).poison) :
    (s.reading.range p r [] w).1 = s ∧ (s.reading.range p r [] w).2.2 ≠ none := by
  obtain ⟨bs, e⟩ := s.readSpots_clean _ h 0
  simp [Reading.range, State.reading, e]

end Sys2Proof.Machine
end

