-- ==== Sys2Proof/Tests/Slice0.lean ====
section
/-!
SUPPORT. Tests: terms that the unit check refuses; for each statement with hypotheses, states and operands that meet them (named
witness_...), clause by clause where the clauses differ; and single commands on small states, with results worked out from the spec's
rules (named test_...).
-/
namespace Sys2Proof.Tests
set_option Elab.async false
open Sys2Proof.Machine

/-! ## Helpers -/

/-- The answer is a next state with the property. -/
def shows (a : Answer) (p : State → Bool) : Bool := match a with
  | .next t => p t
  | _ => false

/-- A slot word from its fields (R47). -/
def slotW (cls op delta ops : Nat) : W64 := BitVec.ofNat 64 (2 ^ 60 * cls + 2 ^ 56 * op + 2 ^ 48 * delta + ops)

/-- A core whose next slot is `w`. -/
def cell (w : W64) : Core := { Core.reset with halted := false, prog := [(0, w)] }

/-- A partition that runs on array 0, and one of another state. -/
def job : Part := { Part.reset with state := .running, sas := [0], saCount := 1 }

/-- Array 0 of partition 0, with one core at (0, 0). -/
def oneCell (c : Core) : State :=
  { State.reset with
    cores := [(0, c)], arrays := [(0, { Arr.reset with released := true, part := some 0 })], parts := [(0, job)],
    mgs := { State.reset.mgs with phase := .released } }

/-- That core with one slot of a class and operation, due in fire cycle 1. -/
def slot (cls op ops : Nat) : State := oneCell (cell (slotW cls op 1 ops))

/-- With a change of its core. -/
def slotOn (cls op ops : Nat) (f : Core → Core) : State := oneCell (f (cell (slotW cls op 1 ops)))

/-! ## Ill-formed terms are refused, well-formed ones at the boundary are not -/

theorem test_wf_core : (Instr.nop 1199 23 23).wf = true ∧ (Instr.nop 1200 23 23).wf = false ∧ (Instr.nop 1199 24 23).wf = false
    ∧ (Instr.nop 1199 23 24).wf = false := by decide
theorem test_wf_array : (Instr.hold 1199).wf = true ∧ (Instr.hold 1200).wf = false := by decide
theorem test_wf_site : (Instr.attachRouterFail 1295).wf = true ∧ (Instr.attachRouterFail 1296).wf = false := by decide
theorem test_wf_bed : (Instr.bedWake 35).wf = true ∧ (Instr.bedWake 36).wf = false := by decide
theorem test_wf_ms : (Instr.streamRequestAdmit 39).wf = true ∧ (Instr.streamRequestAdmit 40).wf = false := by decide
theorem test_wf_fs : (Instr.nandChannelFail 7 3).wf = true ∧ (Instr.nandChannelFail 8 3).wf = false
    ∧ (Instr.nandChannelFail 7 4).wf = false := by decide
theorem test_wf_port : (Instr.skeinEnd 31).wf = true ∧ (Instr.skeinEnd 32).wf = false := by decide
theorem test_wf_part : (Instr.castLockDone 63).wf = true ∧ (Instr.castLockDone 64).wf = false := by decide
theorem test_wf_queue : (Instr.queueDisable 31 7).wf = true ∧ (Instr.queueDisable 31 8).wf = false := by decide
theorem test_wf_segment : (Instr.plcaBeacon 1).wf = true ∧ (Instr.plcaBeacon 2).wf = false := by decide
theorem test_wf_channel_port : (Instr.sendDrained 0 0 0 7 .clean).wf = true ∧ (Instr.sendDrained 0 0 0 8 .clean).wf = false := by decide
theorem test_wf_steer : (Instr.steerSkew 0 0 0 1).wf = true ∧ (Instr.steerSkew 0 0 0 2).wf = false := by decide
theorem test_wf_mesh_port : (Instr.ringMessageArrival 5 3).wf = true ∧ (Instr.ringMessageArrival 5 4).wf = false := by decide
theorem test_wf_lane : (Instr.laneSpare 0 6 15).wf = true ∧ (Instr.laneSpare 0 7 15).wf = false
    ∧ (Instr.laneSpare 0 3 16).wf = false := by decide
theorem test_wf_reduction_slot : (Instr.reductionAdd 0 15).wf = true ∧ (Instr.reductionAdd 0 16).wf = false := by decide
theorem test_wf_station_slot : (Instr.stationRedAdd 0 63).wf = true ∧ (Instr.stationRedAdd 0 64).wf = false := by decide
theorem test_wf_thread : (Instr.pseThreadReturn 0 31 []).wf = true ∧ (Instr.pseThreadReturn 0 32 []).wf = false := by decide
theorem test_wf_window : (Instr.winMapWrite 0 63 0).wf = true ∧ (Instr.winMapWrite 0 64 0).wf = false := by decide
theorem test_wf_stream : (Instr.ideIntegrityFail 0 8).wf = true ∧ (Instr.ideIntegrityFail 0 9).wf = false := by decide
theorem test_wf_feed : (Instr.feedDrop 2).wf = true ∧ (Instr.feedDrop 3).wf = false ∧ (Instr.standbyFeedDrop 1).wf = true
    ∧ (Instr.standbyFeedDrop 2).wf = false := by decide
theorem test_wf_reference : (Instr.refLoss 1).wf = true ∧ (Instr.refLoss 2).wf = false := by decide
theorem test_wf_mgs_units : (Instr.entropyTestFail 2 false).wf = true ∧ (Instr.entropyTestFail 3 false).wf = false ∧ (Instr.keyStoreBankFail 1).wf = true
    ∧ (Instr.keyStoreBankFail 2).wf = false ∧ (Instr.mgcFail 2).wf = true ∧ (Instr.mgcFail 3).wf = false := by decide

/-- The table gives no row bits, so no word spells a command. -/
theorem test_no_word : decodeTableWord 64 5 = none ∧ (State.reset.withFetchWord 64 5).pending = [] := by decide

/-! ## The step -/

theorem witness_EarlierCyclesOnlyRetireMessages :
    State.reset.trapMode 0 = 0 ∧ (State.reset.core 0).mmaPend = [] ∧ keyArr 0 = 0 ∧ keyArr 576 ≠ 0 := by decide +kernel

theorem witness_IdleStepIsOneTick : (slot 0 0 0).pending = [] ∧ (slot 0 0 0).TablesOk := by
  unfold State.TablesOk
  decide
theorem test_tick : shows (step (slot 0 0 0)) (fun t => t.mgs.tick == 1 && (t.part 0).elapsedTicks == 1) = true := by decide

theorem witness_CommandsCompleteExactlyOnUnitsOfTheDevice :
    (Instr.hold 1199).wf = true ∧ (Instr.hold 1200).wf = false := by decide

theorem witness_EveryStepStaysSafe : ({ slot 0 0 0 with pending := [.nop 0 0 0, .borderRelease] } : State).Safe := by
  unfold State.Safe State.QueueOk State.LogOk State.TablesOk
  decide

theorem witness_NoCommandWritesFusesOrTheQueue :
    exec .borderRelease State.reset = .next State.reset ∧ ∃ t, step { State.reset with pending := [.borderRelease] } = .next t :=
  ⟨rfl, _, rfl⟩

/-! ## CTRL, HOLD, SYNC (R48, R49, R52, R106, R107) -/

/-- A slot due in fire cycle 1 of an array whose trap of fire cycle 0 waits. -/
def trapWaits (op : Nat) : State :=
  let s := slot 0 op 0
  s.setArr 0 { s.arr 0 with notes := [⟨0, 0, false, 0, ⟨0, 0, 0, 0, 0, 0, 0, 0, 0⟩⟩] }

theorem witness_ControlSlotsMoveTheSequencer : (slot 0 0 0).Fires 0 0 0 0 0 ∧ (slot 0 1 0xFFFFFF).Fires 0 0 0 0 1
    ∧ (slot 0 2 (2 ^ 38 * 5 + 2 ^ 22 * 3)).Fires 0 0 0 0 2
    ∧ (∀ op ∈ [0, 1, 2], (trapWaits op).Due 0 0 0 0 op ∧ (((trapWaits op).atSlot 0 0 0).arr 0).runs ((trapWaits op).dueAt 0 0 0) = false)
    := by
  unfold State.Fires State.Due
  decide

/-- WAIT with COUNT 7: the next slot's DELTA counts from 7 fire cycles later. -/
theorem test_wait : shows (exec (.wait 0 0 0) (slot 0 1 7)) (fun t => (t.core 0).extra == 7 && (t.core 0).lastFire == 1) = true := by decide
/-- LOOP with END 5, COUNT_M1 3. -/
theorem test_loop : shows (exec (.loop 0 0 0) (slot 0 2 (2 ^ 38 * 5 + 2 ^ 22 * 3))) (fun t => (t.core 0).loops == [⟨1, 5, 3, 0⟩]) = true := by
  decide

theorem witness_LoopBodyRunsCountTimes :
    let s := fun l => slotOn 0 0 0 fun c => { c with loops := l }
    ∀ l ∈ [[(⟨7, 0, 2, 0⟩ : LoopFrame)], [⟨7, 0, 0, 2⟩, ⟨4, 9, 1, 0⟩], [⟨7, 3, 1, 0⟩]],
      (s l).Fires 0 0 0 0 0 ∧ ((s l).slotCore 0 0 0).loops = l := by
  unfold State.Fires State.Due
  decide
/-- The end of a body with two iterations to come goes back to its first slot; the innermost count rises. -/
theorem test_loop_back : shows (exec (.nop 0 0 0) (slotOn 0 0 0 fun c => { c with loops := [⟨7, 0, 2, 0⟩] }))
    (fun t => (t.core 0).slot == 7 && (t.core 0).loops == [⟨7, 0, 1, 1⟩]) = true := by decide

theorem witness_HaltStopsTheCoreAndRestsTheArray : (slot 0 3 0).Fires 0 0 0 0 3
    ∧ ((slot 0 3 0).slotDone 0 0 0 { (slot 0 3 0).slotCore 0 0 0 with halted := true, lastFire := 1, extra := 0 }).allHalted 0 = true
    ∧ ({ slot 0 3 0 with cores := [(0, cell (slotW 0 3 1 0)), (1, cell (slotW 0 0 9 0))] } : State).Fires 0 0 0 0 3
    ∧ (let s := oneCell { Core.reset with halted := true, matrixFree := 9 }
       s.TablesOk ∧ s.allHalted 0 = true ∧ (s.arr 0).runs (s.restAt 0) = true ∧ (s.arr 0).fireCycle < s.restAt 0
        ∧ s.doneTo 0 (s.restAt 0) = true ∧ (s.arr 0).notes = []) := by
  unfold State.Fires State.Due State.TablesOk
  decide

/-- HOLD: COUNT_GE counter 2 with VALUE 3, consuming. -/
def holdCell (n : Nat) : State := slotOn 1 0 (2 ^ 37 * 2 + 2 ^ 36 + 2 ^ 20 * 3) fun c => c.setCounter 2 n

theorem witness_HoldPassesOnlyTogether : ∀ n ∈ [2, 3], saOk 0 = true ∧ (holdCell n).TablesOk
    ∧ (holdCell n).holdReady 0 ((holdCell n).nextDue 0) = true := by
  unfold State.TablesOk
  decide
theorem test_hold_passes : shows (exec (.hold 0) (holdCell 5)) (fun t => (t.core 0).counter 2 == 2 && (t.core 0).slot == 1) = true := by decide
theorem test_hold_holds : shows (exec (.hold 0) (holdCell 2)) (fun t => (t.core 0).counter 2 == 2 && (t.core 0).slot == 0) = true := by decide

theorem witness_SyncSlotsChangeOneFlagOrCounter : (slot 5 0 (2 ^ 42 * 47)).Fires 0 0 0 5 0 ∧ (slot 5 1 0).Fires 0 0 0 5 1
    ∧ (slot 5 4 (2 ^ 42 * 15)).Fires 0 0 0 5 4
    ∧ (∀ n ∈ [0xFFFE, 0xFFFF], (slotOn 5 2 (2 ^ 26) fun c => c.setCounter 0 n).Fires 0 0 0 5 2
        ∧ ((slotOn 5 2 (2 ^ 26) fun c => c.setCounter 0 n).atSlot 0 0 0).strict 0 = false)
    ∧ (∀ n ∈ [0, 1], (slotOn 5 3 (2 ^ 26) fun c => c.setCounter 0 n).Fires 0 0 0 5 3
        ∧ ((slotOn 5 3 (2 ^ 26) fun c => c.setCounter 0 n).atSlot 0 0 0).strict 0 = false)
    ∧ slotClass (slotW 5 4 1 0) = 5 ∧ slotOp (slotW 5 4 1 0) ≤ 4 := by
  unfold State.Fires State.Due
  decide
theorem test_fset : shows (exec (.fset 0 0 0) (slot 5 0 (2 ^ 42 * 47))) (fun t => (t.core 0).flags == 1#48 <<< 47) = true := by decide
theorem test_fclr : shows (exec (.fclr 0 0 0) (slotOn 5 1 (2 ^ 42) fun c => { c with flags := 3 })) (fun t => (t.core 0).flags == 1) = true := by
  decide
/-- 0xFFFF + 1 stays at 0xFFFF and sets the sticky. -/
theorem test_cinc : shows (exec (.cinc 0 0 0) (slotOn 5 2 (2 ^ 26) fun c => c.setCounter 0 0xFFFF))
    (fun t => (t.core 0).counter 0 == 0xFFFF && (t.core 0).stickies == 1) = true := by decide
theorem test_cdec : shows (exec (.cdec 0 0 0) (slotOn 5 3 (2 ^ 26 * 9) fun c => c.setCounter 0 4))
    (fun t => (t.core 0).counter 0 == 0 && (t.core 0).stickies == 1) = true := by decide
theorem test_cclr : shows (exec (.cclr 0 0 0) (slotOn 5 4 0 fun c => { c.setCounter 0 4 with stickies := 1 }))
    (fun t => (t.core 0).counter 0 == 0 && (t.core 0).stickies == 1) = true := by decide

/-- The job in strict mode. -/
def strictOn (op n : Nat) : State :=
  let s := slotOn 5 op (2 ^ 26) fun c => c.setCounter 0 n
  s.setPart 0 { job with strictMode := true }

theorem witness_CounterRangeFaultInStrictMode : (strictOn 2 0xFFFF).NoTrapWaits 0 0 0
    ∧ (strictOn 3 0).NoTrapWaits 0 0 0 ∧ (((strictOn 2 0xFFFF).atSlot 0 0 0).part 0).endCode ≤ 1
    ∧ (((strictOn 2 0xFFFF).atSlot 0 0 0).part 0).strictMode = true ∧ (((strictOn 2 0xFFFF).atSlot 0 0 0).arr 0).part = some 0
    ∧ (((strictOn 2 0xFFFF).atSlot 0 0 0).part 0).state.live = true ∧ bitOf (((strictOn 2 0xFFFF).atSlot 0 0 0).part 0).fault.w0 63 = false
    ∧ (strictOn 2 0xFFFF).Fires 0 0 0 5 2 ∧ (strictOn 3 0).Fires 0 0 0 5 3 := by
  unfold State.Fires State.Due State.NoTrapWaits
  decide
theorem test_cinc_strict : shows (exec (.cinc 0 0 0) (strictOn 2 0xFFFF))
    (fun t => (t.part 0).state == .binding && (t.part 0).endCode == 5 && (t.core 0).counter 0 == 0xFFFF) = true := by decide

/-! ## Matrix and move slots (R67-R81) -/

theorem witness_TreeInsertionGivesTheReferenceSum : (List.replicate 16 (5#32)).length = 16 ∧ [1#32, 2#32, 3#32].length ≤ 65536 := by decide
/-- 1 + 2 + 3: leaves 1 and 2 form a node, 3 passes up: 6. -/
theorem test_tree : (foldColumn (insertLeaves ⟨List.replicate 16 5, 0⟩ [0x3F800000, 0x40000000, 0x40400000]).1).1 = 0x40C00000#32 := by
  decide

theorem witness_MoveSlotsCopyRawBytes :
    (let s := slot 2 0 0; let c := s.slotCore 0 0 0
      s.Fires 0 0 0 2 0 ∧ c.matrixBusy 1 = false ∧ (c.readRange 0 256).isSome = true ∧ (c.claim 1 16 (List.range 256)).isSome = true)
    ∧ (let s := slot 3 0 (2 ^ 45 * 7); let c := s.slotCore 0 0 0
      s.Fires 0 0 0 3 0 ∧ c.moveFree ≤ 1 ∧ c.tileBusy 1 [7] = false ∧ (c.readRange 0 64).isSome = true
        ∧ (c.claim 1 4 (List.range 64)).isSome = true)
    ∧ (let s := slot 3 1 (2 ^ 33 * 4095); let c := s.slotCore 0 0 0
      s.Fires 0 0 0 3 1 ∧ c.moveFree ≤ 1 ∧ c.tileBusy 1 [0] = false
        ∧ (c.claim 1 4 ((List.range 64).map fun i => (4095 + i) % 4096)).isSome = true) := by
  unfold State.Fires State.Due
  decide

/-- A profile of BF16 operands with 16 products (R68), in MX_PROF 0. -/
def profiled (c : Core) : Core := { c with cfg := SMap.putAll 0 c.cfg 0x100 (leBytes 8 (0x11 + 2 ^ 24 * 15 + 2 ^ 33)) }

theorem witness_MmaFormsLeavesAndInsertsThemLater :
    (let s := slotOn 2 1 0 profiled; let c := s.slotCore 0 0 0; let p := profOf (c.profW 0)
      s.Fires 0 0 0 2 1 ∧ (s.atSlot 0 0 0).trapMode 0 = 0 ∧ c.matrixBusy 1 = false
        ∧ c.readRange 0 p.moveUnits = some (List.range p.moveUnits, none) ∧ c.scaleRange 0 p = some ([], none)
        ∧ (c.claimAll 1 (⟨1, readRate p.fmtA, List.range p.moveUnits⟩ :: scaleClaims p 1 [])).isSome = true
        ∧ eccFails (.corrected 0) (List.range p.moveUnits ++ []) = none)
    ∧ (let m : MmaPend := ⟨1, 0, 0, 0, 0, true, List.replicate 256 [0, 0], [0, 1], 0, []⟩
       let s := slotOn 0 0 0 fun c => { c with mmaPend := [m] }
       coreOk 0 0 0 = true ∧ (s.core (coreKey 0 0 0)).mmaPend = [m] ∧ m.leaves.length = 256 ∧ s.trapMode 0 = 0
        ∧ 0 < m.before 1 ∧ 0 < m.before 2
        ∧ (s.core (coreKey 0 0 0)).mmaPend.head? = some m ∧ s.resultReady 0 m.due = true
        ∧ (let u := s.pass 0 1
           (u.arr 0).runs 1 = true ∧ u.trapMode 0 = 0 ∧ (u.core 0).mmaPend = [m.drop 1] ∧ (m.drop 1).leaves.length = 256)) := by
  unfold State.Fires State.Due
  decide +kernel

/-- MDRAIN: to the scratchpad (bit 47), or to tile register 7. -/
theorem witness_DrainFoldsAndNodeInsertsTheStore :
    (let s := slot 2 2 (2 ^ 47 + 2 ^ 32 * 4095); let c := s.slotCore 0 0 0
      c.matrixBusy 1 = false ∧ c.accOpenTo = 0 ∧ (s.atSlot 0 0 0).trapMode 0 = 0 ∧ s.Fires 0 0 0 2 2
        ∧ (c.claim 1 4 ((List.range 64).map fun i => (4095 + i) % 4096)).isSome = true)
    ∧ (let s := slot 2 2 (2 ^ 44 * 7); let c := s.slotCore 0 0 0
      c.matrixBusy 1 = false ∧ c.accOpenTo = 0 ∧ (s.atSlot 0 0 0).trapMode 0 = 0 ∧ s.Fires 0 0 0 2 2 ∧ c.tileBusy 1 [7] = false)
    ∧ (∀ p ∈ [0, 1], let s := slotOn 2 3 (2 ^ 41) fun c => { c with pend := SMap.put 0 [] 255 (BitVec.ofNat 16 p) }; let c := s.slotCore 0 0 0
      s.Fires 0 0 0 2 3 ∧ c.tileBusy 1 [0] = false ∧ (c.column 255).pend.toNat % 2 ^ 1 = p) := by
  unfold State.Fires State.Due
  decide

theorem witness_BusyUnitRaisesAScheduleViolation :
    (∀ op ∈ [0, 1, 2, 3], let s := slotOn 2 op 0 fun c => { c with matrixFree := 2 }
      (s.slotCore 0 0 0).matrixBusy (s.dueAt 0 0 0) = true ∧ s.Fires 0 0 0 2 op)
    ∧ ∀ op ∈ [0, 1], let s := slotOn 3 op 0 fun c => { c with moveFree := 2 }
      s.dueAt 0 0 0 < (s.slotCore 0 0 0).moveFree ∧ s.Fires 0 0 0 3 op := by
  unfold State.Fires State.Due
  decide
/-- A busy matrix engine: KIND 4, cause UNIT_BUSY, and END names the schedule violation. -/
theorem test_busy : shows (exec (.mdrain 0 0 0) (slotOn 2 2 0 fun c => { c with matrixFree := 2 }))
    (fun t => (t.part 0).endCode == 4 && (t.arr 0).freeze == some .fault) = true := by decide

theorem witness_UncorrectableScratchReadEndsThePartition :
    (∀ e ∈ [(2, 0, 256), (3, 0, 64)], let s := slotOn e.1 e.2.1 0 profiled; let c := s.slotCore 0 0 0
      ((s.atSlot 0 0 0).arr 0).part = some 0 ∧ ((s.atSlot 0 0 0).part 0).state.live = true
        ∧ bitOf ((s.atSlot 0 0 0).part 0).fault.w0 63 = false ∧ s.Fires 0 0 0 e.1 e.2.1 ∧ c.matrixBusy 1 = false ∧ c.moveFree ≤ 1
        ∧ c.tileBusy 1 [0] = false ∧ c.readRange 0 e.2.2 = some (List.range e.2.2, none)
        ∧ (c.claim 1 16 (List.range e.2.2)).isSome = true ∧ (c.claim 1 4 (List.range e.2.2)).isSome = true
        ∧ eccFails (.uncorrectable 1) (List.range e.2.2) = some 1)
    ∧ (let s := slotOn 2 1 0 profiled; let c := s.slotCore 0 0 0; let pr := profOf (c.profW 0); let us := List.range pr.moveUnits
       s.Fires 0 0 0 2 1 ∧ c.matrixBusy 1 = false ∧ c.readRange 0 pr.moveUnits = some (us, none) ∧ c.scaleRange 0 pr = some ([], none)
        ∧ (c.claimAll 1 (⟨1, readRate pr.fmtA, us⟩ :: scaleClaims pr 1 [])).isSome = true
        ∧ eccFails (.uncorrectable 1) (us ++ []) = some 1)
    ∧ (let s := slotOn 2 4 0 profiled; let c := s.slotCore 0 0 0; let pr := profOf (c.profW 0); let us := List.range pr.moveUnits
       let b := List.range ({ pr with klen := 16, scaleA := 0, scaleB := 0, last := true } : Prof).moveUnits
       s.Fires 0 0 0 2 4 ∧ c.matrixBusy 1 = false ∧ c.vectorFree ≤ 1 ∧ c.tileBusy 1 [0] = false
        ∧ c.readRange 0 pr.moveUnits = some (us, none) ∧ c.readRange 0 b.length = some (b, none)
        ∧ (c.claimAll 1 (checkClaims pr 1 us b)).isSome = true ∧ eccFails (.uncorrectable 1) (us ++ b) = some 1) := by
  unfold State.Fires State.Due
  decide +kernel
/-- The uncorrectable read is counted, and the job ends with the scratchpad fault (KIND 9). -/
theorem test_scratch_ue : shows (exec (.tload 0 0 0 (.uncorrectable 63)) (slot 3 0 0))
    (fun t => t.tally.scratchUe == 1 && (t.part 0).endCode == 9 && (t.part 0).state == .binding) = true := by decide

/-! ## Vector slots (R80-R90) and steering (R57-R59) -/

theorem witness_VectorSlotsQueueTheirResults :
    (∀ op ∈ [0, 1, 2, 3], let s := slot 8 op 0; let c := s.slotCore 0 0 0
      (s.atSlot 0 0 0).trapMode 0 = 0 ∧ c.vectorFree ≤ 1 ∧ s.Fires 0 0 0 8 op ∧ c.tileBusy 1 (List.range 8) = false ∧ c.matrixFree ≤ 1
        ∧ c.accOpenTo = 0)
    ∧ (let m : VecPend := ⟨1, [(1023, 5)]⟩
       let s := slotOn 0 0 0 fun c => { c with vecPend := [m] }
       let s1 := s.setArr 0 { s.arr 0 with notes := (trapWaits 0).arr 0 |>.notes }
       coreOk 0 0 0 = true ∧ (s.core (coreKey 0 0 0)).vecPend = [m] ∧ s.resultReady 0 m.due = true ∧ ((s.pass 0 1).arr 0).runs 1 = true
        ∧ (s1.core (coreKey 0 0 0)).vecPend = [m] ∧ s1.resultReady 0 m.due = true ∧ ((s1.pass 0 1).arr 0).runs 1 = false) := by
  unfold State.Fires State.Due
  decide
/-- A result lands in its tile register. -/
theorem test_vector_lands : shows (exec (.vectorResultWrite 0 0 0) (slotOn 0 0 0 fun c => { c with vecPend := [⟨1, [(1023, 5)]⟩] }))
    (fun t => (t.core 0).tiles == [(1023, 5)] && (t.core 0).vecPend == []) = true := by decide

/-- 1.0 + 2.0 = 3.0, 2.0 × 3.0 = 6.0, and NaN gives the canonical NaN (R39, R84). -/
theorem test_elem : (elemOp 1 0x3F800000 0x40000000 0).1 = 0x40400000#32 ∧ (elemOp 3 0x40000000 0x40400000 0).1 = 0x40C00000#32
    ∧ (elemOp 1 0xFFFFFFFF 0 0).1 = 0x7FC00000#32 := by decide +kernel

theorem witness_WritesTouchOnlyTheirUnitsAndTiles : (List.replicate 65536 (9#8)).length ≤ 65536
    ∧ Memory.wf [(65535, 1)] = true ∧ (List.replicate 256 (7#32)).length = 256 :=
  ⟨Nat.le_of_eq List.length_replicate, by decide, List.length_replicate⟩

theorem witness_CheckPairFillsTileAndStore :
    let s := slotOn 2 4 0 profiled; let c := s.slotCore 0 0 0; let p := profOf (c.profW 0)
    s.Fires 0 0 0 2 4 ∧ (s.atSlot 0 0 0).trapMode 0 = 0 ∧ c.matrixBusy 1 = false ∧ c.vectorFree ≤ 1 ∧ c.tileBusy 1 [0] = false
      ∧ c.readRange 0 p.moveUnits = some (List.range p.moveUnits, none)
      ∧ (let b := List.range ({ p with klen := 16, scaleA := 0, scaleB := 0, last := true } : Prof).moveUnits
         c.readRange 0 b.length = some (b, none) ∧ (c.claimAll 1 (checkClaims p 1 (List.range p.moveUnits) b)).isSome = true
          ∧ eccFails (.corrected 0) (List.range p.moveUnits ++ b) = none) := by
  unfold State.Fires State.Due
  decide +kernel

/-- A steering unit 0 whose SKEW_MAX is 5 and whose items arrive on mesh port E, holding some entries. -/
def steering (es : List SteerEntry) (c : Core) : Core :=
  { c with cfg := SMap.putAll 0 c.cfg 0xC0 (leBytes 8 (5 + 2 ^ 8 + 2 ^ 11)) }.setSteer 0 ⟨es, 0, 0⟩

theorem witness_SteeringPairsTokensAndData :
    (slotOn 7 0 0 (steering [])).Fires 0 0 0 7 0
    ∧ (let s := slotOn 0 0 0 (steering [⟨.token 0 4, 0, false⟩])
       let x : SteerItem := .data 0 9 (.core 0 0) 100
       coreOk 0 0 0 = true ∧ steerSkewMax ((s.core 0).steerCfg 0) ≠ 0 ∧ steerInput ((s.core 0).steerCfg 0) 1 x = true
        ∧ edgePort 0 0 1 = false ∧ s.arrivalReady 0 1 = true ∧ ((s.pass 0 1).arr 0).runs 1 = true
        ∧ ((s.core 0).steer 0).mate x = some ⟨.token 0 4, 0, false⟩ ∧ pairOf x (.token 0 4) = (4, x)
        ∧ (pairOf x (.token 0 5)).1 = 5 ∧ (pairOf x (.token 0 3)).1 < 4 ∧ edgePort 0 0 3 = true ∧ edgePort 0 0 2 = false
        ∧ SMap.look 0 (s.core 0).meshClaim 2 ≠ 2)
    ∧ (let s := oneCell (steering [⟨.token 0 4, 0, false⟩] { Core.reset with halted := true, matrixFree := 9 })
       (s.core 0).skewAt 0 = some 6 ∧ s.skewReady 0 6 = true ∧ ((s.pass 0 6).arr 0).runs 6 = true) := by
  unfold State.Fires State.Due
  decide
/-- A data item meets the token that steers it to the core's own scratchpad: its bytes are written at its unit. -/
theorem test_steer : shows (exec (.steerItemArrival 0 0 0 0 1 1 (.data 0 9 (.core 0 0) 100)) (slotOn 0 0 0 (steering [⟨.token 0 4, 0, false⟩])))
    (fun t => (t.core 0).scratch == [(1600, 9)] && ((t.core 0).steer 0).entries == []) = true := by decide

/-! ## Channels (R96-R105) -/

/-- Configuration bytes of a core. -/
def withCfg (o n v : Nat) (c : Core) : Core := { c with cfg := SMap.putAll 0 c.cfg o (leBytes n v) }

/-- A core whose channel 7 is a ring channel of SIZE 0 or a direct one (KIND 2), with some credit and a port write pointer. -/
def sender (kind credit wp : Nat) (c : Core) : Core :=
  (withCfg (16 * 7) 8 (2 ^ 8 * kind + 2 ^ 39) c).setPort 7 { OutPort.reset with credit := credit, wp := wp, seq := 255 }

theorem witness_SendQueuesOneMessage :
    (∀ e ∈ [(0, 0, 6, 15), (1, 0, 4, 0), (0, 1, 0, 0), (1, 1, 4, 0), (0, 0, 3, 0), (0, 1, 3, 0)],
      let s := slotOn 4 e.2.1 (2 ^ 45 * 7 + 2 ^ 25 * 1) (sender (if e.2.1 = 1 ∧ e.2.2.1 = 0 then 2 else e.1) e.2.2.1 e.2.2.2)
      let c := s.slotCore 0 0 0
      (c.port 7).seq < 256 ∧ (s.atSlot 0 0 0).epochOf 0 < 16 ∧ sendPort c.word = 7 ∧ sendLenM1 c.word = 1 ∧ s.Fires 0 0 0 4 e.2.1
        ∧ (e.2.1 = 0 → chanKind (c.chanW0 7) < 2)
        ∧ c.portReady 7 (2 * msgUnits 16) = decide (e.2.2.1 ≠ 3))
    ∧ (let q : Part := { job with outputs := true }
       let m : Message := ⟨ringHeader 1 0 3 0 0 0 0, [], 0, 7⟩
       let s := (oneCell ({ Core.reset with halted := true }.setPort 7 { OutPort.reset with out := some m, addr := 4095 })).setPart 0 q
       let us := portUnits 4095 (hdrLen m.header - 8)
       coreOk 0 0 0 = true ∧ ((s.core (coreKey 0 0 0)).port 7).out = some m ∧ (s.arr 0).part = some 0
         ∧ (s.part 0).outputs = true ∧ m.src < 2 ^ 40 ∧ eccFails (.uncorrectable 0) us = some 4095 ∧ eccFails (.corrected 0) us = none)
    := by
  unfold State.Fires State.Due
  decide
/-- A SEND of 16 bytes at write pointer 15 of a ring of 16 units: F = 2 does not fit, one unit is skipped. -/
theorem test_send : shows (exec (.send 0 0 0) (slotOn 4 0 (2 ^ 45 * 7 + 2 ^ 25 * 1) (sender 0 6 15)))
    (fun t => let q := (t.core 0).port 7
      q.seq == 0 && q.credit == 0 && q.wp == 2 && (q.out.map fun m => (hdrLen m.header, m.payload.length)) == some (16, 0)) = true := by decide
theorem test_rwrite : shows (exec (.rwrite 0 0 0) (slotOn 4 1 (2 ^ 45 * 7 + 2 ^ 25 + 2 ^ 13 * 4095 + 2 ^ 9 * 15) (sender 2 0 0)))
    (fun t => let q := (t.core 0).port 7
      (q.out.map fun m => (hdrType m.header, hdrAddr m.header, hdrCnt m.header)) == some (3, 4095, 15)) = true := by decide
theorem test_send_drained : shows (exec (.sendDrained 0 0 0 7 .clean)
      ((oneCell ({ Core.reset with halted := true }.setPort 7 { OutPort.reset with out := some ⟨0, [], 5, 7⟩ })).setPart 0
        { job with outputs := true }))
    (fun t => (t.net.map fun k => (k.loc, k.entry)) == [(.router 0, 5)] && ((t.core 0).port 7).out.isNone) = true := by decide

/-- Message 9 at core (0, 0) of array 0, whose ring 3 has 16 units at unit 256. -/
def arriving (h : W64) (payload : List Byte) (r : Ring) : State :=
  { oneCell ((withCfg 0x98 8 (256 + 2 ^ 15) { Core.reset with halted := true }).setRing 3 r) with
    net := [⟨9, 0, 0, 0, .core 0 0 0, 0, none, [], .msg ⟨h, payload, 2 ^ 39, 0⟩⟩], nextId := 10 }

/-- Rings at write pointer 14 and 15: two units fit, or leave one to skip; a ring with a message in it. -/
theorem witness_RingMessagesLandWholeAndInOrder :
    ∀ e ∈ [(0, ({ Ring.reset with wp := 14 } : Ring)), (0, { Ring.reset with wp := 15 }), (0, { Ring.reset with wp := 15, msgs := [⟨13, 2, 0⟩] }),
        (1, { Ring.reset with wp := 14 }), (0, { Ring.reset with wp := 14, seq := 1 })],
      let s := arriving (ringHeader 1 e.1 3 0 0 0 0) [1, 2, 3, 4, 5, 6, 7, 8] e.2
      let m : Message := ⟨ringHeader 1 e.1 3 0 0 0 0, [1, 2, 3, 4, 5, 6, 7, 8], 2 ^ 39, 0⟩
      let r := (s.core 0).ring 3
      s.token 9 = some ⟨9, 0, 0, 0, .core 0 0 0, 0, none, [], .msg m⟩ ∧ hdrType m.header = e.1 ∧ hdrRing m.header = 3 ∧ (arrivalPorts 0 0).contains 1 = true
        ∧ s.inOrder 9 (sameChannel m) = true ∧ r.wp < (s.core 0).ringSize 3 ∧ s.trapMode 0 ≠ 2 ∧ (s.core 0).ringSize 3 = 16
        ∧ wrapSkip 16 r.wp (msgUnits (hdrLen m.header)) = (if r.wp = 15 then 1 else 0)
        ∧ ((r.seq = hdrSeq m.header) ↔ e.2.seq = 0) := by decide
theorem test_ring_lands : shows (exec (.ringMessageArrival 9 1) (arriving (ringHeader 1 0 3 0 0 0 0) [1, 2, 3, 4, 5, 6, 7, 8]
      { Ring.reset with wp := 14 }))
    (fun t => ((t.core 0).ring 3) == ⟨0, 0, [⟨14, 2, 0⟩], 1⟩ && SMap.look 0 (t.core 0).scratch (16 * 271) == 1 && t.net == []) = true := by decide

theorem witness_DirectWritesAndCreditLand :
    (∀ e ∈ [(0, 0xFFFE), (0, 0xFFFF), (1, 0)],
      let h := writeHeader 1 0 e.1 15 4095
      let s0 := arriving h [1, 2, 3, 4, 5, 6, 7, 8] Ring.reset
      let s := s0.setCore 0 ((s0.core 0).setCounter 15 e.2)
      s.token 9 = some ⟨9, 0, 0, 0, .core 0 0 0, 0, none, [], .msg ⟨h, [1, 2, 3, 4, 5, 6, 7, 8], 2 ^ 39, 0⟩⟩ ∧ hdrType h = 3 ∧ (arrivalPorts 0 0).contains 1 = true
        ∧ s.inOrder 9 (sameChannel ⟨h, [1, 2, 3, 4, 5, 6, 7, 8], 2 ^ 39, 0⟩) = true ∧ SMap.look 0 (s.core 0).seqs 0 = 0 ∧ hdrSeq h = e.1
        ∧ s.strict 0 = false)
    ∧ (let s := { oneCell { Core.reset with halted := true } with net := [⟨3, 0, 0, 0, .core 0 0 0, 0, none, [], .credit 7 20⟩] }
       coreOk 0 0 0 = true ∧ (s.net.find? fun o => o.loc == .core 0 0 0 && (match o.body with
          | .credit q _ => q == 7
          | _ => false)) = some ⟨3, 0, 0, 0, .core 0 0 0, 0, none, [], .credit 7 20⟩) := by decide
/-- Eight bytes at unit 4095, counter 15 up by one. -/
theorem test_direct_write : shows (exec (.directWriteArrival 9 1) (arriving (writeHeader 1 0 0 15 4095) [1, 2, 3, 4, 5, 6, 7, 8] Ring.reset))
    (fun t => (t.core 0).counter 15 == 1 && SMap.look 0 (t.core 0).scratch 65527 == 8) = true := by decide
theorem test_credit_return : shows (exec (.creditReturn 0 0 0 7)
      { oneCell { Core.reset with halted := true } with net := [⟨3, 0, 0, 0, .core 0 0 0, 0, none, [], .credit 7 20⟩] })
    (fun t => ((t.core 0).port 7).credit == 20 && t.net == []) = true := by decide

/-- Past unit 4,095 at unit 0 (R72). -/
theorem test_units_wrap : writeUnits [] 4095 (List.replicate 16 0 ++ [7]) = [(0, 7)] := by decide

/-! ## Streams (R145-R151) -/

/-- W0 and W1 of a descriptor: operation, role, tile count, step increment, landing counter 2; tiles of 64 bytes, one row each, at unit 64. -/
def descOf (op role tcount : Nat) (c : Core) : Core :=
  withCfg (0x910 + 24 * 63) 8 64
    (withCfg (0x900 + 24 * 63) 8 (op + 4 * role + 2 ^ 13 + 2 ^ 14 * 2 + 2 ^ 18 + 2 ^ 19 * 64 + 2 ^ 39 * (tcount - 1) + 2 ^ 63) c)

/-- A slot over descriptor 63 in a given state. -/
def streamSlot (sop op role tcount : Nat) (v : Desc) (more : List Nat) : State :=
  slotOn 6 sop (2 ^ 42 * 63) fun c => more.foldl (fun c n => c.setDesc n ⟨true, 0, 1, [], 0, 0, 0, []⟩) ((descOf op role tcount c).setDesc 63 v)

theorem witness_StreamSlotsOpenSendReleaseAndClose :
    (∀ e ∈ [(0, 0, 1, Desc.reset, [], true), (0, 0, 3, ⟨true, 0, 3, [], 0, 0, 0, []⟩, [], true), (0, 2, 1, Desc.reset, [1, 2, 3, 4], false),
        (1, 0, 4, Desc.reset, [], true), (0, 1, 2, ⟨true, 0, 2, [], 0, 0, 0, []⟩, [], true), (0, 3, 2, ⟨true, 0, 1, [], 0, 0, 0, []⟩, [], true),
        (0, 1, 2, Desc.reset, [1, 2, 3, 4], false), (0, 1, 2, ⟨true, 0, 1, [], 0, 0, 0, []⟩, [1, 2, 3, 4, 5, 6], false)],
      let s := streamSlot 0 e.2.1 e.1 e.2.2.1 e.2.2.2.1 e.2.2.2.2.1; let c := s.slotCore 0 0 0; let g := c.descCfg 63
      ((s.atSlot 0 0 0).arr 0).part = some 0 ∧ s.Fires 0 0 0 6 0 ∧ fld c.word 47 42 = 63 ∧ g.op = e.2.1 ∧ g.role = e.1 ∧ g.tcount = e.2.2.1
        ∧ c.desc 63 = e.2.2.2.1
        ∧ (!((c.desc 63).opened == false && c.cannotOpen 63)
            && decide (c.outstanding + (if g.op % 2 = 0 ∧ (c.desc 63).opened = false then min 3 g.tcount else if g.op % 2 = 0 then 0 else 1) ≤ 6))
          = e.2.2.2.2.2)
    ∧ (∀ e ∈ [(1, 4, ⟨true, 0, 1, [], 0, 0, 0, []⟩, []), (0, 4, Desc.reset, []), (0, 4, ⟨true, 0, 3, [0, 1], 0, 0, 0, []⟩, [1, 2, 3, 4, 5]),
        (0, 4, ⟨true, 3, 4, [0, 1, 2, 3], 0, 0, 0, []⟩, []), (2, 4, ⟨true, 0, 3, [0], 0, 0, 0, []⟩, [])],
      let s := streamSlot 1 e.1 0 e.2.1 e.2.2.1 e.2.2.2; let c := s.slotCore 0 0 0; let g := c.descCfg 63; let v := c.desc 63
      ((s.atSlot 0 0 0).arr 0).part = some 0 ∧ s.Fires 0 0 0 6 1 ∧ fld c.word 47 42 = 63 ∧ g.op = e.1 ∧ g.tcount = e.2.1
        ∧ v = e.2.2.1 ∧ (((s.atSlot 0 0 0).part 0).groupOf 0 0 0 63) = none
        ∧ (decide (v.head + 3 < g.tcount) && decide (6 < c.outstanding + 1)) = !e.2.2.2.isEmpty)
    ∧ (let s := (streamSlot 1 0 0 4 ⟨true, 0, 3, [0], 0, 0, 0, []⟩ []).setPart 0 { job with routes := [⟨2 + 2 ^ 16 * 4, 2 ^ 21 * 63, 0, 0⟩] }
       s.Fires 0 0 0 6 1 ∧ ((s.atSlot 0 0 0).arr 0).part = some 0
         ∧ ((s.atSlot 0 0 0).part 0).groupOf 0 0 0 63 = some 4)
    ∧ (let s := streamSlot 0 1 0 2 Desc.reset []; let c := s.slotCore 0 0 0
       s.Fires 0 0 0 6 0 ∧ eccFails (.uncorrectable 1) (c.requestUnits 63 (c.fetchTiles 63)) = some 65)
    ∧ (let s := streamSlot 1 2 0 4 ⟨true, 0, 3, [0], 0, 0, 0, []⟩ []; let c := s.slotCore 0 0 0
       s.Fires 0 0 0 6 1 ∧ (eccFails (.uncorrectable 0) (c.requestUnits 63 ((s.atSlot 0 0 0).relTiles 0 0 0 63))).isSome = true) := by
  unfold State.Fires State.Due
  decide
/-- A READ of four tiles: three requests on the descriptor's entry. -/
theorem test_sfetch : shows (exec (.sfetch 0 0 0 .clean) (streamSlot 0 0 0 4 Desc.reset []))
    (fun t => (t.net.map fun k => match k.body with
      | .request r => r.tile
      | _ => 99) == [0, 1, 2] && (t.core 0).desc 63 == ⟨true, 0, 3, [], 0, 0, 0, []⟩) = true := by decide
/-- The last tile closes the descriptor and, with STEPINC 1, advances STEP_NUM. -/
theorem test_srel : shows (exec (.srel 0 0 0 .clean) (streamSlot 1 0 0 4 ⟨true, 3, 4, [0, 1, 2, 3], 0, 0, 0, []⟩ []))
    (fun t => (t.core 0).stepNum == 1 && ((t.core 0).desc 63).opened == false) = true := by decide

/-- A tile or an acknowledgement at a core with descriptor 63. -/
def landing (op tcount : Nat) (v : Desc) (n : Nat) (b : Body) : State :=
  { oneCell (((descOf op 0 tcount { Core.reset with halted := true }).setDesc 63 v).setCounter 2 n) with
    net := [⟨9, 0, 0, 0, .core 0 0 0, 0, none, [], b⟩] }

/-- The whole tile; a message that does not end it; one out of sequence; one of a tile that a closed pass still waits for. -/
theorem witness_TilesAndAcknowledgementsLand :
    (∀ n ∈ [0xFFFE, 0xFFFF], ∀ e ∈ [(64, 255, 1, ⟨true, 0, 3, [0], 255, 0, 0, []⟩, false), (32, 255, 1, ⟨true, 0, 3, [0], 255, 0, 0, []⟩, false),
        (64, 0, 1, ⟨true, 0, 3, [0], 255, 0, 0, []⟩, false), (64, 5, 1, ({ Desc.reset with late := [1] } : Desc), true)],
      let b : Body := .tile 63 68 e.2.2.1 e.2.1 (List.replicate e.1 1)
      let s := landing 0 4 e.2.2.2.1 n b; let c := s.core 0; let g := c.descCfg 63
      s.token 9 = some ⟨9, 0, 0, 0, .core 0 0 0, 0, none, [], b⟩ ∧ c.landingDesc 68 1 = some (63, e.2.2.2.2)
        ∧ (s.inOrder 9 fun o => match o.body with
          | .tile src2 _ _ _ _ => src2 == 63 && (o.loc == .core 0 0 0 || (match o.loc with
            | .router _ => true
            | _ => false))
          | _ => false) = true
        ∧ c.desc 63 = e.2.2.2.1 ∧ g.lcntEn = true ∧ s.strict 0 = false
        ∧ (16 * (68 - g.buffer 1) + e.1 = g.tbytes ↔ e.1 = 64))
    ∧ (∀ v ∈ [(⟨true, 0, 2, [], 0, 0, 0, []⟩ : Desc), ⟨true, 0, 2, [0], 0, 0, 0, []⟩], let s := landing 1 2 v 0 (.ack 63 1)
      s.token 9 = some ⟨9, 0, 0, 0, .core 0 0 0, 0, none, [], .ack 63 1⟩ ∧ ((s.core 0).desc 63).opened = true ∧ (s.arr 0).part = some 0
        ∧ (s.core 0).counter ((s.core 0).descCfg 63).lcnt < 0xFFFF) := by decide
theorem test_tile_landing : shows (exec (.tileLanding 9) (landing 0 4 ⟨true, 0, 3, [0], 255, 0, 0, []⟩ 4 (.tile 63 68 1 255 (List.replicate 64 1))))
    (fun t => (t.core 0).desc 63 == ⟨true, 0, 3, [0, 1], 0, 0, 0, []⟩ && (t.core 0).counter 2 == 5 && SMap.look 0 (t.core 0).scratch 1151 == 1) = true := by
  decide
theorem test_write_ack : shows (exec (.writeAck 9) (landing 1 2 ⟨true, 0, 2, [0], 0, 0, 0, []⟩ 4 (.ack 63 1)))
    (fun t => ((t.core 0).desc 63).opened == false && (t.core 0).stepNum == 1 && (t.core 0).counter 2 == 5) = true := by decide

/-! ## The trellis (R116-R134, R154) -/

/-- Token 9 of partition 0 at the router of site 0, which has one entry 5. -/
def routed (w : W64) (r : Router) (b : Body) : State :=
  { (oneCell { Core.reset with halted := true }).setRouter 0 { r with entries := [(5, w)] } with
    net := [⟨9, 0, 0, 0, .router 0, 5, none, [], b⟩], nextId := 10 }

/-- A ROUTE_ENT of partition 0 and class 0: outputs, NEXT. -/
def entW (out next : Nat) : W64 := BitVec.ofNat 64 (1 + 2 * out + 2 ^ 7 * next)

/-- A message of class 1 behind one of class 0 for the same output. -/
def crowded : State :=
  let s := routed (BitVec.ofNat 64 (1 + 2 * 2 + 2 ^ 7 * 6 + 2 ^ 39)) Router.reset (.credit 0 1)
  let s1 := s.setRouter 0 { s.router 0 with entries := [(5, BitVec.ofNat 64 (0x305 + 2 ^ 39)), (6, entW 2 6)] }
  { s1 with net := s1.net.map (fun k => { k with cls := 1 }) ++ [⟨10, 0, 0, 0, .router 0, 6, none, [], .credit 0 1⟩] }

theorem witness_RoutersForwardOnlyTheirOwnersMessages :
    entW 2 6 = 0x305 ∧ (∀ e ∈ [(0x305, false, true), (0, false, false), (0x200000001, false, false), (0x8000000001, false, false),
        (0x305, true, true)],
      let s := routed (BitVec.ofNat 64 e.1) { Router.reset with dead := e.2.1 } (.credit 0 1)
      let tk : Token := ⟨9, 0, 0, 0, .router 0, 5, none, [], .credit 0 1⟩
      s.token 9 = some tk ∧ s.mayEnter tk = true ∧ (s.router 0).dead = e.2.1 ∧ s.givesWay 0 tk = false
        ∧ decide (entValid ((s.router 0).entry 5) = true ∧ entPart ((s.router 0).entry 5) = 0 ∧ entClass ((s.router 0).entry 5) = 0) = e.2.2)
    ∧ (let s := routed (entW 2 6) Router.reset (.credit 0 1); let e := (s.router 0).entry 5
       entReduce e = false ∧ entOut e = 2 ∧ neighbour 0 1 = some 1 ∧ (s.router 1).dead = false ∧ 1 ∉ (s.router 0).deadDirs)
    ∧ (let s := crowded; let tk : Token := ⟨9, 0, 1, 0, .router 0, 5, none, [], .credit 0 1⟩
       s.token 9 = some tk ∧ s.mayEnter tk = true ∧ (s.router 0).dead = false ∧ s.givesWay 0 tk = true)
    ∧ (let tk : Token := ⟨9, 0, 0, 0, .router 1, 5, some (0, 1), [3], .credit 0 1⟩
       linkOf tk 3 = some (0, 1) ∧ 4 ∉ tk.lanes
         ∧ (let s := { (oneCell { Core.reset with halted := true }) with net := [tk] }
            s.token 9 = some tk ∧ s.mayEnter tk = true ∧ s.givesWay 1 tk = false))
    ∧ (let s := routed 0x3E0000000001#64 Router.reset (.msg ⟨0, [], 0, 0⟩); let e := (s.router 0).entry 5
       entValid e = true ∧ entPart e = 0 ∧ entClass e = 0 ∧ entReduce e = true ∧ s.mayEnter ⟨9, 0, 0, 0, .router 0, 5, none, [], .msg ⟨0, [], 0, 0⟩⟩ = true) := by
  decide
theorem test_router_message : shows (exec (.routerMessage 9 .clean) (routed (entW 2 6) Router.reset (.credit 0 1)))
    (fun t => t.net == [⟨9, 0, 0, 0, .router 1, 6, some (0, 1), [0], .credit 0 1⟩]) = true := by decide
/-- An entry of partition 1: dropped, counted, and the job ends with the route fault (R124). -/
theorem test_route_owner : shows (exec (.routerMessage 9 .clean) (routed (BitVec.ofNat 64 (1 + 2 ^ 33)) Router.reset (.credit 0 1)))
    (fun t => t.net == [] && t.tally.routeDrops == 1 && (t.part 0).endCode == 8) = true := by decide

/-- Site 4's direction 2 has lane 7 marked. -/
def lanes (spared : List Nat) : State :=
  let s := oneCell { Core.reset with halted := true }
  s.setRouter 4 { Router.reset with entries := [(5, entW 4 6)], marked := [32 * 2 + 7], spared := spared }

theorem witness_OneSpareLaneADirection :
    (32 * 2 + 6 ∉ ((lanes []).router 4).marked ∧ wideLink 4 2 = false ∧ wideLink (attachSite 0) 5 = true)
    ∧ (32 * 2 + 7 ∈ ((lanes [32 * 3 + 7]).router 4).marked ∧ ∀ k ∈ ((lanes [32 * 3 + 7]).router 4).spared, k / 32 ≠ 2)
    ∧ (∀ n ∈ [65535, 65536], let m := { (lanes []).mgs with softEntries := n }
      decide (m.softEntries < 65536) = decide (n = 65535) ∧ 4 ∉ m.deadSites)
    ∧ (32 * 2 + 7 ∈ ((lanes [32 * 2]).router 4).marked ∧ (∃ k ∈ ((lanes [32 * 2]).router 4).spared, k / 32 = 2)
      ∧ (5, entW 4 6) ∈ ((lanes [32 * 2]).router 4).entries ∧ entValid (entW 4 6) = true ∧ entPart (entW 4 6) = 0
      ∧ (entOut (entW 4 6)).testBit 2 = true ∧ ((lanes [32 * 2]).part 0).state.live = true) := by decide
theorem test_lane_spare : shows (exec (.laneSpare 4 2 7) (lanes []))
    (fun t => (t.router 4).spared == [71] && t.tally.lanesSpared == 1 && t.mgs.softEntries == 1) = true := by decide
theorem test_second_spare : shows (exec (.laneSpare 4 2 7) (lanes [64]))
    (fun t => (t.router 4).deadDirs == [2] && (t.part 0).state == .binding) = true := by decide

/-- With a full soft map the site leaves service (R318). -/
theorem test_lane_full_map : shows (exec (.laneSpare 4 2 7) (let s := lanes []; { s with mgs := { s.mgs with softEntries := 65536 } }))
    (fun t => t.mgs.deadSites == [4] && (t.router 4).spared == []) = true := by decide

/-- A tree of group 4 with its root at site 0 and a node at site 1 that has branches 4 and 1. -/
def treed (site branch : Nat) (held : List (Nat × Nat × Nat)) : State :=
  let s := oneCell ((withCfg 0x900 8 (2 ^ 39 * 3 + 2 ^ 63) { Core.reset with halted := true }).setDesc 0 ⟨true, 1, 3, [0], 0, 0, 0, []⟩)
  { (s.setRouter site { Router.reset with releases := held }).setPart 0 { job with
      trees := [⟨4, 0, 0, 0, 0, 0, [(0, 0, [1]), (1, 0, [4, 1])]⟩] } with
    net := [⟨9, 0, 0, 0, .router site, 0, none, [], .release 4 0 branch⟩] }

theorem witness_ReleaseTokensMergeOverTheTree :
    let h : Tree := ⟨4, 0, 0, 0, 0, 0, [(0, 0, [1]), (1, 0, [4, 1])]⟩
    (∀ held ∈ [[], [(4, 0, 1)]], let s := treed 1 4 held
      s.token 9 = some ⟨9, 0, 0, 0, .router 1, 0, none, [], .release 4 0 4⟩ ∧ (s.part 0).trees.find? (fun h => h.group == 4) = some h
        ∧ h.nodes.find? (fun n => n.1 == 1) = some (1, 0, [4, 1]) ∧ (s.router 1).releases = held
        ∧ ([4, 1].any fun b => !(held ++ [(4, 0, 4)]).contains (65536 * 0 + 4, 0, b)) = held.isEmpty
        ∧ ((List.range 4).find? fun d => neighbour 0 d == some 1) = some 1)
    ∧ (let s0 := treed 1 4 []; let s := { s0 with net := [⟨9, 0, 1, 0, .router 1, 0, none, [], .release 4 0 4⟩,
         ⟨10, 1, 0, 0, .router 1, 0, none, [], .release 5 0 4⟩] }
       s.token 9 = some ⟨9, 0, 1, 0, .router 1, 0, none, [], .release 4 0 4⟩
         ∧ ∃ u ∈ s.net, u.cls = 0 ∧ u.loc = .router 1 ∧ u.isRelease = true)
    ∧ (let s := treed 0 1 []
       s.token 9 = some ⟨9, 0, 0, 0, .router 0, 0, none, [], .release 4 0 1⟩ ∧ h.nodes.find? (fun n => n.1 == 0) = some (0, 0, [1]) ∧ h.root = 0
         ∧ (∀ b ∈ [1], (4, 0, b) ∈ (s.router 0).releases ++ [(4, 0, 1)])) := by decide
/-- At the root the issuer has released tile 0 and tile 3 exists: its request is sent. -/
theorem test_release : shows (exec (.releaseToken 9 .clean) (treed 0 1 []))
    (fun t => ((t.core 0).desc 0).merged == 1 && (t.net.map fun k => match k.body with
      | .request r => r.tile
      | _ => 99) == [3]) = true := by decide

/-- A RED_ENT of partition 0: level 2, node 3, LEN_M1 1, OUT_ENTRY 7. -/
def redW : W64 := BitVec.ofNat 64 (1 + 2 * 2 + 2 ^ 6 * 3 + 2 ^ 30 * 7 + 2 ^ 38)
/-- A partial of one pair of words, level 2, node 6 or 7. -/
def partialM (j seq : Nat) : Message := ⟨ringHeader 1 1 0 0 seq 2 j, leBytes 8 0x3F8000003F800000, 0, 8 * 0⟩
/-- The point's REDUCE record (ID 1) delivers to ring 0 of core (0, 0). -/
def redJob : Part := { job with routes := [⟨1, 0, 1, 0⟩, ⟨3 + 2 ^ 16, 0, 0, 0⟩], redAt := [(1, false, 0, 15), (0, true, 39, 63)] }
/-- A partial at slot 15 of site 0, or at station 39, whose buffer holds `b`. -/
def reducing (loc : Loc) (m : Message) (b : RedBuf) : State :=
  let s := (oneCell (withCfg 0x80 8 (2 ^ 15) { Core.reset with halted := true })).setPart 0 redJob
  let r : Router := { Router.reset with red := [(15, redW)], bufs := [(15, b)] }
  let x : Ms := { Ms.reset with red := [(63, redW)], bufs := [(63, b)] }
  { (s.setRouter 0 r).setMem 39 x with net := [⟨9, 0, 0, 0, loc, 0, none, [], .msg m⟩], nextId := 10 }

theorem witness_ReductionInputsAreHeldOnTheirSide :
    (∀ e ∈ [(6, 0, { RedBuf.reset with wp0 := 255 }), (6, 0, RedBuf.reset), (7, 0, RedBuf.reset), (8, 0, RedBuf.reset), (6, 1, RedBuf.reset), (6, 0, { RedBuf.reset with side0 := some (partialM 6 0) })],
      let m := partialM e.1 e.2.1; let s := reducing (.redSlot 0 15 0) m e.2.2; let r := s.router 0; let w := SMap.look 0 r.red 15
      let b := SMap.look RedBuf.reset r.bufs 15
      s.token 9 = some ⟨9, 0, 0, 0, .redSlot 0 15 0, 0, none, [], .msg m⟩ ∧ s.inOrder 9 (sameChannel m) = true ∧ redValid w = true ∧ redPart w = 0
        ∧ redMismatch w b m = decide (e.1 = 8 ∨ e.2.2.side0.isSome = true)
        ∧ decide (b.sideSeq (hdrIndex m.header % 2) = hdrSeq m.header) = decide (e.2.1 = 0))
    ∧ (let m := partialM 6 0; let s := reducing (.station 39) m RedBuf.reset; let w := SMap.look 0 (s.mem 39).red 63
       let b := SMap.look RedBuf.reset (s.mem 39).bufs 63
       s.token 9 = some ⟨9, 0, 0, 0, .station 39, 0, none, [], .msg m⟩ ∧ s.inOrder 9 (sameChannel m) = true
         ∧ ((s.part 0).redAt.find? fun e => e.2.1 && e.2.2.1 == 39 && some e.1 == (s.part 0).redTarget m.src) = some (0, true, 39, 63)
         ∧ redValid w = true ∧ redPart w = 0 ∧ redMismatch w b m = false ∧ b.sideSeq (hdrIndex m.header % 2) = hdrSeq m.header
        )
    ∧ wrapSkip 256 255 (msgUnits (hdrLen (partialM 6 0).header)) ≠ 0
    ∧ (let m := partialM 6 0; let s := reducing (.redSlot 0 14 0) m RedBuf.reset
       s.token 9 = some ⟨9, 0, 0, 0, .redSlot 0 14 0, 0, none, [], .msg m⟩ ∧ s.inOrder 9 (sameChannel m) = true
         ∧ redValid (SMap.look 0 (s.router 0).red 14) = false) := by decide
/-- Both partials are held and the credit is enough; or no credit is left, so the slot is not the next. -/
theorem witness_ReductionAddsEmitTheParentNode :
    (∀ e ∈ [(4, some 15), (0, none)],
       let b : RedBuf := { RedBuf.reset with side0 := some (partialM 6 0), side1 := some (partialM 7 0), seq := 255, credit := e.1 }
       let s := reducing (.redSlot 0 15 0) (partialM 6 0) b; let w := SMap.look 0 (s.router 0).red 15
       s.redNext false 0 = e.2 ∧ SMap.look RedBuf.reset (s.router 0).bufs 15 = b
         ∧ s.redDest (redPart w) (fun e => e.2.1 == false && e.2.2.1 == 0 && e.2.2.2 == 15) = some (0, 16, 0x3F00000000)
         ∧ hdrEpoch (partialM 6 0).header < 16 ∧ b.seq < 256 ∧ redLevel w < 31)
    ∧ (∀ e ∈ [(4, some 63), (0, none)],
       let b : RedBuf := { RedBuf.reset with side0 := some (partialM 6 0), side1 := some (partialM 7 0), seq := 255, credit := e.1 }
       let s := (reducing (.station 39) (partialM 6 0) b).setPart 0 { redJob with redAt := [(1, true, 39, 63)] }
       let w := SMap.look 0 (s.mem 39).red 63
       s.redNext true 39 = e.2 ∧ SMap.look RedBuf.reset (s.mem 39).bufs 63 = b
         ∧ s.redDest (redPart w) (fun e => e.2.1 == true && e.2.2.1 == 39 && e.2.2.2 == 63) = some (0, 16, 0x3F00000000)
         ∧ redLevel w < 31)
    ∧ (let b : RedBuf := { RedBuf.reset with side0 := some (partialM 6 0), side1 := some (partialM 7 0), credit := 4 }
       let s0 := reducing (.redSlot 0 15 0) (partialM 6 0) b; let r := s0.router 0
       let s := s0.setRouter 0 { r with red := (3, redW) :: r.red }
       s.redNext false 0 = some 15 ∧ 3 < 15) := by decide +kernel
theorem test_reduction_input : shows (exec (.reductionInput 9) (reducing (.redSlot 0 15 0) (partialM 7 0) RedBuf.reset))
    (fun t => (SMap.look RedBuf.reset (t.router 0).bufs 15).side1 == some (partialM 7 0) && t.net == []) = true := by decide
/-- 1.0 + 1.0 = 2.0 in each word, one level up at node 3. -/
theorem test_reduction_add : shows (exec (.reductionAdd 0 15) (reducing (.router 7) (partialM 6 0)
      { RedBuf.reset with side0 := some (partialM 6 0), side1 := some (partialM 7 0), credit := 4 }))
    (fun t => (t.net.map fun k => match k.body with
      | .msg m => (k.entry, hdrLevel m.header, hdrIndex m.header, m.payload)
      | _ => (0, 0, 0, [])).contains (7, 3, 3, leBytes 8 0x4000000040000000)) = true := by decide +kernel
theorem test_station_red_input : shows (exec (.stationRedInput 9) (reducing (.station 39) (partialM 6 0) RedBuf.reset))
    (fun t => (SMap.look RedBuf.reset (t.mem 39).bufs 63).side0 == some (partialM 6 0) && t.net == []) = true := by decide
theorem test_station_red_add : shows (exec (.stationRedAdd 39 63) ((reducing (.router 7) (partialM 6 0)
      { RedBuf.reset with side0 := some (partialM 6 0), side1 := some (partialM 7 0), credit := 4 }).setPart 0
        { redJob with redAt := [(1, true, 39, 63)] }))
    (fun t => (SMap.look RedBuf.reset (t.mem 39).bufs 63).side0.isNone && t.net.length == 4) = true := by decide +kernel

/-! ## Memory stations (R137-R159, R215) -/

/-- Region 1 of partition 0: KIND 0, granules of 1,024 bytes on stations 0 and 39, SIZE 4,096; shares at 0x8000 and 0x10000. -/
def mapped : Part :=
  { job with regions := [(1, ⟨BitVec.ofNat 64 (1 + 2 ^ 7 + 2 ^ 46), 4096⟩)], bases := [(64, 0x8000), (103, 0x10000)] }

/-- Request 5 of partition 0's core (0, 0), of a class. -/
def ask (kind : ReqKind) (cls offset len : Nat) (data : List Byte) (rows : List Nat) : Request :=
  { rid := 5, kind := kind, part := 0, cls := cls, epoch := 0, sa := 0, x := 0, y := 0, desc := 63, tile := 1, region := 1, offset := offset,
    len := len, data := data, rows := rows, step := 0, raddr := 68, resp := 7, host := none, arrived := 4, late := false }

/-- Station 39 in some state, with region 1 of partition 0 mapped. -/
def station (m : Ms) : State :=
  ({ oneCell { Core.reset with halted := true } with nextId := 10 }.setPart 0 mapped).setMem 39 m

/-- A request at station 39 that holds its slots. -/
def served (r : Request) (stage : Stage) (left : Nat) (m : Ms) : State :=
  station { m with active := [⟨r, 3, 1, 0, stage, [9], left⟩] }

theorem witness_RegionBytesLieInOnePlaceEach :
    let q := (station Ms.reset).part 0; let e := q.region 1
    e.stations.length ≠ 0 ∧ e.kind ≠ 2 ∧ e.stations = [0, 39] ∧ e.size < (ask .read 1 4095 2 [] []).offset + 2
      ∧ (let b := ask .gather 1 2048 2048 [] [1, 2]
         b.rows = [1] ++ 2 :: [] ∧ (∀ j ∈ [1], b.offset + j * 1024 + 1024 ≤ e.size) ∧ e.size < b.offset + 2 * 1024 + 1024) := by decide
/-- Granules 1 and 3 lie on the second station, one after the other (R139). -/
theorem test_place : mapped.place 1 1023 = (0, 0x83FF) ∧ mapped.place 1 1024 = (39, 0x10000) ∧ mapped.place 1 3072 = (39, 0x10400) := by decide

/-- The request travels to station 39. -/
def travelling (r : Request) (m : Ms) : State := { station m with net := [⟨9, 0, r.cls, 0, .station 39, 0, none, [], .request r⟩] }

theorem witness_RequestsQueueThenTakeTheirSlots :
    (∀ e ∈ [(1, 2), (1, 1), (0, 0)], let r := ask .read e.1 1024 1024 [] []; let s := travelling r { Ms.reset with state := e.2 }
      s.token 9 = some ⟨9, 0, e.1, 0, .station 39, 0, none, [], .request r⟩ ∧ (s.mem 39).state = e.2
        ∧ decide (r.cls = 0 ∧ (s.freeSlots 39 0).1 < (r.len + 1023) / 1024 + (s.mem 39).wanted 0) = decide (e.1 = 0))
    ∧ (∀ n ∈ [256 * 1024], let r := ask .read 0 1024 n [] []; let s := station { Ms.reset with waiting := [r] }
      let m := (s.takeSlots 39 ((s.mem 39).waiting.filter fun o => o.cls == 0)).mem 39
      r.kind = .read ∧ ((m.waiting.filter fun o => o.cls == 0).find? fun o =>
        decide ((o.len + 1023) / 1024 ≤ (m.takenBy o.rid).1 + (m.takenBy o.rid).2)) = some r)
    ∧ (∀ e ∈ [(1, [0, 2, 1]), (2, [0, 0, 0]), (3, [0, 0, 0])], let r := ask .write e.1 1024 1024 [] []
      let s := station { Ms.reset with waiting := [r], rr := [if e.1 = 1 then 0 else 4, 2, 1] }
      let u := s.takeSlots 39 ((s.mem 39).waiting.filter fun o => o.cls == 0)
      r.kind = .write ∧ (∀ o ∈ (u.mem 39).waiting, o.cls ≠ 0) ∧ serveNext id (u.mem 39).rr (u.mem 39).waiting = some (r, e.2)
        ∧ (r.len + 1023) / 1024 ≤ (u.freeSlots 39 0).2) := by
  decide
theorem test_request_arrival : shows (exec (.streamRequestArrival 9) (travelling (ask .read 0 1024 1024 [] []) Ms.reset))
    (fun t => (t.mem 39).waiting.length == 1 && (t.mem 39).class0Late == 1 && (t.part 0).class0Late && t.net == []) = true := by decide
/-- Two slots; past SIZE, MEM_BOUND (KIND 7, cause 1). -/
theorem test_request_admit : shows (exec (.streamRequestAdmit 39) (station { Ms.reset with waiting := [ask .read 1 2048 2048 [] []] }))
    (fun t => ((t.mem 39).active.map fun a => (a.slots, a.stamp)) == [(2, 10)] && (t.part 0).state == .running) = true := by decide
theorem test_mem_bound : shows (exec (.streamRequestAdmit 39) (station { Ms.reset with waiting := [ask .read 1 4033 64 [] []] }))
    (fun t => (t.part 0).endCode == 7 && (t.part 0).state == .binding) = true := by decide

/-- A sector of the access that is read from a wrong word: five symbols are not corrected. -/
def badSector (sector : Nat) : List SymErr := (List.range 5).map fun i => ⟨sector, 3 * i, BitVec.ofNat 8 (17 * i + 1)⟩

theorem witness_StackAccessesReadAndWriteTheStack :
    (∀ e ∈ [(ReqKind.read, [], 64, true), (.read, [0x10020], 64, false), (.write, [], 64, true), (.write, [], 40, true), (.write, [0x10020], 40, false)],
      let r := ask e.1 1 1024 e.2.2.1 (List.replicate e.2.2.1 7) []; let s := served r .issued 0 { Ms.reset with poison := e.2.1 }
      let a : Active := ⟨r, 3, 1, 0, .issued, [9], 0⟩; let w := (s.part 0).place 1 1024
      let s1 := s.setMem 39 { s.mem 39 with rrStack := charge [0, 0, 0] 1 1 }
      s.stackNext 39 = some (a, [0, 0, 0]) ∧ r.host = none
        ∧ w = (39, 0x10000)
        ∧ (e.1 = .read → (s1.readStack 39 w.2 r.len []).2.isSome = e.2.2.2
            ∧ s1.authentic 0 1 1024 r.len = true)
        ∧ (e.1 = .write → (s1.readEdges 39 w.2 [] (partSectors w.2 r.len)).2 = e.2.2.2 ∧ w.2 % 32 = 0
            ∧ decide (r.len % 32 = 0) = decide (e.2.2.1 = 64)))
    ∧ (let r := ask .read 1 1024 64 [] []; let s := served r .ready 0 Ms.reset
       serveNext Active.req (s.mem 39).rrOut ((s.mem 39).active.filter fun b => b.stage == .ready)
         = some (⟨r, 3, 1, 0, .ready, [9], 0⟩, [0, 0, 0]))
    ∧ (let r := ask .read 1 1024 64 [] []
       let s := (served r .issued 0 { Ms.reset with seals := [(0x10800, ⟨0, []⟩)] }).setPart 0 { mapped with
         conf := true, regions := [(1, ⟨BitVec.ofNat 64 (1 + 2 ^ 1 + 2 ^ 7 + 2 ^ 46), 4096⟩)] }
       let s1 := s.setMem 39 { s.mem 39 with rrStack := charge [0, 0, 0] 1 1 }
       s.stackNext 39 = some (⟨r, 3, 1, 0, .issued, [9], 0⟩, [0, 0, 0])
         ∧ (s1.readStack 39 0x10000 64 []).2.isSome = true ∧ s1.authentic 0 1 1024 64 = false)
    ∧ (let r := { ask .write 1 1024 64 [] [] with host := some 3 }
       let s := served r .issued 0 Ms.reset
       s.stackNext 39 = some (⟨r, 3, 1, 0, .issued, [9], 0⟩, [0, 0, 0])) := by
  decide +kernel
theorem test_stack_read : shows (exec (.stackAccessComplete 39 5 []) (served (ask .read 1 1024 64 [] []) .issued 0 { Ms.reset with stack := [(0x1003F, 8)] }))
    (fun t => ((t.mem 39).active.map fun a => (a.stage, a.data)) == [(.ready, List.replicate 63 0 ++ [8])]) = true := by decide
theorem test_tile_response : shows (exec (.tileResponse 39 5) (served (ask .read 1 1024 64 [] []) .ready 0 Ms.reset))
    (fun t => (t.net.map fun k => (k.loc, k.entry)) == [(.router (attachSite 39), 7)] && (t.mem 39).active == []) = true := by decide

/-- Thread 31 of station 39 serves request 5. -/
def threaded (poison : List Nat) : State :=
  served (ask .gather 1 1024 1024 [] [0, 0]) .issued 2 { Ms.reset with threads := [(31, ⟨some (.serve 5), false⟩)], poison := poison }

theorem witness_GatherThreadsTakeOneRowEach :
    ∀ poison ∈ [[], [0x10000]], let s := threaded poison; let r := ask .gather 1 1024 1024 [] [0, 0]
      let spots := s.sectorSpots 0 1 1024 512; let rd := s.reading.range 0 1 [] (1024, 512)
      (s.mem 39).serves (SMap.look Thread.reset (s.mem 39).threads 31) = some ⟨r, 3, 1, 0, .issued, [9], 2⟩
        ∧ s.stackNext (s.rowStation 39 ⟨r, 3, 1, 0, .issued, [9], 2⟩) = some (⟨r, 3, 1, 0, .issued, [9], 2⟩, [0, 0, 0])
        ∧ (station Ms.reset).stackNext 39 = none
        ∧ (SMap.look Thread.reset (s.mem 39).threads 31).ready = false ∧ r.len / r.rows.length = 512
        ∧ (List.range 512).all (fun i => (s.locate 0 1 (1024 + i)).isSome) = true ∧ rd.2.2.isSome = poison.isEmpty
        ∧ spots.any (fun x => (s.mem x.1).poison.contains x.2) = !poison.isEmpty := by decide +kernel
theorem test_thread_return : shows (exec (.pseThreadReturn 39 31 []) (threaded []))
    (fun t => ((t.mem 39).active.map fun a => (a.left, a.data.length)) == [(1, 513)]) = true := by decide +kernel

/-- A sector at the top of the pool, of the stack, or in a range of partition 0. -/
theorem witness_ScrubRepairAndZeroWrites :
    (served (ask .read 1 1024 64 [] []) .issued 0 Ms.reset).stackBusy 39 = true
    ∧ (∀ e ∈ [(0xFFFFFFFE0, [], none), (0xFFFFFFFC0, [], none), (0x8000, [0x8000], some 0), (0xE3FFFFFE0, [0xE3FFFFFE0], none)],
      let s := station { Ms.reset with scrubAt := e.1, poison := e.2.1, ranges := [⟨0x8000, 32, 0, 1⟩] }
      ({ s with cores := [] } : State).TablesOk ∧ s.stackBusy 39 = false ∧ (s.readSector 39 e.1 []).isSome = e.2.1.isEmpty ∧
      (s.mem 39).scrubAt = e.1 ∧ (s.mem 39).poison = e.2.1 ∧ (e.2.1 ≠ [] → (s.mem 39).ownerAt e.1 = e.2.2 ∧ e.1 < 0xE40000000)
        ∧ (decide (e.1 + 32 < 2 ^ 36)) = decide (e.1 ≠ 0xFFFFFFFE0))
    ∧ (let s := station { Ms.reset with rowsDue := [7] }
       7 ∈ (s.mem 39).rowsDue ∧ s.rowInFlight 39 7 = false ∧ s.mgs.softEntries < 65536)
    ∧ (let s := station { Ms.reset with zeroing := [⟨0x8000, 32, 0, 1⟩], poison := [0x7FE0, 0x8000, 0x8020] }
       (s.mem 39).zeroing = ⟨0x8000, 32, 0, 1⟩ :: []) := by
  unfold State.TablesOk
  decide +kernel
/-- The end of a pass: from 0 again, the inner corrections of the pass added. -/
theorem test_scrub : shows (exec (.scrubRead 39 [] 4) (station { Ms.reset with scrubAt := 0xFFFFFFFE0, innerCe := 3 }))
    (fun t => (t.mem 39).scrubAt == 0 && (t.mem 39).innerCe == 7) = true := by decide
theorem test_row_repair : shows (exec (.softRowRepair 39 7) (station { Ms.reset with rowsDue := [7] }))
    (fun t => (t.mem 39).rowsRepaired == [7] && t.mgs.softEntries == 1 && t.gel.log.length == 1) = true := by decide
theorem test_zero_write : shows (exec (.zeroWriteDone 39)
      (station { Ms.reset with zeroing := [⟨0x8000, 32, 0, 1⟩], poison := [0x8000, 0x8020], stack := [(0x801F, 1), (0x8020, 2)] }))
    (fun t => (t.mem 39).stack == [(0x8020, 2)] && (t.mem 39).poison == [0x8020] && (t.mem 39).zeroing == []) = true := by decide

/-! ## Parameters, divergence, the slow tier (R158-R190) -/

/-- Sets 0 and 1 of partition 0, each of 8 parameters in blocks of 8, FP32 copies, replicas of group 5: REGION `r`, with some DIG_ACT. -/
def setWords (r digest act : Nat) : SMap W64 :=
  [(0, BitVec.ofNat 64 (1 + 2 * r + 2 ^ 16 * digest + 2 ^ 17 * act + 2 ^ 20 * 5)), (2, 8),
    (8, BitVec.ofNat 64 (1 + 2 * r + 2 ^ 16 * digest + 2 ^ 17 * act + 2 ^ 20 * 5)), (9, 0x100000), (10, 8)]

/-- Region 1 of KIND 0 on station 39; region 2 of KIND 2, whose blocks all have their home at station 39. -/
def trained (digest act : Nat) (r : Nat) : Part :=
  { job with
    regions := [(1, ⟨BitVec.ofNat 64 (1 + 2 ^ 46), 2 ^ 24⟩), (2, ⟨5, 2 ^ 24⟩)], homes := [(2, [39])], psets := setWords r digest act,
    set := { Settings.reset with slowQuota := BitVec.ofNat 64 (4 + 2 ^ 17 * 2) } }

def trainer (q : Part) (m : Ms) : State :=
  ({ oneCell { Core.reset with halted := true } with nextId := 10 }.setPart 0 q).setMem 39 m

/-- A part of 8 gradients of set 0, of request 5. -/
def gradP : GradPart := ⟨5, 0, false, 0, 8, [0x38, 0, 0, 0, 0, 0, 0, 0], [127], 0, 4, 0⟩

/-- Slot 3 of station 39 holds block 0 of region 2. -/
def dirOf (d : DirEnt) (m : Ms) : Ms := { m with dir := [(3, d)], buckets := [(15838, 4)] }
def block0 : DirEnt := ⟨true, false, false, false, false, 0, 2, 0, 0x1FFFF⟩
def gatherOf (r : Nat) : Request := { ask .gather 1 0 64 [] [0] with region := r }
def threadOf (ready : Bool) (r : Nat) (m : Ms) : Ms :=
  { m with active := [⟨gatherOf r, 3, 1, 0, .issued, [], 1⟩], threads := [(31, ⟨some (.serve 5), ready⟩)] }

theorem witness_WaitingWorkStartsWithoutTouchingData :
    ∀ r ∈ [1, 2], let s := trainer (trained 0 0 1) (dirOf block0 (threadOf true r Ms.reset)); let th : Thread := ⟨some (.serve 5), true⟩
      s.volume 0 = none ∧ (s.setVolume 0 (some ⟨0, 1, none, some (0, 2), false, [], []⟩)).volume 0 ≠ none
        ∧ (s.mem 39).serves th = some ⟨gatherOf r, 3, 1, 0, .issued, [], 1⟩ ∧ SMap.look Thread.reset (s.mem 39).threads 31 = th
        ∧ (SMap.look Thread.reset ((s.pumpThread 39 31 th).mem 39).threads 31).ready = false ∧ s.pumpThread 39 31 th ≠ s
        ∧ ({ s with cores := [] } : State).TablesOk := by
  unfold State.TablesOk
  decide +kernel

/-- Slots 0 to 5 hold blocks 0 to 5 of region 2, in one bucket's chain. -/
def sixBlocks : SMap DirEnt := (List.range 6).map fun b => (b, { block0 with block := b, next := if b = 5 then 0x1FFFF else b + 1 })

/-- Part 5 arrives at station 39; its request waits there with `left` parts, or is gone. -/
def partArrives (r : Nat) (d : DirEnt) (left : Nat) : State :=
  { trainer (trained 0 0 r) (dirOf d (if left = 0 then Ms.reset else { Ms.reset with
      active := [⟨{ ask .update 1 0 64 [] [] with region := r }, 3, 1, 0, .issued, [], left⟩] })) with
    net := [⟨9, 0, 0, 0, .station 39, 0, none, [], .grad gradP⟩] }

theorem witness_PartsQueueAndUpdateTheSixPlanes :
    (∀ e ∈ [(1, 0), (1, 1), (1, 2), (2, 0)], let s := partArrives e.1 block0 e.2
      s.token 9 = some ⟨9, 0, 0, 0, .station 39, 0, none, [], .grad gradP⟩ ∧ ((s.part 0).pset 0).region = e.1
        ∧ ((s.part 0).region e.1).kind = (if e.1 = 2 then 2 else 0) ∧ ((s.mem 39).find 5).isSome = decide (e.2 ≠ 0)
        ∧ s.ms.map (fun m => m.1) = [39] ∧ ({ s with cores := [] } : State).TablesOk)
    ∧ (let s := partArrives 2 { block0 with staging := true } 0
       ((s.partBlocks 0 gradP).any fun b => !s.staged 0 2 b.2) = true ∧ (s.mem 39).freePend = some 0
         ∧ ((s.mem 39).pends.filter fun e => e.2.part == 0).length < (s.part 0).pendQuota)
    ∧ (∀ poison ∈ [[], [0x10000]], let s := trainer (trained 0 0 1) { Ms.reset with updq := [gradP], updParts := [0], poison := poison }
       let u := s.setMem 39 { s.mem 39 with updq := [], updParts := [] }; let e := (s.part 0).pset 0
       let lr := u.reading.learningRate 0 e gradP.t []
       (s.mem 39).updq = gradP :: [] ∧ (s.mem 39).updParts = 0 :: [] ∧ s.canApply 39 0 gradP = true
         ∧ (lr.1.ranges 0 e.region [] (e.engineReads gradP)).2.2.isSome = poison.isEmpty ∧ e.digest = false)
    ∧ (let e : PendEnt := ⟨0, gradP, [(39, 0), (39, 1), (39, 2), (39, 3), (39, 4), (39, 5)], 6, true⟩
       let s := trainer (trained 0 0 2) { Ms.reset with
         dir := sixBlocks, buckets := [(15838, 1)], pends := [(6552, e)] }
       SMap.look noPend (s.mem 39).pends 6552 = e ∧ s.pendReady 39 6552 e = true ∧ ((s.part 0).pset 0).digest = false
         ∧ ((s.part 0).region ((s.part 0).pset 0).region).kind = 2) := by
  unfold State.TablesOk
  decide +kernel
theorem witness_FreePend : (trainer (trained 0 0 2) Ms.reset).mem 39 = Ms.reset ∧ Ms.reset.freePend = some 0 := by decide +kernel

theorem witness_BlockUpdate : let s := trainer (trained 0 0 1) Ms.reset; let ps := (s.part 0).pset 0
    let out := ps.updateBlock (ps.consts 1 ps.lr) (s.part 0).set.jobSeed 0 0 (s.blockElems 0 ps 0) ((gradP.data.take 8).map fun x => decS 4 x.toNat 127)
    ((s.part 0).region 1).stations.length ≠ 0 ∧ ((s.part 0).region 1).kind ≠ 2
      ∧ (ps.ranges 0 ps.sblk).Pairwise (fun x y => rangesMeet x y = false)
      ∧ ([0, 1, 2, 3, 4, 5].zip out).all (fun e => (packCodes (ps.fmt e.1) e.2.1).length == ps.dataLen e.1 ps.sblk) = true := by decide +kernel

theorem test_part_arrives : shows (exec (.updatePartArrival 9) (partArrives 1 block0 1))
    (fun t => (t.mem 39).updq.map (fun g => g.arrival) == [10] && (t.mem 39).active == [] && t.net.length == 1) = true := by decide +kernel
theorem test_part_pends : shows (exec (.updatePartArrival 9) (partArrives 2 { block0 with staging := true } 0))
    (fun t => (t.mem 39).pends.map (fun e => e.1) == [0] && (t.mem 39).updq == []) = true := by decide +kernel
/-- Zero state, rate and decays; gradient 0.5 (E5M2 0x38, scale 2^0). Master 0; m = 0.5 is 0x78 at 2^-9 in E4M3, v = 0.25 is 0x78 at
2^-17 and the gradient 0x78 at 2^-16 in E5M2. -/
theorem test_update_apply : shows (exec (.updateApply 39 []) (trainer (trained 0 0 1) { Ms.reset with updq := [gradP], updParts := [0] }))
    (fun t => let at0 := fun o => t.readRegion 0 1 o 1
      t.readRegion 0 1 0x10000 4 == [0, 0, 0, 0] && [at0 0x20000, at0 0x20008, at0 0x30000, at0 0x30008, at0 0x40000, at0 0x40008]
        == [[0x78], [0x76], [0x78], [0x6E], [0x78], [0x6F]]) = true := by decide +kernel
/-- A poisoned master sector ends the job with MEM_UE (KIND 7). -/
theorem test_update_poison : shows (exec (.updateApply 39 []) (trainer (trained 0 0 1) { Ms.reset with updq := [gradP], updParts := [0], poison := [0x10000] }))
    (fun t => (t.part 0).endCode == 7) = true := by decide +kernel
theorem test_pending_apply : let e : PendEnt := ⟨0, gradP, [(39, 0)], 1, true⟩
    shows (exec (.pendingApply 39 6552 []) (trainer (trained 0 0 2) { Ms.reset with
        dir := sixBlocks, buckets := [(15838, 1)], pends := [(6552, e)] }))
      (fun t => (t.mem 39).pends == [] && (t.mem 39).dir.all fun d => d.2.dirty && d.2.ref) = true := by decide +kernel

/-- A divergence of group 5, block 0, step 7; set 1's master is at 0x110000 of the station. -/
def diverged (act tried : Nat) (stack : SMap Byte) (js : List Journal) : State :=
  trainer { trained 1 act 1 with divs := [⟨5, 0, 7, [(0, 1), (1, 2)], tried⟩] } { Ms.reset with stack := stack, journals := js }
/-- A bed is awake whose arrays are no partition's. -/
def spared (s : State) : State := s.setBed 35 { Bed.reset with state := .awake }
def journalAt (n : Nat) (g : Byte) : Journal := ⟨n, 0, n, 0, 7, [], [⟨5, n, false, 0, 8, [g], [], 7, 3, 0⟩]⟩

theorem witness_DivergencesSettleOrStopTheJob :
    let d := fun t => (⟨5, 0, 7, [(0, 1), (1, 2)], t⟩ : Divergence)
    (∀ stack ∈ [[], [(0x110000, 1)]], let s := diverged 1 0 stack []; let q := s.part 0
      let r := s.reading.codes 0 0 [] ((d 0).codes.map Prod.fst)
      q.divs = d 0 :: [] ∧ q.replicas 5 = [0, 1] ∧ (q.pset 0).act = 1 ∧ r.1.2.2.isSome = true
        ∧ allSame (r.2.map Prod.snd) = stack.isEmpty ∧ q.state.live = true ∧ q.endCode ≤ 1)
    ∧ (let s := diverged 1 0 [] []; let s1 := s.setMem 39 { s.mem 39 with poison := [0x10000] }
       (s1.reading.codes 0 0 [] ((d 0).codes.map Prod.fst)).1.2.2 = none ∧ (s1.part 0).divs = [d 0])
    ∧ (∀ e ∈ [(2, 0, 9), (3, 1, 9), (2, 0, 8)], let s := spared (diverged e.1 e.2.1 [] [journalAt 0 9, journalAt 1 e.2.2]); let q := s.part 0
      let js := s.divJournals 0 (d e.2.1)
      q.divs = d e.2.1 :: [] ∧ (q.pset 0).act = e.1 ∧ e.1.testBit 1 = true ∧ e.2.1.testBit 1 = false ∧ e.1.testBit 2 = false
        ∧ (e.1.testBit 0 = false ∨ e.2.1.testBit 0 = true) ∧ js.length = 2 ∧ journalsAgree js = decide (e.2.2 = 9)
        ∧ s.idleArrays.head? = some 1110 ∧ (diverged e.1 e.2.1 [] []).idleArrays.head? = none) := by decide +kernel
theorem test_reread_settles : shows (exec (.divRereadDone 0 []) (diverged 1 0 [] []))
    (fun t => (t.part 0).divs == [] && t.tally.digestReread == 1 && (t.part 0).state == .running) = true := by decide +kernel
/-- REREAD is the only step enabled and the codes differ: END 11, DIV_INFO names set 0 and the step tried. -/
theorem test_reread_stops : shows (exec (.divRereadDone 0 []) (diverged 1 0 [(0x110000, 1)] []))
    (fun t => (t.part 0).endCode == 11 && fld (t.part 0).div.w0 9 7 == 1 && fld (t.part 0).div.w1 31 0 == 8) = true := by decide +kernel
theorem test_recompute_timeout : shows (exec (.divRecomputeTimeout 0 []) (diverged 2 0 [] [journalAt 0 9, journalAt 1 9]))
    (fun t => (t.part 0).endCode == 11 && fld (t.part 0).div.w0 9 7 == 2) = true := by decide +kernel
theorem test_recompute_refused : shows (exec (.divRecomputeDone 0 true []) (spared (diverged 2 0 [] [journalAt 0 9, journalAt 1 8])))
    (fun t => (t.part 0).endCode == 11) = true := by decide +kernel

/-- A volume bound to region 2 of partition 0. -/
def backed (lost : List Nat) (data : SMap Byte) (m : Ms) : State :=
  (trainer (trained 0 0 1) m).setVolume 0 (some ⟨0, 1, none, some (0, 2), false, lost, data⟩)

theorem witness_SlowTierBlocksMoveWhole :
    (∀ lost ∈ [[], [0]], let d := { block0 with staging := true }; let s := backed lost [(5, 9)] (dirOf d Ms.reset)
      SMap.look DirEnt.reset (s.mem 39).dir 3 = d ∧ d.valid = true ∧ d.staging = true
        ∧ (s.volumeOf 0 2).map (fun v => (v.1, v.2.lost)) = some (0, lost) ∧ (s.part 0).state.live = true ∧ (s.part 0).endCode ≤ 1)
    ∧ (let d := { block0 with evicting := true, dirty := true }; let s := backed [0] [] (dirOf d Ms.reset)
       SMap.look DirEnt.reset (s.mem 39).dir 3 = d ∧ d.valid = true ∧ (s.part 0).state ≠ .binding ∧ (s.volumeOf 0 2).isSome = true
        ∧ (s.mem 39).state ≠ 2 ∧ ∀ poison ∈ [[], [0xE4003FFE0]],
          (((s.updMem 39 fun m => { m with poison := poison }).readStack 39 (0xE40000000 + 65536 * 3) 65536 []).2.isSome = poison.isEmpty))
    ∧ (let s := trainer (trained 0 0 1) { Ms.reset with active := [⟨{ ask .update 1 0 64 [] [] with region := 2 }, 3, 1, 0, .issued, [], 2⟩] }
       (s.mem 39).find 5 = some ⟨{ ask .update 1 0 64 [] [] with region := 2 }, 3, 1, 0, .issued, [], 2⟩)
    ∧ (let s := trainer (trained 0 0 1) { Ms.reset with updq := [gradP], updParts := [0] }
       (s.mem 39).find 5 = none ∧ (s.mem 39).partWaits 5 = some (0, gradP))
    ∧ (let s := backed [] [] (dirOf { block0 with staging := true } (threadOf true 2 Ms.reset))
       (s.mem 39).find 5 = some ⟨gatherOf 2, 3, 1, 0, .issued, [], 1⟩ ∧ (31, ⟨some (.serve 5), true⟩) ∈ (s.mem 39).threads) := by decide +kernel
theorem test_block_lost : shows (exec (.flashStageComplete 39 3 [.clean, .lost]) (backed [] [] (dirOf { block0 with staging := true } Ms.reset)))
    (fun t => (t.flash 0).ue == 1 && (t.mem 39).dir == [] && (t.part 0).endCode == 7) = true := by decide +kernel
theorem test_slow_starved : shows (exec (.slowStarved 39 5) (backed [] [] (dirOf { block0 with staging := true } (threadOf true 2 Ms.reset))))
    (fun t => (t.part 0).endCode == 7 && (t.part 0).state == .binding) = true := by decide +kernel

/-! ## Skeins and commits (R192-R211) -/

/-- Port 31 acts, with a loader in a state; partition 0 belongs to port 31 and holds no array. -/
def loading (l : Loader) (q : Part) : State :=
  ({ oneCell { Core.reset with halted := true } with parts := [] }.setPart 0 { q with owner := 31, sas := [], saCount := 0 }).setPort 31
    { Port.reset with linkUp := true, ready := true, loader := l }

/-- A skein with no frame: header (MAGIC, version 1, LENGTH 336, a CAST_ORDER), zeros, trailer; its DIGEST is filled in. -/
def blankSkein : List Byte :=
  leBytes 6 (0x4B535849 + 2 ^ 32) ++ leBytes 2 0 ++ leBytes 8 (0x1200 + 2 ^ 32) ++ leBytes 8 336 ++ List.replicate 7 0 ++ [0xE4]
    ++ List.replicate 288 0 ++ leBytes 8 0x4B535845 ++ leBytes 8 336
def skein0 : List Byte := blankSkein.take 0x80 ++ sha384 (blankDigest blankSkein) ++ blankSkein.drop 0xB0

theorem witness_SkeinLoadsTouchOnlyShadows :
    (∀ n ∈ [0, 1, 2], let s := loading { Loader.reset with state := n, part := 0 } job
      s.acts 31 = true ∧ (s.port 31).loader.state = n ∧ s.owns 31 0 = true ∧ s.owns 31 63 = false)
    ∧ (∀ st ∈ [PState.created, .placed, .running, .suspended], let s := loading Loader.reset { job with state := st }
      s.acts 31 = true ∧ s.owns 31 0 = true ∧ s.loaderOf 0 = none ∧ (s.part 0).state = st)
    ∧ (let s := (loading Loader.reset job).setPort 3 { Port.reset with loader := { Loader.reset with state := 1, part := 0 } }
       s.acts 31 = true ∧ (s.port 31).loader.state = 0 ∧ s.owns 31 0 = true ∧ s.loaderOf 0 = some 3)
    ∧ (let s := loading { Loader.reset with state := 1, bytes := List.replicate 312 0 } job; let l := (s.port 31).loader
       ([0, 0, 0, 0, 0, 0, 0] : List Byte).length % 8 ≠ 0 ∧ (List.replicate 8 (0#8)).length % 8 = 0 ∧ l.bytes.length < 320
         ∧ 320 ≤ (l.bytes ++ List.replicate 8 0).length
         ∧ lowest (headerBreaches (s.part l.part) s.mgs.stepping (l.bytes ++ List.replicate 8 0)) = some 3)
    ∧ (∀ n ∈ [250000, 250001], let s := loading { Loader.reset with state := 1, deadline := 9 } job; let l := (s.port 31).loader
       decide (l.startedAt + 25 * max 10000 l.deadline < n) = decide (n = 250001)
         ∧ ({ s with mgs := { s.mgs with tick := n } } : State).acts 31 = true)
    ∧ (loading { Loader.reset with state := 2 } job).verify 31 = some (1, 0xFFFFFFFF) := by decide +kernel
theorem witness_VerifyFindsNoBreach :
    (loading { Loader.reset with state := 2, bytes := skein0 } { job with state := .created }).verify 31 = none := by decide +kernel
theorem test_skein_header : lowest (headerBreaches (Part.reset) 0 skein0) = none := by decide +kernel
theorem test_skein_start : shows (exec (.skeinStart 31 0) (loading Loader.reset { job with state := .created }))
    (fun t => (t.port 31).loader.state == 1) = true := by decide +kernel
theorem test_skein_start_refused : shows (exec (.skeinStart 31 5) (loading Loader.reset job))
    (fun t => (t.port 31).loader.reason == 9 && t.tally.skeinRejects == 1) = true := by decide
/-- The last byte of a skein without a frame: VERIFYING, then STAGED. -/
theorem test_skein_win : shows (exec (.skeinWinWrite 31 skein0) (loading { Loader.reset with state := 1 } { job with state := .created }))
    (fun t => (t.port 31).loader.state == 2 && (t.port 31).loader.bytes.length == 336) = true := by decide +kernel
theorem test_skein_end : shows (exec (.skeinEnd 31) (loading { Loader.reset with state := 1 } job))
    (fun t => (t.port 31).loader.state == 0 && (t.port 31).loader.reason == 1) = true := by decide +kernel
theorem test_skein_abort : shows (exec (.skeinAbort 31) (loading { Loader.reset with state := 3 } job))
    (fun t => (t.port 31).loader.state == 0 && (t.port 31).loader.reason == 0x1A) = true := by decide +kernel
theorem test_skein_deadline : shows (exec (.skeinDeadlineExpiry 31) (loading { Loader.reset with state := 1 } job))
    (fun t => (t.port 31).loader.reason == 2) = true := by decide +kernel
theorem test_verify_done : shows (exec (.skeinVerifyDone 31) (loading { Loader.reset with state := 2, bytes := skein0 } { job with state := .created }))
    (fun t => (t.port 31).loader.state == 3) = true := by decide +kernel

/-- The commit of port 31's skein in some stage, first in the queue. -/
def committing (stage : Nat) (bs : List Byte) (q : Part) : State :=
  let l : Loader := { Loader.reset with state := 4, part := 0, bytes := bs,
                                        stage := if stage = 0 then .halting else if stage = 1 then .queued else .draining }
  let s := loading l q
  { s with mgs := { s.mgs with commitQueue := [31] } }

/-- An empty plan. -/
def plan0 : Plan := ⟨[], [], [], [], [], none, [], [], []⟩

theorem witness_CommitsSwapWholeAndKeepTheCoresData :
    (∀ n ∈ [2, 3], let s := loading { Loader.reset with state := n } job; s.acts 31 = true ∧ (s.port 31).loader.state = n)
    ∧ (let s := committing 0 [] job; (s.port 31).loader.state = 4 ∧ (s.port 31).loader.stage = .halting)
    ∧ (∀ k ∈ [0, 1], let s := committing 1 (List.replicate 30 0 ++ [BitVec.ofNat 8 k]) { job with state := .created }
      (s.port 31).loader.state = 4 ∧ (s.port 31).loader.stage = .queued
        ∧ (s.mgs.commitQueue.find? fun k => (s.port k).loader.stage == .queued) = some 31
        ∧ (match s.allocate 31 with
          | .error r => decide (r = 0x16 ∧ k = 1)
          | .ok _ => decide (k = 0)) = true)
    ∧ (let s := { committing 1 [] { job with state := .created } with net := [⟨9, 0, 0, 0, .router 0, 0, none, [], .credit 0 1⟩] }
       (s.port 31).loader.flush = false ∧ s.tokensOf 0 (fun _ => true) ≠ 0)
    ∧ (∀ st ∈ [PState.created, .placed, .running], let s := committing 2 [] { job with state := st, plan := some plan0 }
      (s.port 31).loader.stage = .draining ∧ (s.port 31).loader.flush = false ∧ s.tokensOf 0 (fun _ => true) = 0
        ∧ (s.part 0).plan = some plan0 ∧ (∀ g ∈ plan0.ranges, (s.mem g.1).state ≠ 2)) := by decide +kernel
theorem test_commit : shows (exec (.commit 31 true 5) (loading { Loader.reset with state := 3 } job))
    (fun t => (t.port 31).loader.state == 4 && (t.port 31).loader.stage == .halting && t.mgs.commitQueue == [31]) = true := by decide
theorem test_commit_halt : shows (exec (.commitHaltDone 31) (committing 0 [] job)) (fun t => (t.port 31).loader.stage == .queued) = true := by
  decide +kernel
/-- CLASS 1 of a class 0 partition: refused with 0x16, the skein stays STAGED. -/
theorem test_commit_class : shows (exec (.commitAllocate 31) (committing 1 (List.replicate 30 0 ++ [1]) { job with state := .created }))
    (fun t => (t.port 31).loader.state == 3 && (t.port 31).loader.commitReason == 0x16) = true := by decide +kernel
theorem test_drain_timeout : shows (exec (.drainTimeout 31)
      { committing 2 [] job with net := [⟨9, 0, 0, 0, .router 0, 0, none, [], .credit 0 1⟩] })
    (fun t => (t.port 31).loader.state == 3 && (t.port 31).loader.reason == 0x19 && t.mgs.commitQueue == []) = true := by decide +kernel
/-- Epoch 15 + 1 is epoch 0; a created partition is READY. -/
theorem test_drain_complete : shows (exec (.drainComplete 31) (committing 2 skein0 { job with state := .created, epoch := 15, plan := some plan0 }))
    (fun t => (t.part 0).epoch == 0 && (t.part 0).state == .ready && (t.port 31).loader.committed && t.tally.commits == 1) = true := by
  decide +kernel

/-! ## Partitions (R212-R234) -/

/-- Port 31 acts and owns partition 0, which is `q` on array 0 with core `c`; bed 0 in some state. -/
def ownedBy (q : Part) (c : Core) (b : BedState) : State :=
  (((oneCell c).setPart 0 { q with owner := 31 }).setPort 31 { Port.reset with linkUp := true, ready := true }).setBed 0
    { Bed.reset with state := b }
def idleCore : Core := { Core.reset with halted := true }
def inState (st : PState) : State := ownedBy { job with state := st } idleCore .awake

theorem witness_CreationGivesFreeArraysToTheLowestIdentifier :
    (let s := inState .running
     s.acts 31 = true ∧ (s.part 0).state ≠ .none ∧ (s.part 1).state = .none ∧ s.freeArrays.length < 1200 ∧ s.portClassBad 31 1 = true
      ∧ s.portClassBad 31 0 = false)
    ∧ (let s := { inState .running with parts := (List.range 64).map fun p => (p, job) }
       s.acts 31 = true ∧ ∀ p, p < 64 → (s.part p).state ≠ .none) := by decide +kernel
theorem witness_Placement : (List.range 1200).all (fun a => decide ((inState .running).siteOf a < 1296)) = true
    ∧ (match (inState .running).placement 2 1 with
      | .ok sas => sas.length == 2 && !sas.any fun a => (inState .running).bedOfArr a == 0
      | .error _ => false) = true := by decide +kernel
theorem test_part_create : shows (exec (.partCreate 31 2 0 false) (inState .running))
    (fun t => (t.port 31).pcResult == 0 && (t.port 31).pcPart == 1 && (t.part 1).state == .created && (t.part 1).sas.length == 2) = true := by
  decide +kernel
theorem test_part_create_class : shows (exec (.partCreate 31 2 1 false) (inState .running))
    (fun t => (t.port 31).pcResult == 5 && (t.part 1).state == .none) = true := by decide +kernel

theorem witness_CommandsMoveAPartitionByTheStateTable :
    (∀ st ∈ [PState.ready, .casting, .running, .binding, .ended], let s := inState st
      s.acts 31 = true ∧ s.owns 31 0 = true ∧ s.owns 31 63 = false ∧ (s.part 0).placing = false ∧ (s.part 0).resuming = false
        ∧ (s.part 0).state = st)
    ∧ (let s := ownedBy { job with state := .resumable, resuming := true } idleCore .awake
       s.acts 31 = true ∧ s.owns 31 0 = true ∧ (s.part 0).resuming = true)
    ∧ (ownedBy { job with state := .ready, set := { Settings.reset with castOrder := 0xE4 } } idleCore .sleep).part 0
        = { job with owner := 31, state := .ready, set := { Settings.reset with castOrder := 0xE4 } }
    ∧ (let s := ownedBy { job with state := .casting, castLeft := [0, 1, 2, 3] } idleCore .awake
       (s.part 0).castLeft = [0, 1, 2, 3] ∧ (s.part 0).stopWaits = false ∧ s.bedsAwake 0 = true ∧ (s.part 0).owner < 32)
    ∧ (let s := inState .binding
       s.settling 0 = false ∧ ∀ a ∈ (s.part 0).sas, s.siteOf a ∉ s.mgs.deadSites)
    ∧ (let s := inState .running
       s.finished 0 = true ∧ (s.part 0).owner < 32) := by decide +kernel
theorem test_part_start : shows (exec (.partStart 31 0) (ownedBy { job with state := .ready, set := { Settings.reset with castOrder := 0xE4 } } idleCore .sleep))
    (fun t => (t.part 0).state == .casting && (t.part 0).castLeft == [0, 1, 2, 3] && (t.bed 0).state == .waking) = true := by decide +kernel
theorem test_part_start_twice : shows (exec (.partStart 31 0) (inState .running))
    (fun t => (t.part 0).result == 1 && (t.part 0).state == .running) = true := by decide
theorem test_cast_lock : shows (exec (.castLockDone 0) (ownedBy { job with state := .casting, castLeft := [0, 1, 2, 3] }
      { idleCore with flags := 5, prog := [(0, slotW 0 3 1 0)] } .awake))
    (fun t => (t.part 0).state == .running && (t.port 31).started == 1 && (t.core 0).flags == 0 && !(t.core 0).halted && (t.arr 0).released) = true := by
  decide +kernel
theorem test_part_stop : shows (exec (.partStop 31 0 false) (inState .running))
    (fun t => (t.part 0).state == .binding && (t.part 0).endCode == 2 && (t.arr 0).freeze == some .bindOff) = true := by decide +kernel
theorem test_bind_off : shows (exec (.bindOffDone 0) (inState .binding))
    (fun t => (t.part 0).state == .ended && (t.arr 0).part == none && (t.part 0).sas == []) = true := by decide +kernel
theorem test_part_release : shows (exec (.partRelease 31 0) (inState .ended)) (fun t => (t.part 0).state == .none) = true := by decide
theorem test_part_complete : shows (exec (.partComplete 0) (inState .running))
    (fun t => (t.part 0).state == .complete && (t.part 0).endCode == 1 && (t.port 31).completed == 1) = true := by decide +kernel
theorem test_warn_clr : shows (exec (.warnClr 31 0) (ownedBy { job with memWarn := true, class0Late := true } idleCore .awake))
    (fun t => !(t.part 0).memWarn && !(t.part 0).class0Late) = true := by decide
theorem test_dl_ctl : shows (exec (.dlCtlWrite 31 0 (-1)) (inState .running)) (fun t => (t.part 0).dlCtl == 0x3FFFFFFFF) = true := by decide
theorem test_status_gather : shows (exec (.statusGather 0) (ownedBy job { idleCore with stickies := 4, fpStatus := 0x11 } .awake))
    (fun t => (t.part 0).sticky && (t.part 0).fpx == 0x11) = true := by decide +kernel

/-- A scan region of 4 GiB. -/
def scanned (q : Part) : Part :=
  { q with set := { Settings.reset with scanEn := true, scanRegion := 1 }, regions := [(1, ⟨BitVec.ofNat 64 (3 + 2 ^ 7), 2 ^ 32⟩)] }
def image0 : ScanImage := ⟨[0], [Arr.reset], [(0, { Core.reset with flags := 5 })], [], [], []⟩

/-- An image without arrays: its 64-byte header alone. -/
def image1 : ScanImage := ⟨[], [], [], [], [], []⟩
/-- It lies in a spill region of a confidential partition, and its granule's record is not that of its bytes. -/
def spoiled : State :=
  (ownedBy { scanned job with conf := true, state := .resumable, resuming := true, image := some image1 } idleCore .awake).setMem 0
    { Ms.reset with seals := [(2 ^ 32, ⟨0, []⟩)] }

/-- It resumes with the image of array 0, whose header of core 1 was written since. -/
def resumes : State :=
  (ownedBy { scanned job with state := .resumable, resuming := true, image := some image0 } idleCore .awake).setMem 0
    { Ms.reset with stack := [(image0.coreAt 1 + 8, 1)] }

theorem witness_SuspensionKeepsWhatTheCoresHold :
    (∀ e ∈ [(job, false), (scanned job, true)], let s := ownedBy e.1 idleCore .awake
      s.acts 31 = true ∧ s.owns 31 0 = true ∧ (s.part 0).placing = false ∧ (s.part 0).resuming = false ∧ (s.part 0).state = .running
        ∧ s.canScan 0 = e.2 ∧ s.loaderOf 0 = none)
    ∧ (let s := inState .quiescing
       (s.part 0).image = none ∧ s.quiet 0 = true ∧ (s.part 0).byDevice = false)
    ∧ (let s := ownedBy { scanned job with state := .quiescing, image := some image0 } idleCore .awake
       (s.part 0).image = some image0 ∧ (∀ a ∈ (s.part 0).sas, s.siteOf a ∉ s.mgs.deadSites) ∧ 136 < s.imageSize 0
         ∧ ((s.part 0).place 1 136).1 ∈ ((s.part 0).region 1).stations ∧ (s.part 0).place 1 136 = (0, 136))
    ∧ (∀ n ∈ [0, 1], let s := ownedBy { job with state := .quiescing, quiesceTicks := n } idleCore .awake
       (s.part 0).image = none ∧ (s.part 0).byDevice = false)
    ∧ (∀ st ∈ [PState.suspended, .resumable], let s := inState st
       s.acts 31 = true ∧ s.owns 31 0 = true ∧ (s.part 0).placing = false ∧ (s.part 0).resuming = false ∧ (s.part 0).state = st)
    ∧ (∀ n ∈ [1, 1200], let s := ownedBy { job with state := .suspended, placing := true, saCount := n, cls := 1 } idleCore .awake
       (s.part 0).placing = true ∧ (match s.placement n 1 with
        | .ok _ => decide (n = 1)
        | .error _ => decide (n = 1200)) = true)
    ∧ (let s := ownedBy { scanned job with state := .resumable, resuming := true, image := some image1 } idleCore .awake
       (s.part 0).image = some image1 ∧ (s.part 0).resuming = true ∧ s.bedsAwake 0 = true ∧ s.codesMatch 0 image1 = true
        ∧ s.authentic 0 (s.part 0).set.scanRegion 0 image1.length = true ∧ (coreKeys image1.sas).map (movedKey image1 (s.part 0)) = [])
    ∧ (let s := resumes
       (s.part 0).image = some image0 ∧ (s.part 0).resuming = true ∧ s.bedsAwake 0 = true
        ∧ s.authentic 0 (s.part 0).set.scanRegion 0 image0.length = true
        ∧ (coreKeys image0.sas).map (movedKey image0 (s.part 0)) = List.range 576)
    ∧ (let s := spoiled
       (s.part 0).image = some image1 ∧ (s.part 0).resuming = true ∧ s.bedsAwake 0 = true
         ∧ s.authentic 0 (s.part 0).set.scanRegion 0 image1.length = false) := by decide +kernel
/-- The image is read without error; cores 1 and 2 hold one program, and their headers differ. -/
theorem witness_ImageReads (w : Nat × Nat) : (resumes.reading.range 0 1 [] w).1 = resumes ∧ (resumes.reading.range 0 1 [] w).2.2 ≠ none :=
  resumes.range_clean 0 1 w fun a _ => by
    have m : resumes.ms = [(0, { Ms.reset with stack := [(image0.coreAt 1 + 8, 1)] })] := rfl
    have h : (resumes.mem a.1).poison = [] := by
      rw [State.mem, m]
      by_cases e : a.1 = 0 <;> simp [SMap.look, e, Ms.reset]
    simp [h]
theorem witness_CodesDiffer : resumes.codesMatch 0 image0 = false := by
  cases h : resumes.codesMatch 0 image0 with
  | false => rfl
  | true =>
    have a := List.all_eq_true.1 h 1 (by decide +kernel)
    have b := List.all_eq_true.1 h 2 (by decide +kernel)
    have c : resumes.core (movedKey image0 (resumes.part 0) 1) = resumes.core (movedKey image0 (resumes.part 0) 2) := by decide +kernel
    have d : resumes.headerCode 0 image0 1 ≠ resumes.headerCode 0 image0 2 := by decide +kernel
    rw [c] at a
    exact absurd ((beq_iff_eq.1 a).symm.trans (beq_iff_eq.1 b)) d
/-- The keys of one array's cores are all different. -/
theorem witness_ImageKeys : (List.range 576).Nodup := List.nodup_range
theorem test_suspend_refused : shows (exec (.partSuspend 31 0) (inState .running))
    (fun t => (t.part 0).result == 7 && (t.part 0).state == .running) = true := by decide +kernel
theorem test_suspend : shows (exec (.partSuspend 31 0) (ownedBy (scanned job) idleCore .awake))
    (fun t => (t.part 0).state == .quiescing && (t.arr 0).freeze == some .scan) = true := by decide +kernel
theorem test_quiesce_timeout : shows (exec (.quiesceTimeout 0 []) (inState .quiescing))
    (fun t => (t.part 0).state == .running && (t.part 0).result == 5) = true := by decide +kernel
theorem test_quiesce_done : shows (exec (.quiesceDone 0) (inState .quiescing)) (fun t => (t.part 0).image.isSome) = true := by decide +kernel
theorem test_scan_out : shows (exec (.scanOutDone 0 [] []) (ownedBy { scanned job with sas := [], state := .quiescing, image := some image1 } idleCore .awake))
    (fun t => (t.part 0).state == .suspended && (t.part 0).regions.length == 1 && (t.part 0).image == some image1) = true := by
  decide +kernel
theorem test_part_place : shows (exec (.partPlace 31 0) (inState .suspended)) (fun t => (t.part 0).placing) = true := by decide
theorem test_place_done : shows (exec (.placeDone 0) (ownedBy { job with state := .suspended, placing := true, saCount := 1, cls := 1 } idleCore .awake))
    (fun t => (t.part 0).state == .placed && (t.part 0).sas == [1] && (t.arr 1).part == some 0) = true := by decide +kernel
theorem test_resume : shows (exec (.partResume 31 0) (ownedBy { job with state := .resumable } idleCore .sleep))
    (fun t => (t.part 0).resuming && (t.bed 0).state == .waking) = true := by decide +kernel
theorem test_resume_done : shows (exec (.resumeDone 0 []) (ownedBy { job with state := .resumable, resuming := true, image := some image1 } idleCore .awake))
    (fun t => (t.part 0).state == .running && (t.part 0).outputs && (t.part 0).image == none) = true := by decide +kernel

theorem witness_FaultsStopOnlyTheirPartition :
    (∀ w ∈ [Rec4.zero, { Rec4.zero with w0 := 2 ^ 63 }], let s := ownedBy { job with fault := w } idleCore .awake
      (s.part 0).state.live = true ∧ s.loaderOf 0 = none ∧ bitOf (s.part 0).fault.w0 63 = !(w == Rec4.zero))
    ∧ ((holdCell 2).deadlocked 0 = true ∧ ((holdCell 2).part 0).endCode ≤ 1 ∧ (holdCell 3).deadlocked 0 = false)
    ∧ (let s := ownedBy { job with state := .casting, castLeft := [0, 1, 2, 3] } idleCore .waking
       (s.part 0).castLeft.head? = some 0 ∧ s.bedsAwake 0 = false ∧ (s.part 0).endCode ≤ 1) := by decide +kernel
/-- Held at core (0, 0) slot 0 on counter 2: one array held, none halted. -/
theorem test_deadlock : shows (exec (.deadlock 0) (holdCell 2))
    (fun t => (t.part 0).endCode == 10 && (t.part 0).dlStatus == BitVec.ofNat 64 (1 + 2 ^ 36 * 2 + 2 ^ 42)) = true := by decide +kernel
theorem test_cast_lock_timeout : shows (exec (.castLockTimeout 0) (ownedBy { job with state := .casting, castLeft := [0, 1, 2, 3] } idleCore .waking))
    (fun t => (t.part 0).endCode == 12 && (t.part 0).state == .binding) = true := by decide +kernel

/-! ## Host ports (R239-R256) -/

/-- Port 31 acts, owns partition 0 with region 1 of `mapped`, and has window slot 63 on it. -/
def hosting (f : Port → Port) (m : Ms) : State :=
  let s := (ownedBy mapped idleCore .awake).setMem 39 m
  { s with nextId := 10 }.setPort 31 (f { s.port 31 with winMap := [(63, BitVec.ofNat 64 (1 + 2 ^ 7))] })
/-- Its first byte of granule 1, on station 39. -/
def win1 : Nat := 63 * 2 ^ 30 + 1024

theorem witness_PortsResetTrainMapAndReachMemory :
    (∀ n ∈ [0, 1], let s := hosting (fun q => { q with loader := { Loader.reset with state := n } }) Ms.reset
      (s.port 31).loader.state = n ∧ s.acts 31 = true)
    ∧ (∀ e ∈ [(win1, 8, none), (win1, 3072, none), (win1, 3073, none), (0, 8, none)], let s := hosting id Ms.reset
      let w := SMap.look 0 (s.port 31).winMap (e.1 / 2 ^ 30)
      decide (winValid w = true ∧ s.mappable 31 (winPart w) (winRegion w) = true
          ∧ 65536 * winOfs w + e.1 % 2 ^ 30 + e.2.1 ≤ ((s.part (winPart w)).region (winRegion w)).size)
          = decide (e.1 = win1 ∧ e.2.1 ≤ 3072)
        ∧ s.ideOk 31 0 e.2.2 = true)
    ∧ (∀ m ∈ [({ Ms.reset with state := 2 } : Ms), { Ms.reset with poison := [0x10000] }, Ms.reset,
        { Ms.reset with waiting := [{ ask .write 1 1024 8 [] [] with host := some 3 }] }], let s := hosting id m
      (s.port 31).lost = false ∧ s.actsOn 31 none = true ∧ (s.port 31).drops none = false ∧ s.cutOff 31 0 1 1024 8 = decide (m.state = 2)
        ∧ s.hostWaits 31 0 1 1024 8 = !m.waiting.isEmpty
        ∧ (s.sectorSpots 0 1 1024 8).any (fun x => (s.mem x.1).poison.contains x.2) = !m.poison.isEmpty
        ∧ (m.state ≠ 2 → (List.range 8).all (fun i => (s.locate 0 1 (1024 + i)).isSome) = true ∧ s.authentic 0 1 1024 8 = true)
        ∧ 1024 % ((s.part 0).region 1).gran + 8 ≤ ((s.part 0).region 1).gran)
    ∧ ((hosting (fun q => { q with ide := [(8, { Ide.reset with state := 2 })] }) Ms.reset).port 31).drops (some 8) = true
    ∧ (let s := hosting id Ms.reset
       ({ s with cores := [], parts := [], ports := [], arrays := [], beds := [] } : State).TablesOk ∧ SMap.wf Part.reset s.parts = true
         ∧ SMap.wf Port.reset s.ports = true ∧ SMap.wf Arr.reset s.arrays = true ∧ SMap.wf Bed.reset s.beds = true)
    ∧ ((hosting (fun q => { q with ready := false }) Ms.reset).port 31).ready = false
    ∧ (4 ≠ 8 ∧ 0x104 % 8 ≠ 0) := by
  unfold State.TablesOk
  decide +kernel
theorem test_port_reset : shows (exec (.portReset 31 .flr) (hosting (fun q => { q with started := 7, loader := { Loader.reset with state := 1 } }) Ms.reset))
    (fun t => (t.port 31).started == 7 && (t.port 31).loader.reason == 0x1A && !(t.port 31).ready && (t.port 31).winMap == []) = true := by
  decide +kernel
theorem test_link_up : shows (exec (.linkUp 31 5 16 true) ((inState .running).setPort 31 Port.reset))
    (fun t => (t.port 31).linkUp && (t.port 31).speed == 5 && (t.port 31).width == 16) = true := by decide
theorem test_port_ready : shows (exec (.portReady 31) ((inState .running).setPort 31 { Port.reset with linkUp := true }))
    (fun t => (t.port 31).ready && (t.port 31).loader.deadline == 800000) = true := by decide
theorem test_config_request : shows (exec (.configRequest 31 .ids none []) (let s := hosting id Ms.reset; { s with mgs := { s.mgs with phase := .released } }))
    (fun t => t.out.length == 1) = true := by decide
/-- BAR 0's low half keeps bits 31:26 (R242): an aperture of 64 MiB. -/
theorem test_config_bar : shows (exec (.configRequest 31 (.bar 0) (some 0xFFFFFFFF) []) (let s := hosting id Ms.reset; { s with mgs := { s.mgs with phase := .released } }))
    (fun t => (t.port 31).config (.bar 0) == 0xFC000004) = true := by decide
theorem test_win_map_refused : shows (exec (.winMapWrite 31 63 (BitVec.ofNat 64 (1 + 2 ^ 7 * 5))) (hosting id Ms.reset))
    (fun t => SMap.look 0 (t.port 31).winMap 63 == BitVec.ofNat 64 (2 ^ 7 * 5) && (t.port 31).notOwned == 1) = true := by decide
theorem test_window_read : shows (exec (.windowRead 31 win1 2 none []) (hosting id { Ms.reset with stack := [(0x10001, 9)] }))
    (fun t => t.out == [.readData 31 [0, 9]]) = true := by decide +kernel
theorem test_window_unmapped : shows (exec (.windowRead 31 0 2 none []) (hosting id Ms.reset))
    (fun t => t.out == [.unsupported 31] && (t.port 31).unmapped == 1) = true := by decide +kernel
theorem test_window_write : shows (exec (.windowWrite 31 win1 [7, 8] none) (hosting id Ms.reset))
    (fun t => (t.mem 39).waiting.map (fun r => (r.rid, r.offset, r.data)) == [(10, 1024, [7, 8])] && (t.port 31).openWrites == [10]) = true := by
  decide +kernel
theorem test_ide_fail : shows (exec (.ideIntegrityFail 31 8) (hosting (fun q => { q with ide := [(8, ⟨1, 0, [], 0⟩)] }) Ms.reset))
    (fun t => (SMap.look Ide.reset (t.port 31).ide 8).state == 2 && (t.port 31).aer == 1) = true := by decide
theorem test_register_write : shows (exec (.registerWrite 31 0x104 8 0 []) (hosting id Ms.reset)) (fun t => (t.port 31).misaligned == 1) = true := by decide

/-- Array 0, column 23, row 23, counter 15, amount 3. -/
def bellW : W64 := BitVec.ofNat 64 (2 ^ 11 * 23 + 2 ^ 16 * 23 + 2 ^ 21 * 15 + 2 ^ 25 * 3)
def bell : Doorbell := ⟨0, 0, 0, 23, 23, 15, 3, [4]⟩
def ringing (es : List Nat) (e : Option Nat) : State :=
  (hosting (fun q => { q with doorbells := [bell], openWrites := es }) Ms.reset).setPart 0 { mapped with owner := 31, dbEntry := e }

theorem witness_DoorbellsWaitForEarlierWrites :
    (let s := hosting id Ms.reset
     s.acts 31 = true ∧ s.owns 31 0 = true ∧ (s.part 0).state = .running ∧ fld bellW 10 0 < (s.part 0).saCount ∧ fld bellW 15 11 ≤ 23
       ∧ fld bellW 20 16 ≤ 23 ∧ s.ideOk 31 0 none = true
       ∧ (s.setPart 0 { mapped with owner := 31, conf := true }).ideOk 31 0 none = false)
    ∧ (∀ es ∈ [[4], [5]], ((ringing es (some 7)).port 31).doorbells = [bell] ∧ bell.after.any es.contains = decide (es = [4])
        ∧ ((ringing es (some 7)).part 0).dbEntry = some 7 ∧ ((ringing es none).part 0).dbEntry = none)
    ∧ (∀ n ∈ [0xFFFC, 0xFFFD], let s := landing 0 1 Desc.reset n (.doorbell 0 0 0 2 3)
      s.token 9 = some ⟨9, 0, 0, 0, .core 0 0 0, 0, none, [], .doorbell 0 0 0 2 3⟩ ∧ s.strict 0 = false ∧ (s.core 0).counter 2 = n ∧ 1 ∈ arrivalPorts 0 0)
    ∧ (let s := (hosting (fun q => { q with ide := [(8, { Ide.reset with state := 2 })] }) Ms.reset)
       s.actsOn 31 (some 8) = false ∧ s.actsOn 31 none = true)
    ∧ ({ ringing [5] none with cores := [], parts := [], ports := [], arrays := [], beds := [] } : State).TablesOk
    ∧ (let s := ringing [5] none
       SMap.wf Part.reset s.parts = true ∧ SMap.wf Port.reset s.ports = true ∧ SMap.wf Arr.reset s.arrays = true
         ∧ SMap.wf Bed.reset s.beds = true) := by
  unfold State.TablesOk
  decide +kernel
theorem test_part_db : shows (exec (.partDb 31 0 bellW none) (hosting (fun q => { q with openWrites := [4] }) Ms.reset))
    (fun t => (t.port 31).doorbells == [bell]) = true := by decide
theorem test_part_db_dropped : shows (exec (.partDb 31 0 1 none) (hosting id Ms.reset)) (fun t => (t.port 31).dbDropped == 1) = true := by decide
theorem test_bell_release : shows (exec (.doorbellRelease 31) (ringing [5] (some 7)))
    (fun t => (t.net.map fun k => (k.loc, k.entry, k.body)) == [(.router (attachSite 79), 7, .doorbell 0 23 23 15 3)]) = true := by decide +kernel
theorem test_bell_land : shows (exec (.doorbellLand 9 1) (landing 0 1 Desc.reset 0xFFFD (.doorbell 0 0 0 2 3)))
    (fun t => (t.core 0).counter 2 == 0xFFFF && (t.core 0).stickies == 4) = true := by decide

/-! ### Queues and volumes (R249-R252) -/

/-- A command: opcode, CID 5, PART 0, REGION 1, VOLUME 0; host address, length, offset. -/
def cmdOf (op : Nat) (len ofs : Nat) : QCmd := ⟨BitVec.ofNat 64 (op + 2 ^ 8 * 5 + 2 ^ 30), 0x1000, BitVec.ofNat 64 len, BitVec.ofNat 64 ofs, 0, 0, 0, 0⟩
/-- Queue 7 of port 31, 16 entries each way. -/
def queued (f : Queue → Queue) (m : Ms) : State :=
  (hosting id m).setQueue 31 7 (f { Queue.reset with enable := true, sqLog2 := 4, cqLog2 := 4, vector := 3 })
def holdsCmd (c : QCmd) (m : Ms) : State := queued (fun u => { u with cmds := [⟨c, false, [], 0, 4⟩] }) m

theorem witness_QueuesFetchStartAndComplete :
    (let s := queued id Ms.reset; let u := s.queue 31 7
     s.acts 31 = true ∧ u.enable = true ∧ u.cmds = [] ∧ ∀ c ∈ [cmdOf 1 8 0], knownOpcode (cmdOpcode c) = true)
    ∧ (let s := hosting id Ms.reset
       (s.queue 31 7).enable = false ∧ ∀ v ∈ [0x44, 0xCC], 4 ≤ fld (BitVec.ofNat 64 v) 3 0 ∧ fld (BitVec.ofNat 64 v) 3 0 ≤ 12
         ∧ 4 ≤ fld (BitVec.ofNat 64 v) 7 4 ∧ fld (BitVec.ofNat 64 v) 7 4 ≤ 12)
    ∧ (let u := (queued (fun u => { u with cqTail := 15, done := [⟨5, 0, 0⟩] }) Ms.reset).queue 31 7
       u.done = ⟨5, 0, 0⟩ :: [] ∧ (u.cqTail + 1) % 2 ^ u.cqLog2 = 0 ∧ u.full = true
         ∧ ((queued (fun u => { u with cqTail := 14, done := [⟨5, 0, 0⟩] }) Ms.reset).queue 31 7).full = false)
    ∧ (∀ e ∈ [(1, 8), (2, 8), (3, 8), (0x15, 8)], let c := cmdOf e.1 e.2 1024
       let s := holdsCmd c Ms.reset; let u := s.queue 31 7
       u.cmds = ⟨c, false, [], 0, 4⟩ :: [] ∧ u.full = false ∧ cmdOpcode c = e.1 ∧ cmdCid c = 5 ∧ badArgs c = false
         ∧ (s.port 31).turn = some 7 ∧ (s.port 31).d3hot = false
         ∧ (e.1 = 2 ∨ e.1 = 3 → s.winStatus 31 c none = 0 ∧ s.hostWaits 31 0 1 1024 8 = false)
         ∧ (e.1 = 3 → (s.openWrite 31 0 1 1024 (List.replicate 8 1)).2 ≠ []))
    ∧ (∀ poison ∈ [[], [0x10000]], let s := holdsCmd (cmdOf 2 8 1024) { Ms.reset with poison := poison }
       (s.readNow 0 1 1024 8 []).2.isSome = poison.isEmpty ∧ (s.sectorSpots 0 1 1024 8).any (fun x => (s.mem x.1).poison.contains x.2) = !poison.isEmpty
         ∧ (List.range 8).all (fun i => (s.locate 0 1 (1024 + i)).isSome) = true ∧ s.authentic 0 1 1024 8 = true)
    ∧ ((holdsCmd (cmdOf 2 8 1024) Ms.reset).setPart 0 mapped).winStatus 31 (cmdOf 2 8 1024) none ≠ 0
    ∧ (let s := holdsCmd (cmdOf 2 8 1024) { Ms.reset with waiting := [{ ask .write 1 1024 8 [] [] with host := some 3 }] }
       s.winStatus 31 (cmdOf 2 8 1024) none = 0 ∧ s.hostWaits 31 0 1 1024 8 = true) := by decide +kernel
theorem test_sq_tail : shows (exec (.sqTailWrite 31 7 2 [cmdOf 1 8 0, cmdOf 0x7F 8 0, cmdOf 2 8 0]) (queued id Ms.reset))
    (fun t => (t.queue 31 7).cmds.length == 2 && (t.queue 31 7).sqHead == 2) = true := by decide
theorem test_bad_opcode : shows (exec (.sqTailWrite 31 7 1 [cmdOf 0x7F 8 0]) (queued id Ms.reset))
    (fun t => (t.queue 31 7).done == [⟨5, 1, 0⟩]) = true := by decide
theorem test_cq_head : shows (exec (.cqHeadWrite 31 7 19 []) (queued id Ms.reset)) (fun t => (t.queue 31 7).cqHead == 3) = true := by decide
theorem test_queue_enable : shows (exec (.queueEnable 31 7 0x1CC) (hosting id Ms.reset))
    (fun t => (t.queue 31 7).enable && (t.queue 31 7).sqLog2 == 12 && (t.queue 31 7).vector == 1) = true := by decide
theorem test_queue_disable : shows (exec (.queueDisable 31 7) (holdsCmd (cmdOf 1 8 0) Ms.reset))
    (fun t => (t.queue 31 7).done == [⟨5, 0xD, 0⟩] && !(t.queue 31 7).enable) = true := by decide
theorem test_skein_fetch : shows (exec (.skeinFetch 31 7 5 .error) (holdsCmd (cmdOf 1 8 0) Ms.reset))
    (fun t => (t.queue 31 7).done == [⟨5, 9, 0⟩]) = true := by decide +kernel
theorem test_win_read : shows (exec (.winRead 31 7 5 none []) (holdsCmd (cmdOf 2 8 1024) { Ms.reset with stack := [(0x10007, 3)] }))
    (fun t => t.out == [.hostWrite 31 0x1000 [0, 0, 0, 0, 0, 0, 0, 3]] && (t.queue 31 7).done == [⟨5, 0, 0⟩]) = true := by decide +kernel
theorem test_win_write : shows (exec (.winWrite 31 7 5 (.bytes (List.replicate 8 1)) none) (holdsCmd (cmdOf 3 8 1024) Ms.reset))
    (fun t => (t.queue 31 7).cmds.map (fun e => (e.started, e.left)) == [(true, [10])] && (t.mem 39).waiting.length == 1) = true := by decide +kernel
theorem test_completion_timeout : shows (exec (.completionTimeout 31 7 5 none) (holdsCmd (cmdOf 3 8 1024) Ms.reset))
    (fun t => (t.queue 31 7).done == [⟨5, 8, 0⟩]) = true := by decide +kernel
/-- The tail wraps to 0 and PHASE inverts; vector 3 is masked, so its pending bit is set. -/
theorem test_completion_post : shows (exec (.completionPost 31 7) (queued (fun u => { u with cqTail := 15, cqHead := 1, done := [⟨5, 0, 9⟩] }) Ms.reset))
    (fun t => t.out == [.completion 31 7 (BitVec.ofNat 64 (5 + 2 ^ 24 + 2 ^ 25 * 7)) 9] && !(t.queue 31 7).phase && (t.port 31).pba == 8) = true := by
  decide

/-- Volume 0 with that command first in the queue. -/
def volumed (v : Option Volume) (c : QCmd) : State := (holdsCmd c Ms.reset).setVolume 0 v
def vol0 : Volume := ⟨31, 1, none, none, false, [1], [(8, 4)]⟩

theorem witness_VolumesServeOnlyTheirPort :
    (∀ op ∈ [0x10, 0x11, 0x12, 0x13, 0x14, 0x15], let c := cmdOf op 8 8; let s := volumed (some vol0) c; let u := s.queue 31 7
      s.acts 31 = true ∧ u.cmds = ⟨c, false, [], 0, 4⟩ :: [] ∧ u.full = false ∧ badArgs c = false ∧ cmdOpcode c = op ∧ cmdVolume c = 0
        ∧ (s.port 31).turn = some 7 ∧ (s.port 31).d3hot = false ∧ s.volume 0 = some vol0 ∧ vol0.port = 31 ∧ vol0.bound = none ∧ vol0.conf = none ∧ 8 + 8 ≤ vol0.sizeGib * 2 ^ 30 ∧ s.flashCut 31 = false
        ∧ (∀ b ∈ vol0.lost, b * 65536 + 65536 ≤ 8 ∨ 8 + 8 ≤ b * 65536))
    ∧ (let s := volumed none (cmdOf 0x10 98304 0)
       s.volume 0 = none ∧ 98304 ≤ s.flashFree ∧ (s.part 0).conf = false ∧ (volumed (some vol0) (cmdOf 0x10 98304 0)).flashFree < 98304)
    ∧ ((volumed (some { vol0 with port := 30 }) (cmdOf 0x11 8 8)).volume 0).all (fun v => v.port != 31) = true
    ∧ (let s := (volumed (some vol0) (cmdOf 0x12 8 8)).setPart 0 { job with owner := 31 }
       s.owns 31 0 = true ∧ (s.part 0).state.live = true ∧ ((s.part 0).region 1).valid = false ∧ s.volumeOf 0 1 = none ∧ (s.part 0).conf = false) := by
  decide +kernel
theorem test_vol_create : shows (exec (.volCreate 31 7 5) (volumed (some vol0) (cmdOf 0x10 2 0)))
    (fun t => (t.queue 31 7).done == [⟨5, 0, 1⟩] && (t.volume 1).any fun v => v.sizeGib == 2 && v.port == 31) = true := by decide +kernel
theorem test_vol_delete_bound : shows (exec (.volDelete 31 7 5) (volumed (some { vol0 with bound := some (0, 2) }) (cmdOf 0x11 8 8)))
    (fun t => (t.queue 31 7).done == [⟨5, 7, 0⟩] && (t.volume 0).isSome) = true := by decide +kernel
theorem test_vol_bind : shows (exec (.volBind 31 7 5) ((volumed (some vol0) (cmdOf 0x12 8 8)).setPart 0 { job with owner := 31 }))
    (fun t => (t.queue 31 7).done == [⟨5, 0, 0⟩] && (t.volume 0).any fun v => v.bound == some (0, 1)) = true := by decide +kernel
/-- SIZE 1 GiB, state 2 (blocks lost), unbound. -/
theorem test_vol_info : shows (exec (.volInfo 31 7 5) (volumed (some vol0) (cmdOf 0x13 8 8)))
    (fun t => (t.queue 31 7).done == [⟨5, 0, BitVec.ofNat 64 (1 + 2 ^ 32 * 2)⟩]) = true := by decide +kernel
theorem test_vol_read : shows (exec (.volRead 31 7 5 []) (volumed (some vol0) (cmdOf 0x14 8 8)))
    (fun t => t.out == [.hostWrite 31 0x1000 [4, 0, 0, 0, 0, 0, 0, 0]]) = true := by decide +kernel
theorem test_vol_write : shows (exec (.volWrite 31 7 5 (.bytes (List.replicate 8 1)) none) (volumed (some vol0) (cmdOf 0x15 8 8)))
    (fun t => (t.queue 31 7).done == [⟨5, 0, 0⟩] && (t.volume 0).any fun v => SMap.look 0 v.data 15 == 1 && v.lost == [1]) = true := by
  decide +kernel

/-! ## DOE, SPDM, IDE, MCTP (R253-R255, R260, R261, R265) -/

/-- Port 31 with some sessions. -/
def spdmOn (l : SMap Spdm) (f : Port → Port) : State := hosting (fun q => f { q with spdm := l }) Ms.reset
def full4 : SMap Spdm := [(0, ⟨2, none, [], 0⟩), (1, ⟨1, none, [], 0⟩), (2, ⟨2, none, [], 0⟩), (3, ⟨1, none, [], 0⟩)]

theorem witness_PortsAnswerMessagesAndKeepSessions :
    (∀ up ∈ [true, false], (spdmOn [] fun q => { q with linkUp := up }).linked 31 = up)
    ∧ (let s := spdmOn full4 id
       (s.spdm 31 1).stage = 1 ∧ (s.spdm 31 2).stage = 2 ∧ s.freeSpdm 31 = none)
    ∧ (let s := spdmOn [(0, ⟨2, none, [], 0⟩)] id
       (s.spdm 31 0).stage ≠ 0 ∧ (s.spdm 31 1).stage = 0 ∧ s.mgs.drbgServe.isSome = true
         ∧ ({ s.mgs with drbg := reseedLimit, entropy := [] } : Mgs).drbgServe = none)
    ∧ ((spdmOn [] id).measurements 31 4).isSome = true ∧ ((spdmOn [] id).measurements 31 0x40).isSome = true
    ∧ ((spdmOn [] id).measurements 31 0x41) = none
    ∧ (∀ set ∈ [0, 1], let s := spdmOn full4 fun q => { q with ide := [(8, ⟨1, 1, [0, 1], 2⟩)] }
       let e := s.stream 31 8
       e.session = 2 ∧ set ∈ e.progd ∧ set < 2 ∧ (s.stream 31 7).progd = [])
    ∧ (let s := spdmOn [] id
       s.hostSees 31 0x5200 0 = false ∧ s.hostSees 31 0x1000 0 = true
         ∧ ∀ e ∈ [(0x10, 4, 0, true), (0x10, 5, 0, false), (0x12, 10, 0, true), (0x11, 0, 0, true), (0x10, 4, 1, false)],
           let u : Pdu := ⟨1, e.1, e.2.1, 0, 5, e.2.2.1⟩
           decide (u.verDir = 1 ∧ u.rsv = 0 ∧ u.session = 0 ∧ (u.kind = 0x10 → u.len = 4) ∧ (u.kind = 0x12 → u.len = 10)) = e.2.2.2) := by decide +kernel

/-- What port 31 says. -/
def saysOf (a : Answer) : List (String × List Byte) := match a with
  | .next t => t.out.filterMap fun o => match o with
    | .spdm 31 n d => some (n, d)
    | .mctp 31 n d => some (n, d)
    | _ => none
  | _ => []
def spdm0 : State := spdmOn full4 fun q => { q with ide := [(8, ⟨1, 1, [0, 1], 2⟩)], eid := 9 }

theorem test_get_version : saysOf (exec (.getVersion 31) spdm0) = [("VERSION", [0x13])] := by decide
theorem test_get_capabilities : saysOf (exec (.getCapabilities 31) spdm0) = [("CAPABILITIES", [0xD6, 0x62, 0, 0, 0, 16, 0, 0])] := by decide
theorem test_algorithms : saysOf (exec (.negotiateAlgorithms 31) spdm0) = [("ALGORITHMS", [0x80, 0x02, 0x10, 0x02])] := by decide
theorem test_digests : (saysOf (exec (.getDigests 31) spdm0)).map Prod.fst = ["DIGESTS"] := by decide
theorem test_certificate : (saysOf (exec (.getCertificate 31 0 16) spdm0)).map Prod.fst = ["CERTIFICATE"] := by decide
theorem test_challenge : shows (exec (.challenge 31 []) spdm0) (fun t => t.draws == 1) = true := by decide
theorem test_measurements_absent : saysOf (exec (.getMeasurements 31 0x41 false []) spdm0) = [("ERROR", [1])] := by decide +kernel
/-- Four sessions in use: the session limit. -/
theorem test_key_exchange : saysOf (exec (.keyExchange 31) spdm0) = [("ERROR", [0x0A])] := by decide
theorem test_finish : shows (exec (.finish 31 1 true) spdm0) (fun t => (t.spdm 31 1).stage == 2) = true := by decide
theorem test_finish_fails : shows (exec (.finish 31 1 false) spdm0) (fun t => (t.spdm 31 1).stage == 0) = true := by decide
theorem test_key_update : shows (exec (.keyUpdate 31 2) spdm0) (fun t => (t.spdm 31 2).updates == 1) = true := by decide
theorem test_heartbeat : saysOf (exec (.heartbeat 31 2) spdm0) = [("HEARTBEAT_ACK", [])] := by decide
/-- The stream of the session becomes Insecure. -/
theorem test_end_session : shows (exec (.endSession 31 2) spdm0) (fun t => (t.spdm 31 2).stage == 0 && (t.stream 31 8).state == 2) = true := by decide
theorem test_host_key : shows (exec (.hostKey 31 2 [] true) spdm0) (fun t => (t.spdm 31 2).hostKey == some (sha384 [])) = true := by decide +kernel
theorem test_query : saysOf (exec (.query 31 2) spdm0) = [("QUERY_RESP", [1, 8])] := by decide
theorem test_key_prog : shows (exec (.keyProg 31 2 7 1) spdm0) (fun t => t.stream 31 7 == ⟨0, 0, [1], 2⟩) = true := by decide
theorem test_k_set_go : shows (exec (.kSetGo 31 2 8 0) spdm0) (fun t => (t.stream 31 8).keySet == 0 && (t.stream 31 8).state == 1) = true := by decide
theorem test_k_set_stop : shows (exec (.kSetStop 31 2 8 1) spdm0) (fun t => (t.stream 31 8).state == 0 && (t.stream 31 8).progd == [0]) = true := by decide
theorem test_doe : saysOf (exec (.doeDiscovery 31 2) spdm0) = [("DOE_DISCOVERY", [1, 0, 2, 0])] := by decide
theorem test_set_eid : shows (exec (.setEndpointId 31 254 true) spdm0) (fun t => (t.port 31).eid == 254) = true := by decide
theorem test_get_eid : saysOf (exec (.getEndpointId 31 true) spdm0) = [("GET_ENDPOINT_ID", [0, 9, 0, 0])] := by decide
theorem test_get_uuid : (saysOf (exec (.getEndpointUuid 31 true) spdm0)).map Prod.fst = ["GET_ENDPOINT_UUID"] := by decide
theorem test_mctp_version : saysOf (exec (.getMctpVersionSupport 31 false) spdm0) = [] := by decide
theorem test_message_types : saysOf (exec (.getMessageTypeSupport 31 true) spdm0) = [("GET_MESSAGE_TYPE_SUPPORT", [0, 2, 0, 0x7E])] := by decide
theorem test_vendor : (saysOf (exec (.getVendorDefinedMessageSupport 31 true) spdm0)).map Prod.fst = ["GET_VENDOR_DEFINED_MESSAGE_SUPPORT"] := by
  decide
/-- A read of MS_STATE, 4 bytes of body, and one whose LEN is not its kind's: dropped. -/
theorem test_mctp_read : shows (exec (.mctpGelokanRequest 31 ⟨1, 0x10, 4, 0, 5, 0⟩ 0x1000 1 0 0 true) spdm0) (fun t => t.out.length == 1) = true := by
  decide +kernel
theorem test_mctp_malformed : shows (exec (.mctpGelokanRequest 31 ⟨1, 0x10, 5, 0, 5, 0⟩ 0x1000 1 0 0 true) spdm0) (fun t => t.out == []) = true := by
  decide +kernel
/-- A write request over MCTP: ROLE (code 4). -/
theorem test_mctp_gelokan : shows (exec (.mctpGelokanRequest 31 ⟨1, 0x11, 5, 0, 5, 0⟩ 0x1000 0 0 0 true) spdm0)
    (fun t => t.out == [.mctpGelokan 31 5 ⟨4, []⟩]) = true := by decide

/-! ## The field network (R272-R294) -/

/-- Session 5 on segment 1: an operator's (1) or a maintenance one (2), open or pending, changed by `f`. -/
def talk (role : Nat) (opened : Bool) (f : Sess → Sess) : State :=
  let s := inState .running
  { s with gel := { s.gel with
      sessions := [(5, f { Sess.reset with seg := 1, role := role, opened := opened, rqKey := List.replicate 32 3, rsKey := List.replicate 32 4 })]
      sessNext := 6
      operAuth := List.replicate 48 1, maintAuth := List.replicate 48 2 } }
/-- A good frame of session 5 with a request of a kind. -/
def fr (seq kind : Nat) (body : List Byte) : Frame :=
  let f : Frame := ⟨1, broadcast, [9], Gel.reset.etherType, ⟨1, kind, body.length, 5, seq, 0⟩, [], true⟩
  { f with tag := gelTag (List.replicate 32 3) seq 5 0 (frameCovered f body) }
/-- The body of a transfer: the object, then the rest. -/
def obj (i sub : Nat) (rest : List Byte) : List Byte := leBytes 2 i ++ leBytes 1 sub ++ rest
/-- A session whose highest SEQ is 100, with 99 accepted and 100's answer kept. -/
def at100 (x : Sess) : Sess := { x with hi := 100, window := 3, recent := [(100, ⟨0, [7]⟩)] }

/-- 36 is past the window, 37 its end; 0xFFFFFFFF the last. -/
theorem witness_RequestsExecuteOnceByTheirSequence :
    (let s := talk 1 true at100; let d := s.sess 5
     s.gelOn = true ∧ d.role ≠ 0 ∧ d.opened = true
      ∧ (∀ e ∈ [(101, true, false), (0xFFFFFFFF, true, false), (37, true, false), (36, false, false), (99, false, false), (100, false, true)],
        d.fresh e.1 = e.2.1 ∧ (d.recent.find? fun x => x.1 == e.1).isSome = e.2.2)
      ∧ (∀ b ∈ [(4, []), (0x10, obj 0x1000 0 (leBytes 1 0)), (0x11, obj 0x4000 2 (leBytes 1 2 ++ [9, 0, 0, 0, 0, 0, 0, 0])),
          (0x12, obj 0x4000 2 (leBytes 1 0 ++ leBytes 4 0 ++ leBytes 2 1)), (0x13, obj 0x8010 1 (leBytes 1 0 ++ leBytes 4 48 ++ leBytes 4 0 ++ [1]))],
        let f := fr 101 b.1 b.2
        f.seg < 2 ∧ f.fcsOk = true ∧ f.dst = List.replicate 6 0xFF ∧ f.etherType = s.gel.etherType ∧ f.pdu.verDir = 1 ∧ f.pdu.rsv = 0
          ∧ f.pdu.kind = b.1 ∧ f.pdu.len = b.2.length ∧ b.2.length ≤ 1400 ∧ f.pdu.session = 5
          ∧ f.tag = gelTag d.rqKey f.pdu.seq 5 0 (frameCovered f b.2))
      ∧ (((s.setSess 5 (d.accept 101)).expReadAct 5 0x1000 0).1.sess 5).role ≠ 0) := by decide +kernel
theorem test_exp_read : shows (exec (.expRead (fr 1 0x10 (obj 0x4000 2 [0])) 0x4000 2) (talk 1 true id))
    (fun t => (t.sess 5).hi == 1 && ((t.seg 1).txq.map fun x => (x.session, x.seq, x.resp.abort, x.resp.body.length)) == [(5, 1, 0, 10)]) = true := by
  decide +kernel
theorem test_replay : shows (exec (.expRead (fr 1 0x10 (obj 0x4000 2 [0])) 0x4000 2) (talk 1 true fun c => { c with hi := 1, window := 1 }))
    (fun t => t.gel.replays == 1 && (t.seg 1).txq == []) = true := by decide +kernel
theorem test_close : shows (exec (.close (fr 1 4 [])) (talk 1 true id)) (fun t => (t.sess 5).role == 0 && (t.seg 1).txq.length == 1) = true := by
  decide +kernel
theorem test_exp_write : shows (exec (.expWrite (fr 1 0x11 (obj 0x4000 2 [2, 9, 0, 0, 0, 0, 0, 0, 0])) 0x4000 2 2 [9, 0]) (talk 1 true id)) (fun t => t.tune.memRowCeLimit == 9) = true := by
  decide +kernel
theorem test_seg_read : shows (exec (.segRead (fr 1 0x12 (obj 0x4000 2 [0, 0, 0, 0, 0, 1, 0])) 0x4000 2 0 1) (talk 1 true id))
    (fun t => ((t.sess 5).xfer.map fun x => x.total) == some 2) = true := by decide +kernel
theorem test_seg_write : shows (exec (.segWrite (fr 1 0x13 (obj 0x8010 1 [0, 48, 0, 0, 0, 0, 0, 0, 0, 1, 2])) 0x8010 1 48 0 [1, 2]) (talk 2 true id))
    (fun t => ((t.sess 5).xfer.map fun x => (x.total, x.bytes)) == some (48, [1, 2])) = true := by decide +kernel

/-- A point of P-384: a requester's Q_R. -/
def qR : List Byte := pointBytes p384Base
/-- A key under which r = s = SHA-384 of the byte 2 verifies over that digest: then 1 G + 1 Q has r as its x coordinate. -/
def key2 : List Byte := pointBytes (some (
  0xb42062144550e6f1c1eab261bc2f03156627cfba964fb8b26e2ec1644432b6873cf698069cf8aabcd7ebc2754650b412,
  0xced6ff89af867f08cc08fa4c6a369dc0e2ee4f55350a07a3820e84657604c645d002b3907e62a6a02e4847ea6bb59fbc))
def sig2 : List Byte := sha384 [2] ++ sha384 [2]
/-- AUTH's frame with that certificate and signature. -/
def frAuth : Frame := fr 1 3 (leBytes 2 1 ++ [2] ++ sig2)

theorem witness_SessionsOpenAuthenticateAndAct_frames :
    (let f := fr 1 1 (leBytes 2 0); let e := (talk 1 true id).gel.etherType
     f.seg < 2 ∧ f.fcsOk = true ∧ f.dst = List.replicate 6 0xFF ∧ f.etherType = e ∧ e ≠ 0 ∧ f.pdu.verDir = 1 ∧ f.pdu.kind = 1
      ∧ f.pdu.len = 2 ∧ f.pdu.rsv = 0)
    ∧ (∀ f ∈ [(⟨1, [], [9], 0, ⟨0x11, 1, 3, 5, 1, 0⟩, [], false⟩ : Frame)], f.fcsOk = false ∧ f.etherType ≠ (talk 1 true id).gel.etherType
        ∧ f.pdu.verDir / 16 % 2 = 1 ∧ f.pdu.len ≠ 2)
    ∧ (let b := leBytes 1 1 ++ leBytes 3 0 ++ List.replicate 32 6 ++ qR; let f := fr 1 2 b
       f.pdu.kind = 2 ∧ f.pdu.len = b.length ∧ b.length ≤ 1400 ∧ (List.replicate 32 6 : List Byte).length = 32 ∧ (pointOf qR).isSome = true
        ∧ (pointOf [4]).isNone = true)
    ∧ (let b := leBytes 2 1 ++ [2] ++ sig2
       sig2.length = 96 ∧ frAuth.pdu.kind = 3 ∧ frAuth.pdu.len = b.length ∧ frAuth.pdu.seq = 1
        ∧ frAuth.tag = gelTag ((talk 1 false id).sess 5).rqKey 1 5 0 (frameCovered frAuth b))
    ∧ (let b := obj 0x4000 2 [0]; let f := { fr 1 0x10 b with tag := [] }
       f.tag ≠ gelTag ((talk 1 true id).sess 5).rqKey 1 5 0 (frameCovered f b) ∧ ((talk 1 false id).sess 5).opened = false) := by decide +kernel

theorem witness_SessionsOpenAuthenticateAndAct :
    (talk 1 true id).gelOn = true
    ∧ (∀ opens ∈ [[0, 0, 0], [0, 0, 0, 0]], let s := (talk 1 true id).setSeg 1 { Seg.reset with opens := opens }
      decide (4 ≤ ((s.seg 1).opens.filter fun t => decide (s.mgs.tick < t + 25000000)).length) = decide (opens.length = 4))
    ∧ (talk 1 true id).openAbort 1 = 0 ∧ (talk 1 true id).openAbort 3 = 0x0E
    ∧ (∀ e ∈ [(1, 1, true), (2, 2, true), (1, 2, false)], let s := talk e.1 false id; let c := s.sess 5
      c.role ≠ 0 ∧ c.opened = false ∧ c.seg = frAuth.seg ∧ c.hi = 0 ∧ c.recent = []
        ∧ s.granted c [2] key2 (List.replicate 48 (BitVec.ofNat 8 e.2.1)) sig2 = e.2.2)
    ∧ (let s := talk 1 true id; let c := s.sess 5
       (match s.readObject c 0x4000 2 with
        | .ok (_, v) => v.length == 2
        | .error _ => false) = true
         ∧ (match s.readObject c 0x8010 1 with
          | .ok (_, v) => decide (8 < v.length)
          | .error a => a != 0) = true
         ∧ (match s.readObject c 0x9999 0 with
          | .ok _ => false
          | .error a => a != 0) = true)
    ∧ (∀ v ∈ [1, 0xFFFF], (talk 2 true id).writeAbort ((talk 2 true id).sess 5) 0x4000 2 (leBytes 2 v) = 0)
    ∧ (talk 2 true id).writeAbort ((talk 2 true id).sess 5) 0x4000 2 [1] ≠ 0
    ∧ (∀ o ∈ [40, 47], let x : Xfer := ⟨true, 0x8010, 1, 48, List.replicate o 0, false⟩
       ((talk 2 true fun c => { c with xfer := some x }).sess 5).xfer = some x ∧ x.timedOut = false ∧ o ≠ 0 ∧ x.bytes.length = o
         ∧ ([1] : List Byte).length ≤ 1024 ∧ decide (o + ([1] : List Byte).length < 48) = decide (o = 40))
    ∧ (∀ stale ∈ [[], [0x2010]], let s := talk 1 true fun c => { c with stale := stale, staged := [(0x2010, 4, leBytes 2 10)] }
       (s.sess 5).opened = true ∧ (s.sess 5).staged = [(0x2010, 4, leBytes 2 10)] ∧ s.tune.throttleT + 3 ≤ s.tune.drainT
         ∧ (0x2010 ∈ (s.sess 5).stale ↔ stale ≠ []) ∧ s.writeAbort (s.sess 5) 0x2010 4 (leBytes 2 10) = 0) := by decide +kernel
theorem test_cert : shows (exec (.cert (fr 7 1 (leBytes 2 0)) 0) (talk 1 true id)) (fun t => ((t.seg 1).txq.map fun x => x.seq) == [7]) = true := by decide +kernel
theorem test_open : shows (exec (.openReq (fr 1 2 (leBytes 4 2 ++ List.replicate 32 6 ++ qR)) 2 (List.replicate 32 6) qR) (talk 1 true id))
    (fun t => (t.sess 6).role == 2 && !(t.sess 6).opened && t.gel.sessNext == 7 && (t.seg 1).opens.length == 1) = true := by decide +kernel
theorem test_auth : shows (exec (.auth frAuth [2] key2 (List.replicate 48 2) sig2) (talk 2 false id)) (fun t => (t.sess 5).opened) = true := by decide +kernel
theorem test_auth_fails : shows (exec (.auth frAuth [2] key2 (List.replicate 48 1) sig2) (talk 2 false id)) (fun t => (t.sess 5).role == 0) = true := by
  decide +kernel
theorem test_apply : shows (exec (.apply 5 0x2010) (talk 1 true fun c => { c with staged := [(0x2010, 4, [232, 3])] }))
    (fun t => t.tune.drainHold == 1000 && (t.sess 5).staged == []) = true := by decide +kernel

/-- A segment with two frames queued. -/
def sending (f : Seg → Seg) : State := (talk 1 true id).setSeg 1 (f { Seg.reset with txq := [⟨5, 1, ⟨0, []⟩, [], 4, [], []⟩, ⟨5, 2, ⟨0, []⟩, [], 4, [], []⟩] })

theorem witness_SegmentsTransmitAndSessionsExpire :
    (sending id).gelOn = true
    ∧ (((sending id).seg 1).mode = 0 ∧ ((sending id).seg 1).maxBurst = 0 ∧ ((sending id).seg 1).node ≠ 0 ∧ ((sending id).seg 1).txq ≠ []
        ∧ ∀ f ∈ ((sending id).seg 1).txq, f.due = [])
    ∧ (let g := (sending fun g => { g with mode := 1, backoff := true, attempts := 15 }).seg 1
       g.mode = 1 ∧ g.backoff = true ∧ 16 ≤ g.attempts + 1 ∧ g.txq ≠ [])
    ∧ (let s := sending fun g => { g with mode := 1, attempts := 15, txq := g.txq.map fun f => { f with due := [(0x1100, 1, [7])] } }
       (s.seg 1).txq ≠ [] ∧ ∀ f ∈ (s.seg 1).txq, f.due ≠ [] ∧ (s.sess f.session).opened = true)
    ∧ ((sending fun g => { g with mode := 1 }).seg 1).backoff = false ∧ ((sending fun g => { g with txq := [] }).seg 1).txq = []
    ∧ (((talk 1 true id).sess 5).opened = true ∧ ((talk 1 true id).sess 5).role ≠ 0)
    ∧ (((talk 1 false id).sess 5).opened = false ∧ ((talk 1 false id).sess 5).role ≠ 0) := by decide +kernel
theorem test_transmit : shows (exec (.transmitOpportunity 1) (sending fun g => { g with maxBurst := 1 }))
    (fun t => t.out.length == 2 && (t.seg 1).txq == []) = true := by decide +kernel
theorem test_beacon : shows (exec (.plcaBeacon 1) (sending fun g => { g with mode := 1 })) (fun t => (t.seg 1).mode == 0 && (t.seg 1).modeChanges == 1) = true := by
  decide
theorem test_plca_loss : shows (exec (.plcaLossExpiry 1) (sending id)) (fun t => (t.seg 1).mode == 1) = true := by decide
/-- The 16th failed attempt drops the frame. -/
theorem test_collision : shows (exec (.physicalCollision 1) (sending fun g => { g with mode := 1, attempts := 15 }))
    (fun t => (t.seg 1).txq.length == 1 && (t.seg 1).txDropped == 1 && (t.seg 1).csmaColl == 1 && (t.seg 1).attempts == 0) = true := by decide
theorem test_backoff : shows (exec (.csmaBackoffExpiry 1 false) (sending fun g => { g with mode := 1, backoff := true }))
    (fun t => t.out.length == 1 && !(t.seg 1).backoff) = true := by decide +kernel
theorem test_coordinator : shows (exec (.coordinatorBeacon 1) (sending fun g => { g with node := 0 })) (fun t => t.out.length == 1) = true := by decide
theorem test_idle_expiry : shows (exec (.sessionIdleExpiry 5) (talk 1 true id)) (fun t => (t.sess 5).role == 0 && t.gel.log.length == 1) = true := by
  decide +kernel
theorem test_auth_timeout : shows (exec (.sessionAuthTimeout 5) (talk 1 false id)) (fun t => (t.sess 5).role == 0) = true := by decide +kernel
theorem test_transfer_timeout : shows (exec (.segTransferTimeout 5) (talk 1 true fun c => { c with xfer := some ⟨true, 0, 0, 4, [1], false⟩ }))
    (fun t => ((t.sess 5).xfer.map fun x => (x.timedOut, x.bytes)) == some (true, [])) = true := by decide

theorem witness_MaintenanceActsOnlyForItsRole :
    (((talk 1 true id).sess 5).opened = true ∧ ((talk 1 true id).sess 5).role = 1)
    ∧ (let s := talk 2 true id; let c := s.sess 5
       c.opened = true ∧ c.role = 2 ∧ s.fw.runningSvn < 2 ^ 32 ∧ (List.replicate 48 (7#8)).length = 48 ∧ s.gel.maintAuth ≠ List.replicate 48 7
         ∧ (s.setBed 35 { Bed.reset with state := .failedTransit }).bed 35 = { Bed.reset with state := .failedTransit }
         ∧ Bed.reset.latched = false
         ∧ s.bedFree 0 = false ∧ s.mgs.softEntries ≤ s.mgs.fuseFree
         ∧ ({ s with fw := { s.fw with slot := 1 } }.fw.slot ≠ s.fw.active)
         ∧ s.writeAbort c 0xF010 3 (List.replicate 1024 1) = 0 ∧ s.writeAbort c 0xF010 3 [1] = 0
         ∧ (∀ v ∈ [1, 31], s.writeAbort c 0xF010 6 (leBytes 1 v) = 0 ∧ s.switchList v ≠ [])
         ∧ s.mgs.mgcs.length = 3 ∧ s.mgs.phase = .released ∧ s.fw.pending = [] ∧ s.requestsWait = false
         ∧ s.bedFree 1 = true ∧ (s.bed 1).state = .sleep
         ∧ ({ s with fw := { s.fw with pending := [(0, 1)] } } : State).requestsWait = true)
    ∧ (let s := talk 2 true id; let t := { s with fw := { s.fw with result := 4, pending := [(3, 39)] } }
       t.fw.result = 4 ∧ t.fw.pending = (3, 39) :: [])
    ∧ (let s := talk 2 true id; let t := { s with mgs := { s.mgs with maintDebug := true } }
       t.accessAbort (t.sess 5) 0x8011 0 = 0 ∧ t.mgs.maintDebug = true ∧ s.accessAbort (s.sess 5) 0x8011 0 = 0 ∧ s.mgs.maintDebug = false)
    ∧ (let s := talk 2 true id; let d := { s with mgs := { s.mgs with debugTicks := 9 } }
       let held := fun n h z => (d.setArr n { Arr.reset with part := some 0, dirtyConf := z, freeze := if h then some .fault else none })
       d.mgs.debugTicks ≠ 0 ∧ d.debugReaches (.array 1) = true ∧ d.debugReaches (.partition 0) = false ∧ s.mgs.debugTicks = 0
        ∧ ((held 2 true false).arr 2).part = some 0 ∧ (held 2 true false).debugReaches (.scan 2) = true
        ∧ (held 2 false false).debugReaches (.scan 2) = false ∧ (held 2 true true).debugReaches (.scan 2) = false) := by
  decide +kernel
theorem test_rekey : shows (exec (.rekey 5 1) (talk 2 true id)) (fun t => t.gel.sessNext == 1 && t.gel.sessGen == 1 && (t.sess 5).opened) = true := by
  decide +kernel
theorem test_svn_commit : shows (exec (.svnCommit 5 3) (let s := talk 2 true id; { s with fw := { s.fw with runningSvn := 3 } })) (fun t => t.fw.svnMin == 3 && t.fw.svnFuse == 7) = true := by
  decide +kernel
theorem test_maint_auth : shows (exec (.maintAuth 5 (List.replicate 48 7)) (talk 2 true id))
    (fun t => t.gel.maintAuth == List.replicate 48 7 && (t.sess 5).role == 0) = true := by decide +kernel
theorem test_bed_reenable : shows (exec (.bedReenable 5 35 1) ((talk 2 true id).setBed 35 { Bed.reset with state := .failedCore }))
    (fun t => (t.bed 35).state == .waking && (t.bed 35).testing && t.gel.log.length == 1) = true := by decide +kernel
theorem test_border_restart : shows (exec (.borderRestart 5 1) (talk 2 true id)) (fun t => t.mgs.restartWaits) = true := by decide +kernel
theorem test_full_test : shows (exec (.fullTest 5 1) (talk 2 true id)) (fun t => (t.bed 0).fullTest) = true := by decide +kernel
theorem test_fuse_burn : shows (exec (.fuseBurn 5 1) (let s := talk 2 true id; { s with mgs := { s.mgs with softEntries := 8192 } }))
    (fun t => t.mgs.softEntries == 0 && t.mgs.fuseFree == 0) = true := by decide +kernel
theorem test_fw_chunk : shows (exec (.fwChunk 5 [1, 2]) (let s := talk 2 true id; { s with fw := { s.fw with slot := 1 } }))
    (fun t => t.fw.offset == 2 && t.fw.image == [(0, 1), (1, 2)]) = true := by decide +kernel
theorem test_fw_verify : shows (exec (.fwVerify 5 1) (talk 2 true id)) (fun t => t.fw.result == 4) = true := by decide +kernel
/-- The signature does not verify. -/
theorem test_fw_verify_done : shows (exec (.fwVerifyDone false) (let s := talk 2 true id; { s with fw := { s.fw with result := 4 } }))
    (fun t => t.fw.result == 2) = true := by decide
theorem test_fw_switch : shows (exec (.fwSwitch 5 1) (let s := talk 2 true id; { s with fw := { s.fw with result := 1, slot := 1 } }))
    (fun t => t.fw.pending == [(0, 0), (0, 1), (0, 2)] && (t.part 0).fwChanges == 1) = true := by decide +kernel
theorem test_fw_element : shows (exec .fwElementSwitchDone (let s := talk 2 true id; { s with fw := { s.fw with slot := 1, pending := [(3, 39)] } }))
    (fun t => t.fw.active == 1 && t.fw.pending == [] && (t.mem 39).image == 1) = true := by decide +kernel
theorem test_debug_token : shows (exec (.debugToken 5 true 9 [.array 1, .journal 0]) (let s := talk 2 true id; { s with mgs := { s.mgs with maintDebug := true } }))
    (fun t => t.mgs.debugTicks == 9 && t.mgs.debugSessions == 1 && t.out == [.debug (.array 1)]) = true := by decide +kernel
theorem test_debug_expiry : shows (exec .debugTokenExpiry (let s := talk 2 true id; { s with mgs := { s.mgs with debugTicks := 9 } }))
    (fun t => t.mgs.debugTicks == 0) = true := by decide
theorem test_object_write : shows (exec (.objectWrite 5 0x4000 2 [1, 0]) (talk 1 true id)) (fun t => t.tune.memRowCeLimit == 1) = true := by
  decide +kernel
theorem test_evt_records : shows (exec (.evtRecords 5) ((talk 1 true id).event 0x0202 0 0xFFFF 0))
    (fun t => (t.sess 5).cursor == 1 && (t.sess 5).xfer.isSome) = true := by decide +kernel

/-! ## The module (R295-R323) -/

/-- The module with a change of MGS. -/
def module0 (f : Mgs → Mgs) : State := let s := inState .running; { s with mgs := f { s.mgs with feeds := [0, 1, 2], standby := [0, 1] } }
/-- Bed 0 changed, with partition `q` on it. -/
def onBed (q : Part) (f : Bed → Bed) : State := let s := ownedBy q idleCore .awake; s.setBed 0 (f (s.bed 0))

theorem witness_PowerFeedsAndReferencesSetThePhase :
    (module0 fun m => { m with phase := .off }).mgs.phase = .off
    ∧ State.reset.fw.svnFuse = 0 ∧ State.reset.firstPassing true true true = some 0 ∧ State.reset.firstPassing false true true = some 1
    ∧ State.reset.firstPassing false false true = some 2 ∧ State.reset.firstPassing false false false = none
    ∧ (let m := (module0 id).mgs
       m.phase = .released ∧ m.phase ≠ .off ∧ 1 ∈ m.standby ∧ 2 ≤ m.standby.length ∧ 2 ∈ m.feeds
         ∧ ¬ (m.phase = .released ∧ (m.feeds.filter fun k => k != 2) = [] ∨ m.phase = .border ∧ (m.feeds.filter fun k => k != 2).length < 2)
         ∧ m.refA = true ∧ m.refB = true)
    ∧ (module0 fun m => { m with standby := [1] }).mgs.standby.length < 2
    ∧ (∀ e ∈ [([0], Phase.standby, false), ([0, 1], .standby, true), ([0, 1], .border, false)],
       let m := (module0 fun m => { m with feeds := e.1, phase := e.2.1 }).mgs
       decide (2 ≤ m.feeds.length ∧ m.phase = .standby) = e.2.2 ∧ (e.2.1 = .border → m.phase ≠ .standby ∧ (m.phase ≠ .released ∨ m.restartWaits = false)))
    ∧ (let s := { module0 (fun m => { m with restartWaits := true }) with parts := [(0, { job with state := .ended })] }
       2 ≤ s.mgs.feeds.length ∧ s.mgs.phase = .released ∧ s.mgs.restartWaits = true ∧ s.allEnded = true)
    ∧ (let s := module0 fun m => { m with feeds := [2] }
       2 ∈ s.mgs.feeds ∧ s.mgs.phase = .released ∧ (s.mgs.feeds.filter fun k => k != 2) = [] ∧ 1 ∉ s.mgs.feeds ∧ (s.part 0).state ≠ .none)
    ∧ (let m := (module0 fun m => { m with feeds := [0, 2], phase := .border }).mgs
       2 ∈ m.feeds ∧ m.phase = .border ∧ (m.feeds.filter fun k => k != 2).length < 2)
    ∧ (∀ e ∈ [([0, 2], [0, 2], none), ([0, 1, 2], [0, 1], some 2), ([2], [2], none)], let sources := (List.range 3).filter fun k => e.1.contains k
       sources.take 2 = e.2.1 ∧ (sources.drop 2).head? = e.2.2)
    ∧ (List.range 36).all (fun b => ((module0 id).bed b).excluded == []) = true
    ∧ (let m := (module0 fun m => { m with refA := false, refB := false }).mgs
       m.refA = false ∧ m.refB = false) := by decide +kernel
/-- Image A bad, B good, controller 1, entropy sources 1 and 2; the trim fuses fail. -/
theorem test_power_up : shows (exec (.standbyPowerGood 0 false true true [1] [1, 2] .trimBad) State.reset)
    (fun t => t.mgs.phase == .standby && t.fw.active == 1 && t.mgs.mgcs == [1] && t.mgs.entropy == [1, 2] && t.mgs.spareSource == none
      && t.mgs.safeDefaults && t.tally.entropyFails == 1) = true := by decide +kernel
theorem test_power_up_held : shows (exec (.standbyPowerGood 1 true true true [0, 1, 2] [0, 1, 2] .identityBad) State.reset)
    (fun t => t.mgs.phase == .held && t.mgs.standby == [1]) = true := by decide +kernel
theorem test_standby_feed : shows (exec (.standbyFeedDrop 0) (module0 id)) (fun t => t.mgs.standby == [1] && t.mgs.phase == .released) = true := by
  decide +kernel
theorem test_standby_loss : shows (exec .standbyLoss (module0 id)) (fun t => t.mgs.phase == .off && t.parts == [] && t.cores == []) = true := by
  decide +kernel
theorem test_border_start : shows (exec (.borderPhaseStart ⟨[.station 53, .core 0 3 4, .bedPll 35], [], [], []⟩)
      { State.reset with mgs := { Mgs.reset with phase := .standby, feeds := [0, 2] } })
    (fun t => t.mgs.phase == .border && (t.arr 0).mapNext == [79] && (t.port 5).lost && !(t.port 4).lost && (t.bed 35).state == .failedCore) = true := by decide +kernel
theorem test_border_release : shows (exec .borderRelease (module0 fun m => { m with phase := .border, tick := 9 }))
    (fun t => t.mgs.phase == .released && t.mgs.releasedAt == 9) = true := by decide +kernel
theorem test_feed_drop : shows (exec (.feedDrop 1) (module0 id)) (fun t => t.mgs.feeds == [0, 2] && t.tally.feedDrops == 1) = true := by
  decide +kernel
theorem test_feed_reconnect : shows (exec (.feedReconnect 1) (module0 fun m => { m with feeds := [2] })) (fun t => t.mgs.feeds == [1, 2]) = true := by
  decide +kernel
theorem test_ref_loss : shows (exec (.refLoss 0) (module0 id)) (fun t => !t.mgs.refA && t.mgs.refBInUse) = true := by decide +kernel
theorem test_ref_restored : shows (exec (.referenceRestored 0) (module0 fun m => { m with refA := false, refBInUse := true }))
    (fun t => t.mgs.refA && t.mgs.refBInUse) = true := by decide +kernel
theorem test_pll : shows (exec (.trellisPllFailover true) (module0 id)) (fun t => t.mgs.tpll == 2) = true := by decide +kernel
theorem test_leak : shows (exec (.coolLeak true) (module0 id)) (fun t => t.mgs.coolLeak && t.gel.log.length == 1) = true := by decide +kernel
theorem test_commission : shows (exec (.commissionInput true) (module0 id)) (fun t => t.mgs.commission) = true := by decide

theorem witness_BedsTripWakeDrainAndCool :
    (let s := onBed job id; let d := s.bed 0
     s.railsUp = true ∧ d.branch = true ∧ (d.state = .waking ∨ d.state = .awake ∨ d.state = .draining) ∧ d.state ≠ .failedTransit
       ∧ d.converter = true ∧ d.monitor = true ∧ 0 ∈ s.bedParts 0 ∧ (s.part 0).state.live = true ∧ d.state ≠ .waking ∧ d.state = .awake
       ∧ (List.range 36).all (fun c => (feeders c).any fun f => f != 0 && (s.bed f).converter && (s.bed f).branch) = true)
    ∧ (∀ st ∈ [BedState.sleep, .offHeat, .failedCore], let d := (onBed job fun d => { d with state := st }).bed 0
       ¬ (d.state = .waking ∨ d.state = .awake ∨ d.state = .draining) ∧ d.state ≠ .draining)
    ∧ ({ onBed job id with mgs := { Mgs.reset with phase := .standby } }).railsUp = false
    ∧ (∀ r ∈ [(-60 : Int), 60], sensorPasses [r, 0, 0, 0] 0 = true) ∧ (∀ r ∈ [(-61 : Int), 61], sensorPasses [r, 0, 0, 0] 0 = false)
    ∧ (∀ e ∈ [(58, some 59), (59, none)], sensorsAfter [0, 0, 0, 0] [(2, e.1)] = (e.2.map fun n => (2, n)).toList)
    ∧ sensorsAfter [0, 200, 400, 600] [] = [(0, 0), (1, 0), (2, 0), (3, 0)] ∧ (sensorsAfter [0, 0, 0, 600] [(1, 3), (2, 4)]).length = 3
    ∧ (∀ e ∈ [(job, false), ({ job with sas := [], state := .ended }, true)], let s := onBed e.1 fun d => { d with state := .waking, fullTest := true, testing := true }
       (s.bed 0).state = .waking ∧ s.bedFree 0 = e.2 ∧ s.switching 1 0 = false)
    ∧ (let s := onBed job id; { s with fw := { s.fw with pending := [(1, 0)] } }.switching 1 0 = true)
    ∧ (let s := onBed job fun d => { d with state := .waking }
       (s.bed 0).fullTest = false ∧ (s.bed 0).testing = false ∧ s.bedOfArr 0 = 0 ∧ (s.arr 0).outAll = [] ∧ s.mgs.softEntries < 65535
         ∧ s.switching 1 0 = false)
    ∧ (∀ e ∈ [([0], 400), ([0, 1], 900)], let s := let t := onBed job fun d => { d with thermal := 900 }; { t with mgs := { t.mgs with feeds := e.1 } }
       (if s.mgs.feeds.length ≤ 1 then 400 else min (s.bed 0).fmax (min (s.bed 0).thermal s.mgs.ceiling)) = e.2) := by
  decide +kernel
theorem witness_BedsThrottleAndDrain :
    (∀ e ∈ [(44001, 0, 0), (44000, 0, 1), (43000, 1000, 1), (42999, 1000, 2)],
       let s := let t := onBed job id; { t with tune := { t.tune with powerLimit := 44000 }, mgs := { t.mgs with feeds := [0, 1] } }
       s.powerCap = 44000 ∧ (if s.powerCap < e.1 then 0 else if s.powerCap ≤ e.1 + e.2.1 then 1 else 2) = e.2.2)
    ∧ (∀ n ∈ [8, 9], let m := (module0 fun m => { m with below := n }).mgs
       decide (m.below < 9) = decide (n = 8))
    ∧ (∀ e ∈ [((950 : Int), 0), (949, 1), (901, 1), (900, 2)], let s := onBed job fun d => { d with sensors := [e.1, e.1, e.1, e.1] }
       (s.bed 0).state = .awake ∧ s.tune.throttleT * 10 = 950
         ∧ (if s.tune.throttleT * 10 ≤ (s.bed 0).temp then 0 else if (s.bed 0).temp ≤ s.tune.throttleT * 10 - 50 then 2 else 1) = e.2)
    ∧ (∀ n ∈ [1, 2], ((onBed job fun d => { d with excluded := (List.range (4 - n)).map fun i => (i, 0) }).bed 0).passing.length = n)
    ∧ (∀ e ∈ [(job, false), (scanned job, true)], let s := onBed e.1 fun d => { d with thermal := 400, sensors := [1020, 0, 0, 0] }
       (s.bed 0).state = .awake ∧ (s.bed 0).thermal = 400 ∧ s.tune.drainT * 10 ≤ (s.bed 0).temp ∧ 0 ∈ s.bedParts 0
         ∧ (s.part 0).state = .running ∧ (s.part 0).commitPending = false ∧ s.canScan 0 = e.2)
    ∧ (∀ st ∈ [PState.created, .ready, .placed, .resumable], ((onBed { job with state := st } id).part 0).state = st ∧ 0 ∈ (onBed { job with state := st } id).bedParts 0)
    ∧ ((onBed job fun d => { d with thermal := 400, sensors := [1019, 0, 0, 0] }).bed 0).temp < (onBed job id).tune.drainT * 10 := by
  decide +kernel
theorem test_branch_fault : shows (exec (.branchFault 0 true) (onBed job id))
    (fun t => (t.bed 0).latched && (t.bed 0).state == .failedCore && !(t.bed 0).branch && (t.part 0).endCode == 13) = true := by decide +kernel
theorem test_core_rail : shows (exec (.coreRailFault 0) (onBed job fun d => { d with trips := 0xFFFF })) (fun t => (t.bed 0).trips == 0xFFFF && (t.bed 0).freq == 0) = true := by
  decide +kernel
/-- Within 24 h of a re-enable a trip latches for good. -/
theorem test_lock_loss : shows (exec (.bedPllLockLoss 0) (onBed job fun d => { d with reenabledAt := 1 })) (fun t => (t.bed 0).latched) = true := by
  decide +kernel
theorem test_converter : shows (exec (.transitConverterFail 0) (onBed job id)) (fun t => !(t.bed 0).converter && (t.bed 0).state == .awake) = true := by
  decide +kernel
theorem test_monitor : shows (exec (.voltageMonitorCheck [0]) (onBed job id)) (fun t => (t.bed 0).state == .failedCore && !(t.bed 0).monitor) = true := by
  decide +kernel
theorem test_sensor_check : shows (exec (.thermalSensorCheck 0 [500, 500, 500, 561]) (onBed job id)) (fun t => (t.bed 0).excluded == [(3, 0)]) = true := by
  decide +kernel
theorem test_bed_wake : shows (exec (.bedWake 0) (onBed job fun d => { d with state := .sleep })) (fun t => (t.bed 0).state == .waking) = true := by
  decide +kernel
theorem test_bed_awake : shows (exec (.bedAwake 0 [] []) (onBed job fun d => { d with state := .waking })) (fun t => (t.bed 0).state == .awake && (t.bed 0).freq == 400) = true := by
  decide +kernel
/-- A core whose test fails at the wake is mapped out, a failed row of a core mapped to a spare row. -/
theorem test_bed_awake_repairs : shows (exec (.bedAwake 0 [.core 0 3 4, .scratchRow 0 7] []) (onBed job fun d => { d with state := .waking }))
    (fun t => (t.arr 0).mapNext == [79] && (t.arr 0).mappedOut == [] && t.mgs.softEntries == 2) = true := by decide +kernel
theorem test_bed_sleep : shows (exec (.bedSleep 0) (onBed { job with sas := [], state := .ended } id)) (fun t => (t.bed 0).state == .sleep) = true := by
  decide +kernel
theorem test_freq_step : shows (exec (.bedFreqStep 0) (let s := onBed job fun d => { d with freq := 410 }; { s with mgs := { s.mgs with feeds := [1] } }))
    (fun t => (t.bed 0).freq == 400) = true := by decide +kernel
theorem test_power_period : shows (exec (.powerControlPeriod 21001 500 350 400 480) (module0 fun m => { m with feeds := [0], ceiling := 410 }))
    (fun t => t.mgs.ceiling == 400 && t.mgs.below == 0 && t.powerCap == 21000) = true := by decide +kernel
theorem test_thermal_step : shows (exec (.thermalStep 0 [950, 0, 0, 0]) (onBed job id)) (fun t => (t.bed 0).thermal == 1075) = true := by decide +kernel
theorem test_bed_drain : shows (exec (.bedDrain 0) (onBed (scanned job) fun d => { d with thermal := 400, sensors := [1020, 0, 0, 0] }))
    (fun t => (t.bed 0).state == .draining && (t.part 0).state == .quiescing && (t.part 0).byDevice) = true := by decide +kernel
theorem test_drain_done : shows (exec (.bedDrainDone 0) (onBed { job with sas := [], state := .ended } fun d => { d with state := .draining }))
    (fun t => (t.bed 0).state == .offHeat) = true := by decide +kernel
theorem test_bed_crit : shows (exec (.bedCrit 0 1100) (onBed job id)) (fun t => (t.bed 0).state == .offHeat && (t.part 0).endCode == 13) = true := by
  decide +kernel
theorem test_off_heat : shows (exec (.offHeatRecover 0) (onBed job fun d => { d with state := .offHeat, sensors := [850, 0, 0, 0] }))
    (fun t => (t.bed 0).state == .sleep) = true := by decide +kernel

/-- Array 0 idle in an AWAKE bed, the others of its bed younger. -/
def checking (f : Arr → Arr) : State :=
  ((State.reset.setBed 0 { Bed.reset with state := .awake }).setArr 0 (f Arr.reset))

/-- A check-marked skein of one array in class 3 without a frame; its DIGEST is filled in. -/
def blankCheck : List Byte :=
  leBytes 6 (0x4B535849 + 2 ^ 32) ++ leBytes 2 4 ++ leBytes 8 (0x1200 + 2 ^ 32) ++ leBytes 8 336 ++ List.replicate 4 0 ++ leBytes 2 1
    ++ [3, 0xE4] ++ List.replicate 288 0 ++ leBytes 8 0x4B535845 ++ leBytes 8 336
def checkSkein : List Byte := blankCheck.take 0x80 ++ sha384 (blankDigest blankCheck) ++ blankCheck.drop 0xB0

theorem witness_CheckSkein : (∀ once ∈ [false, true], (checking fun a => { a with mappedOut := [599], failedOnce := once }).acceptsMarked 0 checkSkein = true)
    ∧ (checking id).acceptsMarked 0 [] = false := by decide +kernel
theorem witness_ChecksAndLossesTakeUnitsOutOfService :
    (∀ once ∈ [false, true], let s := checking fun a => { a with mappedOut := [599], failedOnce := once }
       s.nextCheck 0 = true ∧ (s.arr 0).failedOnce = once ∧ s.mgs.softEntries < 65535 ∧ ((s.arr 0).outAll.all fun o => o / 25 != 0) = true)
    ∧ (checking fun a => { a with lastCheck := 1 }).nextCheck 0 = false
    ∧ (let m := (module0 id).mgs
       1 ∈ m.entropy ∧ 2 ∉ m.entropy ∧ m.spareSource = some 2 ∧ 1 ∈ m.banks ∧ (m.banks.filter fun j => j != 1) ≠ []
         ∧ 2 ∈ m.mgcs ∧ (m.mgcs.filter fun j => j != 2) ≠ [] ∧ (module0 id).switching 0 2 = false)
    ∧ (let s := module0 id; { s with fw := { s.fw with pending := [(0, 2)] } }.switching 0 2 = true)
    ∧ (∀ e ∈ [[0], [0, 2]], let m := (module0 fun m => { m with entropy := e, spareSource := none }).mgs
       1 ∉ m.entropy ∧ m.spareSource ≠ some 1 ∧ m.phase ≠ .off)
    ∧ (let m := (module0 fun m => { m with entropy := [0], spareSource := none, banks := [1], mgcs := [2] }).mgs
       1 ∉ m.entropy ∧ m.spareSource ≠ some 1 ∧ 0 ∉ m.banks ∧ 1 ∈ m.banks ∧ (m.banks.filter fun j => j != 1) = []
         ∧ 0 ∉ m.mgcs ∧ 2 ∈ m.mgcs ∧ (m.mgcs.filter fun j => j != 2) = [] ∧ m.phase ≠ .off)
    ∧ (∀ c ∈ [false, true], ((onBed { job with conf := c } id).part 0).conf = c ∧ ((onBed { job with conf := c } id).part 0).state.live = true)
    ∧ (∀ st ∈ [0, 39, 40, 47, 48, 79], let s := module0 id
       s.railsUp = true ∧ (s.router (attachSite st)).failed = false ∧ (s.router (attachSite st)).dead = false)
    ∧ (let s := module0 id
       3 ∉ (s.flash 7).badChannels ∧ (List.range 8).all (fun o => !(s.flash o).badChannels.contains 3 && (s.flash o).state != 2) = true)
    ∧ (∀ f ∈ [{ Fs.reset with badChannels := [3] }, { Fs.reset with state := 2 }], let s := (module0 id).setFlash 0 f
       3 ∉ (s.flash 7).badChannels ∧ (3 ∈ (s.flash 0).badChannels ∨ (s.flash 0).state = 2))
    ∧ 3 ∈ (((module0 id).setFlash 7 { Fs.reset with badChannels := [3] }).flash 7).badChannels := by
  refine ⟨?_, ?_, ?_, ?_, ?_, ?_, ?_, ?_, ?_, ?_, ?_⟩ <;> decide +kernel
theorem test_check_passes : shows (exec (.periodicCheck 0 checkSkein []) (checking fun a => { a with failedOnce := true }))
    (fun t => !(t.arr 0).failedOnce && t.tally.checkRuns == 1) = true := by decide +kernel
/-- A second core of the same row: the site leaves service. -/
theorem test_check_fails : shows (exec (.periodicCheck 0 checkSkein [⟨1, 2, 3⟩]) (checking fun a => { a with mapNext := [23] }))
    (fun t => t.mgs.deadSites == [0] && t.tally.checkFails == 1) = true := by decide +kernel
theorem test_entropy : shows (exec (.entropyTestFail 0 false) (module0 id)) (fun t => t.mgs.entropy == [1, 2] && t.mgs.spareSource == none) = true := by
  decide +kernel
theorem test_entropy_restored : shows (exec (.entropyTestFail 1 true) (module0 fun m => { m with entropy := [0], spareSource := none }))
    (fun t => t.mgs.entropy.length == 2) = true := by decide +kernel
theorem test_bank : shows (exec (.keyStoreBankFail 0) (module0 fun m => { m with banks := [0] })) (fun t => t.mgs.banks == [] && (t.part 0).state == .running) = true := by
  decide +kernel
theorem test_mgc : shows (exec (.mgcFail 1) (module0 fun m => { m with mgcs := [1] })) (fun t => t.mgs.phase == .held && (t.part 0).state == .ended) = true := by
  decide +kernel
/-- Memory station 0 is at position 1 of side 0: site 1 (R15, R17). -/
theorem test_attach : shows (exec (.attachRouterFail 1) (module0 id)) (fun t => (t.mem 0).state == 2 && t.mgs.deadSites == [1]) = true := by decide +kernel
theorem test_nand : shows (exec (.nandChannelFail 7 3) ((module0 id).setFlash 0 { Fs.reset with badChannels := [3] })) (fun t => (t.flash 7).state == 2) = true := by
  decide +kernel

/-! ## Further clauses: traps, busy units, strict range faults, values, switchovers -/

/-- Slots of a job in trap mode `m`. -/
def trapping (m : Nat) (s : State) : State := s.setPart 0 { s.part 0 with set := { (s.part 0).set with trap := m } }

theorem witness_TrapModes : ∀ m ∈ [1, 2],
    (let s := trapping m (slot 2 2 0); let c := s.slotCore 0 0 0
      (s.atSlot 0 0 0).trapMode 0 = m ∧ s.Fires 0 0 0 2 2 ∧ c.matrixBusy 1 = false ∧ c.accOpenTo = 0 ∧ bitOf c.word 47 = false
        ∧ c.tileBusy 1 [0] = false)
    ∧ (let s := trapping m (slot 8 1 0); let c := s.slotCore 0 0 0
      (s.atSlot 0 0 0).trapMode 0 = m ∧ s.Fires 0 0 0 8 1 ∧ c.vectorFree ≤ 1 ∧ c.tileBusy 1 [0, 0] = false
        ∧ ((List.range 16).filter fun i => isInvalid (rowOp 0 (tileRow c.tiles 0 i 1)).2) = []) := by
  unfold State.Fires State.Due
  decide
/-- A signalling operation in a row: infinities of both signs, summed, are INVALID (R43). -/
theorem witness_TrapNoted : isInvalid (rowOp 0 [0x7F800000, 0xFF800000]).2 = true ∧ isNan32 (rowOp 0 [0x7FC00000]).1 = true := by decide +kernel

theorem witness_UnitsBusy :
    (∀ op ∈ [0, 1, 2, 3], (slotOn 8 op 0 fun c => { c with vectorFree := 5 }).Fires 0 0 0 8 op
      ∧ 1 < ((slotOn 8 op 0 fun c => { c with vectorFree := 5 }).slotCore 0 0 0).vectorFree)
    ∧ (slotOn 2 4 0 fun c => { c with vectorFree := 5 }).Fires 0 0 0 2 4
    ∧ (∀ op ∈ [2, 3], let s := slotOn 2 op 0 fun c => { c with tileFree := [(0, 5)] }
      s.Fires 0 0 0 2 op ∧ (s.slotCore 0 0 0).tileBusy 1 [0] = true) := by
  unfold State.Fires State.Due
  decide

/-- Core (0, 0) of array 0 in strict mode. -/
def strict (s : State) : State := s.setPart 0 { s.part 0 with strictMode := true }

theorem witness_StrictRangeFaults :
    (let q := (strict (arriving 0 [] Ring.reset)).part 0
     q.strictMode = true ∧ q.state.live = true ∧ bitOf q.fault.w0 63 = false ∧ q.endCode ≤ 1)
    ∧ (let h := writeHeader 1 0 0 15 4095; let s0 := strict (arriving h [1, 2, 3, 4, 5, 6, 7, 8] Ring.reset)
       let s := s0.setCore 0 ((s0.core 0).setCounter 15 0xFFFF)
       s.token 9 = some ⟨9, 0, 0, 0, .core 0 0 0, 0, none, [], .msg ⟨h, [1, 2, 3, 4, 5, 6, 7, 8], 2 ^ 39, 0⟩⟩ ∧ hdrType h = 3
         ∧ (arrivalPorts 0 0).contains 1 = true ∧ s.inOrder 9 (sameChannel ⟨h, [1, 2, 3, 4, 5, 6, 7, 8], 2 ^ 39, 0⟩) = true
         ∧ SMap.look 0 (s.core 0).seqs 0 = hdrSeq h ∧ (s.core 0).counter (hdrCnt h) = 0xFFFF)
    ∧ (let s := strict (landing 0 1 Desc.reset 0xFFFD (.doorbell 0 0 0 2 3))
       s.token 9 = some ⟨9, 0, 0, 0, .core 0 0 0, 0, none, [], .doorbell 0 0 0 2 3⟩ ∧ 0xFFFF < (s.core 0).counter 2 + 3)
    ∧ (let v : Desc := ⟨true, 0, 3, [0], 255, 0, 0, []⟩
       let s := strict (landing 0 4 v 0xFFFF (.tile 63 68 1 255 (List.replicate 64 1))); let c := s.core 0; let g := c.descCfg 63
       c.landingDesc 68 1 = some (63, false) ∧ (c.desc 63).seq = 255 ∧ 16 * (68 - g.buffer 1) + 64 = g.tbytes ∧ g.lcntEn = true
         ∧ c.counter g.lcnt = 0xFFFF)
    ∧ (let s := strict (landing 1 2 ⟨true, 0, 2, [], 0, 0, 0, []⟩ 0xFFFF (.ack 63 1)); let c := s.core 0
       (c.desc 63).opened = true ∧ (c.descCfg 63).lcntEn = true ∧ c.counter (c.descCfg 63).lcnt = 0xFFFF) := by decide
theorem test_direct_write_strict : shows (exec (.directWriteArrival 9 1) (let s := strict (arriving (writeHeader 1 0 0 15 4095) [1, 2, 3, 4, 5, 6, 7, 8] Ring.reset)
      s.setCore 0 ((s.core 0).setCounter 15 0xFFFF)))
    (fun t => (t.part 0).endCode == 5 && (t.part 0).state == .binding) = true := by decide

/-- Values of each kind: a block leaf, a conversion and a block scale meet them (R25-R27, R33-R37). -/
theorem witness_ValuesOfEachKind :
    val32 0x7FC00000 = .nan ∧ val32 0xFF800000 = .inf true ∧ (match val32 0x3FC00000 with
      | .fin neg m e => neg == false && m != 0 && decide ((m : Rat) * 2 ^ e = 3 / 2)
      | _ => false) = true
    ∧ (match val32 0x80000000 with
      | .fin neg m _ => neg && m == 0
      | _ => false) = true
    ∧ (blockLeaf [.fin false 3 0, .nan] (some (1, 0)) (some (1, 0))).1 = nan32
    ∧ blockLeaf [.inf true, .fin false 1 0] (some (1, 0)) (some (1, 0)) = (inf32 true, 0)
    ∧ blockLeaf [.inf true, .inf false] (some (1, 0)) (some (1, 0)) = (nan32, fInvalid)
    ∧ (blockLeaf [.fin false 3 0, .fin true 1 (-1)] (some (1, 0)) (some (1, 1))).1 = 0x40A00000#32 := by decide +kernel

/-- Site 4: a second spare of a direction already dead; a full map at a site that nobody uses. -/
theorem witness_SpareLanes :
    (let s0 := lanes [64]; let s := s0.setRouter 4 { s0.router 4 with deadDirs := [2] }
     32 * 2 + 7 ∈ (s.router 4).marked ∧ 2 ∈ (s.router 4).deadDirs ∧ ∃ k ∈ (s.router 4).spared, k / 32 = 2)
    ∧ (let s := (lanes []).setRouter 4 { (lanes []).router 4 with entries := [] }
       s.siteUsers 4 = [])
    ∧ (let s := (trainer { (trained 0 0 1) with owner := 31, dbEntry := some 7 } Ms.reset)
       stationAt (attachSite 79) = some 79 ∧ s.entersFrom 79 0 = true) := by decide +kernel

/-- Class 0 tokens from input 1 and 2: the one behind the last served goes first. -/
theorem witness_RoundRobin :
    let s := { routed (entW 2 6) { Router.reset with turn := 1 } (.credit 0 1) with
      net := [⟨9, 0, 0, 0, .router 0, 5, some (1, 3), [], .credit 0 1⟩, ⟨10, 0, 0, 0, .router 0, 5, some (36, 0), [], .credit 0 1⟩] }
    ∃ o ∈ s.net, ∃ u ∈ s.net, o.id ≠ u.id ∧ o.cls = 0 ∧ (s.asks 0 o &&& s.asks 0 u) ≠ 0 ∧ s.givesWay 0 o ≠ s.givesWay 0 u := by decide +kernel

/-- An element that switches its firmware. -/
def switches (e : Nat × Nat) (s : State) : State := { s with fw := { s.fw with pending := [e] } }
theorem witness_Switchovers :
    (∀ e ∈ [(0, 2), (1, 35), (2, 7), (3, 39), (4, 31)], (switches e (inState .quiescing)).switching e.1 e.2 = true
      ∧ (switches e (inState .quiescing)).switchingKind e.1 = true
      ∧ (switches e (inState .quiescing)).stationSwitches = decide (2 ≤ e.1) ∧ (inState .quiescing).switching e.1 e.2 = false)
    ∧ (inState .quiescing).stationSwitches = false ∧ (inState .quiescing).switchingKind 2 = false := by decide
/-- A part that no region's rate table holds, and a pending entry in a bad sector. -/
theorem witness_EngineReads :
    (let s := trainer { trained 0 0 1 with psets := SMap.put 0 (setWords 1 0 0) 7 (BitVec.ofNat 64 (2 ^ 24)) } Ms.reset
     (s.part 0).region 1 ≠ (s.part 0).region 2)
    ∧ (∀ e ∈ [([0xFD9C20000], true), ([], false)], ({ Ms.reset with poison := e.1 } : Ms).poisonIn 0xFD9C20000 4672 = e.2) := by decide +kernel
theorem witness_Votes :
    let d : Divergence := ⟨5, 0, 7, [(0, 1), (1, 2), (2, 1)], 1⟩
    3 ≤ d.codes.length ∧ d.codes.length < 2 * (d.codes.filter fun e => e.2 == 1).length
      ∧ ([1, 2, 3] : List W64).all (fun c =>
        decide (2 * ((⟨5, 0, 7, [(0, 1), (1, 2), (2, 3)], 1⟩ : Divergence).codes.filter fun e => e.2 == c).length ≤ 3)) = true := by decide
theorem witness_StagedDivergence : (diverged 4 0 [] []).divStaged 0 ⟨5, 0, 7, [(0, 1), (1, 2)], 0⟩ = true := by decide +kernel
theorem witness_JournalsGood : (diverged 4 0 [] []).journalsBad [journalAt 0 9] = false := by decide +kernel
theorem witness_EngineFree : ∀ n ∈ [0, 1], let s := diverged 1 0 [] []
    s.engineFree ((s.part 0).updater ((s.part 0).pset n) 0) 0 = true := by decide +kernel
/-- A dirty slot of a partition in bind-off, needed by a reader or not. -/
theorem witness_BindOffSlots : ∀ r ∈ [1, 2], let d := { block0 with dirty := true, evicting := true }
    let s := backed [] [] (dirOf d (threadOf false r Ms.reset)); let u := s.setPart 0 { s.part 0 with state := .binding }
    (u.part 0).state = .binding ∧ (u.part 0).conf = false ∧ d.dirty = true ∧ u.pendNeed 0 2 0 = 0
      ∧ decide (u.readersOf 0 2 0 ≠ 0) = decide (r = 2) := by decide +kernel
/-- Cast orders other than OUTPUTS last but one (R214), and a confidential creation. -/
theorem witness_CastOrders : (∀ n ∈ [0xE4, 0x6C, 0xE1], castOk n = true)
    ∧ (let s := ownedBy { job with state := .casting, castLeft := 0 :: [2, 1, 3], owner := 31 } idleCore .awake
       (s.part 0).castLeft = 0 :: [2, 1, 3] ∧ 2 ∈ [2, 1, 3] ∧ [2, 1, 3].Nodup ∧ (∀ k ∈ [2, 1, 3], 0 < k ∧ k < 4)
         ∧ (s.part 0).stopWaits = false ∧ s.bedsAwake 0 = true ∧ (s.part 0).owner < 32) := by decide +kernel
theorem witness_ConfidentialCreation :
    let s := spdmOn [(0, ⟨2, some (List.replicate 48 1), [1], 0⟩)] id
    (s.port 31).session ≠ none ∧ s.mgs.entropy ≠ [] ∧ s.mgs.banks ≠ [] ∧ (spdmOn [] id).mgs.entropy ≠ [] ∧ ((spdmOn [] id).port 31).session = none := by
  decide +kernel
/-- A scan-out whose cores' reads meet no error, and whose last sector is read or poisoned. -/
theorem witness_ScanOut :
    (let s := ownedBy { scanned job with state := .quiescing, image := some image1, sas := [] } idleCore .awake
     (s.part 0).image ≠ none ∧ ((s.scanReads 0 []).part 0).state = .quiescing ∧ ((s.scanReads 0 []).part 0).image ≠ none)
    ∧ (∀ poison ∈ [[], [0]], let s0 := ownedBy { scanned job with state := .quiescing, image := some image1, sas := [], set := { (scanned job).set with scanRegion := 1 } } idleCore .awake
       let s := s0.setMem 0 { Ms.reset with poison := poison.map fun _ => s0.imageSize 0 / 32 * 32 }
       (s.reading.ranges 0 1 [] (edgeRanges (0, s.imageSize 0))).2.2.isSome = (poison.isEmpty || decide (s.imageSize 0 % 32 = 0))) := by decide +kernel

end Sys2Proof.Tests
end

/-!
PROOFS. What outlives a fault and a trap: the counters of every core with their stickies. Retirement, MMA insertion, a fault's teardown
and a trap all leave them as they were, so a counter change is still there when its slot ends (R107).
-/
namespace Sys2Proof.Machine

/-- The counters of a core, with their stickies (R107). -/
def Core.counts (c : Core) : SMap (BitVec 16) × BitVec 16 := (c.counters, c.stickies)

/-- Every core of `t` has the counters and stickies that it has in `s`. -/
def State.SameCounts (s t : State) : Prop := ∀ k, (t.core k).counts = (s.core k).counts

theorem State.SameCounts.refl (s : State) : s.SameCounts s := fun _ => rfl

theorem State.SameCounts.trans {s t u : State} (h : s.SameCounts t) (g : t.SameCounts u) : s.SameCounts u :=
  fun k => (g k).trans (h k)

theorem State.SameCounts.of_cores {s t : State} (h : t.cores = s.cores) : s.SameCounts t := by
  intro k
  unfold State.core
  rw [h]

theorem State.SameCounts.setCore (s : State) {k : Nat} {c : Core} (h : c.counts = (s.core k).counts) :
    s.SameCounts (s.setCore k c) := by
  intro j
  rw [State.setCore_core]
  split
  · next e => rw [e, h]
  · rfl

theorem State.SameCounts.setPart {s t : State} (h : s.SameCounts t) (p : Nat) (q : Part) : s.SameCounts (t.setPart p q) := h

theorem State.SameCounts.mapCores (s : State) (l : List Nat) (f : Core → Core) (h0 : f Core.reset = Core.reset)
    (h : ∀ c, (f c).counts = c.counts) : s.SameCounts (mapCores s l f) := by
  intro k
  rw [mapCores_core s l f h0]
  split
  · exact h _
  · rfl

theorem State.SameCounts.foldl {α : Type} {g : State → α → State} (hg : ∀ u a, State.SameCounts u (g u a)) (l : List α) (s : State) :
    s.SameCounts (l.foldl g s) := by
  induction l generalizing s with
  | nil => exact State.SameCounts.refl s
  | cons a l ih => exact (hg s a).trans (ih (g s a))

/-! ## A fault (R227-R229) -/

theorem State.restoreShadows_sameCounts (s : State) (p : Nat) (l : List Nat) : s.SameCounts (s.restoreShadows p l) := by
  unfold State.restoreShadows
  dsimp only
  refine State.SameCounts.trans ?_ (State.SameCounts.foldl (fun u k => ?_) _ _)
  · exact State.SameCounts.mapCores (s.setPart p _) _ (fun c => { c with cfgShadow := c.cfg, progShadow := c.prog }) rfl fun _ => rfl
  · exact State.SameCounts.setCore u rfl

theorem abortLoads_sameCounts (s : State) (p : Nat) : s.SameCounts (abortLoads s p) := by
  unfold abortLoads
  split
  · exact (State.restoreShadows_sameCounts s _ _).trans (State.SameCounts.of_cores rfl)
  · exact State.SameCounts.refl s

/-- A core whose ports hold no message of the epochs that a flush discards (R210). -/
def Core.flushPorts (old : Nat → Bool) (c : Core) : Core :=
  { c with ports := SMap.mapV OutPort.reset (fun _ q => { q with out := q.out.filter fun m => !old m.epoch }) c.ports }

theorem flushTokens_cores (s : State) (p : Nat) (old : Nat → Bool) :
    (flushTokens s p old).1.cores = (mapCores s (s.part p).sas (Core.flushPorts old)).cores := by
  unfold flushTokens
  dsimp only
  split <;> rfl

theorem flushTokens_sameCounts (s : State) (p : Nat) (old : Nat → Bool) : s.SameCounts (flushTokens s p old).1 :=
  (State.SameCounts.mapCores s _ (Core.flushPorts old) rfl fun _ => rfl).trans (State.SameCounts.of_cores (flushTokens_cores s p old))

theorem freezeAll_sameCounts (s : State) (why : Freeze) (l : List Nat) : s.SameCounts (freezeAll s why l) := by
  rw [freezeAll_frame]
  exact State.SameCounts.of_cores rfl

/-- The state with the status word of partition `p` gathered, unless it is held over a suspension (R225). -/
def State.gatherLoaded (s : State) (p : Nat) : State :=
  if (s.part p).state != .suspended && (s.part p).state != .placed && (s.part p).state != .resumable then s.gather p else s

theorem State.gatherLoaded_sameCounts (s : State) (p : Nat) : s.SameCounts (s.gatherLoaded p) := by
  unfold State.gatherLoaded
  split <;> exact State.SameCounts.of_cores rfl

theorem startBindOff_cores (s : State) (p : Nat) (why : Freeze) (torn : Bool) :
    let v := abortLoads (s.gatherLoaded p) p
    (startBindOff s p why torn).cores = (flushTokens (freezeAll v why (v.part p).sas) p fun _ => true).1.cores := by
  unfold startBindOff State.gatherLoaded
  dsimp only
  rw [State.setPart_cores]
  generalize (flushTokens _ p fun _ => true).1 = flushed
  cases torn <;> rfl

theorem startBindOff_sameCounts (s : State) (p : Nat) (why : Freeze) (torn : Bool) : s.SameCounts (startBindOff s p why torn) :=
  ((((s.gatherLoaded_sameCounts p).trans (abortLoads_sameCounts _ p)).trans (freezeAll_sameCounts _ why _)).trans
    (flushTokens_sameCounts _ p fun _ => true)).trans (State.SameCounts.of_cores (startBindOff_cores s p why torn))

theorem faultPart_sameCounts (s : State) (p : Nat) (f : FaultInfo) : s.SameCounts (faultPart s p f) := by
  have recorded : ∀ q code source param, s.SameCounts ((s.setPart p q).event code source p param) :=
    fun _ _ _ _ => State.SameCounts.of_cores rfl
  unfold faultPart
  dsimp only
  split
  · exact State.SameCounts.refl s
  · refine State.SameCounts.setPart ?_ _ _
    split
    · exact recorded _ _ _ _
    · exact (recorded _ _ _ _).trans (startBindOff_sameCounts _ p .fault true)

theorem faultArr_sameCounts (s : State) (sa : Nat) (f : FaultInfo) : s.SameCounts (faultArr s sa f) := by
  unfold faultArr
  split
  · exact faultPart_sameCounts s _ f
  · exact State.SameCounts.refl s

/-! ## The cycles before a trap (R74, R103) -/

theorem Core.setColumns_counts (c : Core) (vs : List Column) : (c.setColumns vs).counts = c.counts := by
  unfold Core.setColumns
  generalize vs.zipIdx = l
  induction l generalizing c with
  | nil => rfl
  | cons a l ih => exact ih _

theorem State.note_sameCounts (s : State) (sa : Nat) (l : List TrapNote) : s.SameCounts (s.note sa l) := by
  unfold State.note
  dsimp only
  split <;> exact State.SameCounts.of_cores rfl

theorem State.insertMma_sameCounts (s : State) (sa x y : Nat) (m : MmaPend) (rest : List MmaPend) (n : Nat) :
    s.SameCounts (s.insertMma sa x y m rest n) := by
  unfold State.insertMma
  dsimp only
  split
  · exact State.SameCounts.setCore s (Core.setColumns_counts _ _)
  · refine State.SameCounts.trans ?_ (State.note_sameCounts _ _ _)
    exact State.SameCounts.setCore s (Core.setColumns_counts _ _)

theorem State.insertBefore_sameCounts (sa x y d : Nat) (l : List MmaPend) (s : State) : s.SameCounts (s.insertBefore sa x y d l) := by
  induction l generalizing s with
  | nil => exact State.SameCounts.refl s
  | cons m ms ih =>
    unfold State.insertBefore
    dsimp only
    split
    · exact State.SameCounts.refl s
    · split
      · exact State.insertMma_sameCounts _ _ _ _ _ _ _
      · exact (State.insertMma_sameCounts _ _ _ _ _ _ _).trans (ih _)

theorem State.credit_sameCounts (s : State) (p : Nat) (f : Option Feeder) (n : Nat) : s.SameCounts (s.credit p f n) := by
  unfold State.credit
  rcases f with _ | f
  · exact State.SameCounts.refl s
  · cases f <;> exact State.SameCounts.of_cores rfl

theorem State.retireMsg_sameCounts (s : State) (k ring : Nat) : s.SameCounts (s.retireMsg k ring) := by
  have stored : ∀ r, s.SameCounts (s.setCore k ((s.core k).setRing ring r)) := fun _ => State.SameCounts.setCore s rfl
  unfold State.retireMsg
  dsimp only
  split
  · exact (stored _).trans (State.credit_sameCounts _ _ _ _)
  · exact stored _

theorem State.settleCore_sameCounts (s : State) (d k : Nat) : s.SameCounts (s.settleCore d k) := by
  unfold State.settleCore
  dsimp only
  split
  · exact State.SameCounts.refl s
  · refine State.SameCounts.trans (State.SameCounts.setCore s ?_) (State.SameCounts.foldl (fun u a => ?_) _ _)
    · rfl
    · split
      · split
        · exact State.retireMsg_sameCounts _ _ _
        · exact State.SameCounts.refl u
      · exact State.SameCounts.refl u

theorem State.settle_sameCounts (s : State) (sa d : Nat) : s.SameCounts (s.settle sa d) := by
  unfold State.settle
  dsimp only
  exact (State.SameCounts.foldl (fun u k => State.insertBefore_sameCounts _ _ _ _ _ u) _ s).trans
    (State.SameCounts.foldl (fun u k => State.settleCore_sameCounts u d k) _ _)

/-! ## The trap (R42) -/

theorem trapPart_sameCounts (s : State) (sa x y : Nat) (e : TrapEvent) (multi : Bool) : s.SameCounts (trapPart s sa x y e multi) := by
  have torn : ∀ (b : Bool) (u : State) (p : Nat), s.SameCounts u →
      s.SameCounts (if b = true then startBindOff (freezeAll u .trap [sa]) p .trap true else u) := by
    intro b u p h
    cases b
    · exact h
    · exact (h.trans (freezeAll_sameCounts u .trap [sa])).trans (startBindOff_sameCounts _ p .trap true)
  have recorded : ∀ p q code source param, s.SameCounts ((s.setPart p q).event code source p param) :=
    fun _ _ _ _ _ => State.SameCounts.of_cores rfl
  unfold trapPart
  split
  · exact State.SameCounts.refl s
  · dsimp only
    split
    · exact torn _ _ _ (recorded _ _ _ _ _)
    · exact State.SameCounts.setPart (torn _ _ _ (recorded _ _ _ _ _)) _ _

theorem State.takeTrap_sameCounts (s : State) (sa : Nat) : s.SameCounts (s.takeTrap sa) := by
  unfold State.takeTrap
  dsimp only
  split
  · exact State.SameCounts.refl s
  · exact State.SameCounts.trans (State.SameCounts.of_cores rfl) (trapPart_sameCounts (s.setArr sa _) _ _ _ _ _)

/-- A slot's end changes no counter and no sticky, whether or not its array takes a trap then. -/
theorem State.slotEnds_sameCounts (s : State) (sa : Nat) : s.SameCounts (s.slotEnds sa) := by
  unfold State.slotEnds State.latch
  dsimp only
  split
  · exact State.SameCounts.refl s
  · split
    · exact (State.settle_sameCounts s _ _).trans (State.takeTrap_sameCounts _ _)
    · exact State.SameCounts.refl s

end Sys2Proof.Machine

/-!
PROOFS. The SYNC slots (R106) and the changes of a counter that they share with landings (R107); the loader's check of a SYNC slot.
-/
namespace Sys2Proof.Machine

/-! ## A counter and its sticky (R107) -/

theorem Core.increment_fst (c : Core) (i n : Nat) : (c.increment i n).1 =
    { c with counters := SMap.put 0 c.counters i (BitVec.ofNat 16 (min 0xFFFF (c.counter i + n))),
             stickies := if c.counter i + n ≤ 0xFFFF then c.stickies else c.stickies ||| (1#16 <<< i) } := by
  unfold Core.increment
  split
  · next h => rw [Nat.min_eq_right h]; rfl
  · next h => rw [Nat.min_eq_left (by omega)]; rfl

theorem Core.decrement_fst (c : Core) (i n : Nat) : (c.decrement i n).1 =
    { c with counters := SMap.put 0 c.counters i (BitVec.ofNat 16 (c.counter i - n)),
             stickies := if n ≤ c.counter i then c.stickies else c.stickies ||| (1#16 <<< i) } := by
  unfold Core.decrement
  split
  · rfl
  · next h => rw [Nat.sub_eq_zero_of_le (by omega)]; rfl

theorem Core.increment_inRange {c : Core} {i n : Nat} (h : c.counter i + n ≤ 0xFFFF) : (c.increment i n).2 = false := by
  unfold Core.increment
  rw [if_pos h]

theorem Core.decrement_inRange {c : Core} {i n : Nat} (h : n ≤ c.counter i) : (c.decrement i n).2 = false := by
  unfold Core.decrement
  rw [if_pos h]

/-- Cores with the same counters and stickies read the same counter. -/
theorem Core.counter_of_counts {a b : Core} (h : a.counts = b.counts) (i : Nat) : a.counter i = b.counter i := by
  have e : a.counters = b.counters := congrArg Prod.fst h
  unfold Core.counter
  rw [e]

theorem Core.stickies_of_counts {a b : Core} (h : a.counts = b.counts) : a.stickies = b.stickies := congrArg Prod.snd h

theorem Core.setCounter_counter (c : Core) (i v : Nat) : (c.setCounter i v).counter i = v % 2 ^ 16 := by
  unfold Core.counter Core.setCounter
  rw [SMap.look_put_same, BitVec.toNat_ofNat]

theorem Core.increment_saturates {c : Core} {i n : Nat} (h : 0xFFFF < c.counter i + n) : (c.increment i n).1 = (c.setCounter i 0xFFFF).stick i := by
  unfold Core.increment
  rw [if_neg (by omega)]

theorem Core.decrement_saturates {c : Core} {i n : Nat} (h : c.counter i < n) : (c.decrement i n).1 = (c.setCounter i 0).stick i := by
  unfold Core.decrement
  rw [if_neg (by omega)]

/-- A change within the range, or in lenient mode, raises no fault: the core is stored, and nothing else. -/
theorem State.afterCount_held {s : State} {sa : Nat} {r : Core × Bool} (h : r.2 = false ∨ s.strict sa = false) (x y : Nat) (f : FaultInfo) :
    s.afterCount sa x y r f = s.setCore (coreKey sa x y) r.1 := by
  unfold State.afterCount
  dsimp only
  rw [if_neg]
  rw [Bool.and_eq_true]
  rintro ⟨hr, hs⟩
  rcases h with h | h
  · rw [h] at hr
    cases hr
  · rw [h] at hs
    cases hs

/-- Strict or lenient, the counters are those of the core that was to be stored. -/
theorem State.afterCount_counts (s : State) (sa x y : Nat) (r : Core × Bool) (f : FaultInfo) :
    ((s.afterCount sa x y r f).core (coreKey sa x y)).counts = r.1.counts := by
  have stored : ((s.setCore (coreKey sa x y) r.1).core (coreKey sa x y)).counts = r.1.counts := by rw [State.setCore_core_same]
  unfold State.afterCount
  dsimp only
  split
  · exact (faultArr_sameCounts _ sa f _).trans stored
  · exact stored

theorem State.afterCount_slotEnds_counts (s : State) (sa x y : Nat) (r : Core × Bool) (f : FaultInfo) :
    (((s.afterCount sa x y r f).slotEnds sa).core (coreKey sa x y)).counts = r.1.counts :=
  (State.slotEnds_sameCounts _ sa _).trans (State.afterCount_counts s sa x y r f)

/-! ## The five slots (R106) -/

/-- The state after a slot that changed its counter as `r` says: the core, and whether the change left the range. -/
def State.countDone (s : State) (sa x y : Nat) (r : Core × Bool) : State :=
  let c := s.slotCore sa x y
  ((s.atSlot sa x y).afterCount sa x y (r.1.advance (s.dueAt sa x y) 0, r.2)
    (counterFault sa x y (syncSel c.word) 0 0 0 c.slot (s.dueAt sa x y))).slotEnds sa

section fires
variable {s : State} {sa x y : Nat}

theorem exec_fset_fires (h : s.Fires sa x y 5 0) : exec (.fset sa x y) s = .next (s.slotDone sa x y
    (((s.slotCore sa x y).setFlag (syncSel (s.slotCore sa x y).word) true).advance (s.dueAt sa x y) 0)) := State.exec_fires h _

theorem exec_fclr_fires (h : s.Fires sa x y 5 1) : exec (.fclr sa x y) s = .next (s.slotDone sa x y
    (((s.slotCore sa x y).setFlag (syncSel (s.slotCore sa x y).word) false).advance (s.dueAt sa x y) 0)) := State.exec_fires h _

theorem exec_cclr_fires (h : s.Fires sa x y 5 4) : exec (.cclr sa x y) s = .next (s.slotDone sa x y
    (((s.slotCore sa x y).setCounter (syncSel (s.slotCore sa x y).word) 0).advance (s.dueAt sa x y) 0)) := State.exec_fires h _

theorem exec_cinc_fires (h : s.Fires sa x y 5 2) : exec (.cinc sa x y) s = .next (s.countDone sa x y
    ((s.slotCore sa x y).increment (syncSel (s.slotCore sa x y).word) (syncValue (s.slotCore sa x y).word))) := State.exec_fires h _

theorem exec_cdec_fires (h : s.Fires sa x y 5 3) : exec (.cdec sa x y) s = .next (s.countDone sa x y
    ((s.slotCore sa x y).decrement (syncSel (s.slotCore sa x y).word) (syncValue (s.slotCore sa x y).word))) := State.exec_fires h _

theorem State.countDone_held {r : Core × Bool} (h : r.2 = false ∨ (s.atSlot sa x y).strict sa = false) :
    s.countDone sa x y r = s.slotDone sa x y (r.1.advance (s.dueAt sa x y) 0) := by
  unfold State.countDone
  dsimp only
  rw [State.afterCount_held (r := (r.1.advance (s.dueAt sa x y) 0, r.2)) h]
  rfl

theorem State.countDone_counts (r : Core × Bool) : ((s.countDone sa x y r).core (coreKey sa x y)).counts = r.1.counts :=
  State.afterCount_slotEnds_counts _ _ _ _ _ _

/-- A counter held at an end of its range has that value, and its sticky, in strict mode too. -/
theorem State.countDone_saturated {r : Core × Bool} {c : Core} {i v : Nat} (h : r.1 = (c.setCounter i v).stick i) (hv : v < 2 ^ 16) :
    ((s.countDone sa x y r).core (coreKey sa x y)).counter i = v
      ∧ ((s.countDone sa x y r).core (coreKey sa x y)).stickies = c.stickies ||| (1#16 <<< i) := by
  have e : ((s.countDone sa x y r).core (coreKey sa x y)).counts = ((c.setCounter i v).stick i).counts := by
    rw [State.countDone_counts, h]
  constructor
  · calc _ = ((c.setCounter i v).stick i).counter i := Core.counter_of_counts e i
      _ = v % 2 ^ 16 := Core.setCounter_counter c i v
      _ = v := Nat.mod_eq_of_lt hv
  · exact Core.stickies_of_counts e

end fires

/-! ## The loader's check (R106) -/

theorem slotUses_sync {op : Nat} (h : op ≤ 4) : slotUses 5 op = some (2 ^ 48 - 2 ^ 26) := if_pos h

theorem isOp_otherClass {w : W64} {cls : Nat} (h : slotClass w ≠ cls) (op : Nat) : isOp w cls op = false := by
  unfold isOp
  rw [beq_false_of_ne h, Bool.false_and]

theorem exists_mem_when {b : Bool} {r q : Nat} {ts : List Touch} : (∃ e ∈ when b r ts, e.1 = q) ↔ b = true ∧ r = q := by
  cases b <;> simp [when]

/-- What R106 rejects in the SEL and VALUE of a SYNC slot. -/
def syncBad (w : W64) : Bool :=
  if slotOp w ≤ 1 then decide (47 < syncSel w) || syncValue w != 0 else decide (15 < syncSel w) || (slotOp w == 4 && syncValue w != 0)

/-- A SYNC slot can break two rules: the general ones on DELTA and reserved bits, and R106's on SEL and VALUE. -/
theorem slotBreaches_sync {w : W64} (hc : slotClass w = 5) (ho : slotOp w ≤ 4) (ts : List Touch) :
    ∃ b, slotBreaches w ts = when b 0xB ts ++ when (syncBad w) 0xC ts := by
  have other : ∀ cls op, cls ≠ 5 → isOp w cls op = false := fun cls op h => isOp_otherClass (by rw [hc]; exact h.symm) op
  refine ⟨slotDelta w == 0 || w.toNat % 2 ^ 48 &&& (2 ^ 48 - 2 ^ 26) != w.toNat % 2 ^ 48, ?_⟩
  unfold slotBreaches syncBad syncSel syncValue
  simp [hc, slotUses_sync ho, other, when]

theorem syncBad_iff {w : W64} : syncBad w = true ↔ slotOp w ≤ 1 ∧ (47 < syncSel w ∨ syncValue w ≠ 0)
    ∨ 2 ≤ slotOp w ∧ 15 < syncSel w ∨ slotOp w = 4 ∧ syncValue w ≠ 0 := by
  unfold syncBad
  split
  · next h =>
    simp only [Bool.or_eq_true, decide_eq_true_eq, bne_iff_ne]
    omega
  · next h =>
    simp only [Bool.or_eq_true, Bool.and_eq_true, decide_eq_true_eq, beq_iff_eq, bne_iff_ne]
    omega

theorem slotBreaches_sync_reasonC {w : W64} (hc : slotClass w = 5) (ho : slotOp w ≤ 4) (ts : List Touch) :
    (∃ b ∈ slotBreaches w ts, b.1 = 0xC) ↔ syncBad w = true := by
  obtain ⟨b, e⟩ := slotBreaches_sync hc ho ts
  rw [e]
  simp only [List.mem_append, or_and_right, exists_or, exists_mem_when]
  simp

/-- Settles O12. FSET, FCLR and CCLR store their core. CINC and CDEC store theirs, and in strict mode may fault besides; the fault's
teardown and a trap of the slot's cycle keep every counter and sticky. The loader's reason 0x0C is R106's check alone. -/
theorem syncSlotsChangeOneFlagOrCounter : Obligations.SyncSlotsChangeOneFlagOrCounter := by
  unfold Obligations.SyncSlotsChangeOneFlagOrCounter
  intro s sa x y c d i v n
  refine ⟨exec_fset_fires, exec_fclr_fires, fun h hr => ?_, fun h hr => ?_, exec_cclr_fires, fun h hn => ?_, fun h hn => ?_,
    fun w ts hc ho => ?_⟩
  · rw [exec_cinc_fires h, State.countDone_held (hr.imp_left Core.increment_inRange), Core.increment_fst]
  · rw [exec_cdec_fires h, State.countDone_held (hr.imp_left Core.decrement_inRange), Core.decrement_fst]
  · rw [exec_cinc_fires h, yields_next]
    exact State.countDone_saturated (Core.increment_saturates hn) (by decide)
  · rw [exec_cdec_fires h, yields_next]
    exact State.countDone_saturated (Core.decrement_saturates hn) (by decide)
  · rw [slotBreaches_sync_reasonC hc ho, syncBad_iff]

end Sys2Proof.Machine

/-!
PROOFS. Where the bytes of a region lie (R139) and what a store does there: bytes, poison table, granule records (R143, R164). A store
is three walks over stations; each changes a station's stack, poison table and records alone, and only the first changes a byte.
-/
namespace Sys2Proof.Machine

/-! ## One place for each offset (R139) -/

theorem nth_eq_getElem {α : Type} (d : α) {l : List α} {i : Nat} (h : i < l.length) : nth d l i = l[i] := by
  induction l generalizing i with
  | nil => simp at h
  | cons a l ih =>
    cases i with
    | zero => rfl
    | succ i => exact ih (Nat.lt_of_succ_lt_succ h)

theorem RegionEnt.gran_pos (e : RegionEnt) : 0 < e.gran := Nat.two_pow_pos _

theorem RegionEnt.stations_nodup (e : RegionEnt) : e.stations.Nodup := List.nodup_range.filter _

/-- Two numbers name the same station only when they leave the same remainder. -/
theorem RegionEnt.station_inj {e : RegionEnt} (hn : e.stations.length ≠ 0) {i j : Nat}
    (h : nth 0 e.stations (i % e.stations.length) = nth 0 e.stations (j % e.stations.length)) :
    i % e.stations.length = j % e.stations.length := by
  have hi : ∀ k, k % e.stations.length < e.stations.length := fun k => Nat.mod_lt k (Nat.pos_of_ne_zero hn)
  rw [nth_eq_getElem 0 (hi i), nth_eq_getElem 0 (hi j)] at h
  exact e.stations_nodup.getElem_inj_iff.mp h

/-- An offset is fixed by its granule's station index, the granule's row in the share, and the byte in the granule. -/
theorem stripe_inj {g n a b : Nat} (hg : 0 < g) (hi : a / g % n = b / g % n)
    (h : a / (n * g) * g + a % g = b / (n * g) * g + b % g) : a = b := by
  have hsplit : ∀ k o, (k * g + o % g) / g = k ∧ (k * g + o % g) % g = o % g := fun k o =>
    ⟨by rw [Nat.add_comm, Nat.add_mul_div_right _ _ hg, Nat.div_eq_of_lt (Nat.mod_lt o hg), Nat.zero_add],
     by rw [Nat.add_comm, Nat.add_mul_mod_self_right, Nat.mod_mod]⟩
  have hrow : a / g / n = b / g / n := by
    rw [Nat.div_div_eq_div_mul, Nat.div_div_eq_div_mul, Nat.mul_comm g n, ← (hsplit (a / (n * g)) a).1, h, (hsplit _ b).1]
  have hbyte : a % g = b % g := by
    rw [← (hsplit (a / (n * g)) a).2, h, (hsplit _ b).2]
  have hgran : a / g = b / g := by
    rw [← Nat.div_add_mod (a / g) n, hrow, hi, Nat.div_add_mod]
  rw [← Nat.div_add_mod a g, hgran, hbyte, Nat.div_add_mod]

section striped
variable {q : Part} {r : Nat} (hn : (q.region r).stations.length ≠ 0)
include hn

theorem Part.place_inj {o1 o2 : Nat} (h : q.place r o1 = q.place r o2) : o1 = o2 := by
  obtain ⟨hst, ha⟩ := Prod.ext_iff.mp h
  have hi := RegionEnt.station_inj hn hst
  refine stripe_inj (q.region r).gran_pos hi ?_
  simp only [Part.place, hi, Nat.add_assoc] at ha
  exact Nat.add_left_cancel ha

/-- No two granules of a region share a record (R164). -/
theorem Part.sealAt_inj {g1 g2 : Nat} (h : q.sealAt r g1 = q.sealAt r g2) : g1 = g2 := by
  have hg := (q.region r).gran_pos
  obtain ⟨hst, ha⟩ := Prod.ext_iff.mp h
  simp only [Part.sealAt, Part.place, Nat.mul_div_cancel _ hg] at hst ha
  have hi := RegionEnt.station_inj hn hst
  rw [hst] at ha
  have hrow : g1 / (q.region r).stations.length = g2 / (q.region r).stations.length := by omega
  rw [← Nat.div_add_mod g1 (q.region r).stations.length, hrow, hi, Nat.div_add_mod]

end striped

/-! ## What a store may change -/

/-- `t` differs from `s` at most in the stacks, poison tables and granule records of stations. -/
structure State.Stored (s t : State) : Prop where
  ms : t = { s with ms := t.ms }
  mem : ∀ st, t.mem st = { s.mem st with stack := (t.mem st).stack, poison := (t.mem st).poison, seals := (t.mem st).seals }

theorem State.Stored.refl (s : State) : s.Stored s := ⟨rfl, fun _ => rfl⟩

theorem State.Stored.trans {s t u : State} (h : s.Stored t) (g : t.Stored u) : s.Stored u where
  ms := g.ms.trans (congrArg (fun x : State => { x with ms := u.ms }) h.ms)
  mem st := (g.mem st).trans (congrArg (fun m : Ms =>
    { m with stack := (u.mem st).stack, poison := (u.mem st).poison, seals := (u.mem st).seals }) (h.mem st))

theorem State.Stored.setMem (s : State) (k : Nat) (a : SMap Byte) (b : List Nat) (c : SMap Seal) :
    s.Stored (s.setMem k { s.mem k with stack := a, poison := b, seals := c }) where
  ms := rfl
  mem st := by
    rw [State.setMem_mem]
    split
    · next e => rw [e]
    · rfl

theorem State.Stored.part {s t : State} (h : s.Stored t) (p : Nat) : t.part p = s.part p := by
  rw [h.ms]
  rfl

theorem State.Stored.keys {s t : State} (h : s.Stored t) (st : Nat) : (t.mem st).keys = (s.mem st).keys := by
  rw [h.mem st]

/-- `t` differs from `s` at most in the poison tables and granule records of stations. -/
structure State.Marked (s t : State) : Prop extends State.Stored s t where
  stack : ∀ st, (t.mem st).stack = (s.mem st).stack

theorem State.Marked.refl (s : State) : s.Marked s := ⟨State.Stored.refl s, fun _ => rfl⟩

theorem State.Marked.trans {s t u : State} (h : s.Marked t) (g : t.Marked u) : s.Marked u :=
  ⟨h.toStored.trans g.toStored, fun st => (g.stack st).trans (h.stack st)⟩

theorem State.Marked.setMem (s : State) (k : Nat) (b : List Nat) (c : SMap Seal) :
    s.Marked (s.setMem k { s.mem k with poison := b, seals := c }) where
  toStored := State.Stored.setMem s k (s.mem k).stack b c
  stack st := by
    rw [State.setMem_mem]
    split
    · next e => rw [e]
    · rfl

theorem State.Marked.foldl {α : Type} {f : State → α → State} (hf : ∀ u x, State.Marked u (f u x)) (l : List α) (s : State) :
    s.Marked (l.foldl f s) :=
  List.foldlRecOn l f (State.Marked.refl s) fun u h x _ => h.trans (hf u x)

theorem State.cleanRange_marked (s : State) (p r : Nat) (w : Nat × Nat) : s.Marked (s.cleanRange p r w) :=
  State.Marked.foldl (fun u (x : Nat × Nat) => State.Marked.setMem u x.1 _ (u.mem x.1).seals) _ s

theorem State.sealGranule_marked (s : State) (p r g : Nat) : s.Marked (s.sealGranule p r g) :=
  State.Marked.setMem s _ (s.mem _).poison _

theorem State.sealRange_marked (s : State) (p r o n : Nat) : s.Marked (s.sealRange p r o n) := by
  unfold State.sealRange
  split
  · exact State.Marked.foldl (fun u g => u.sealGranule_marked p r g) _ s
  · exact State.Marked.refl s

/-! ## Bytes -/

/-- The byte at a place: station and stack-local address. -/
def State.byteAt (s : State) (a : Nat × Nat) : Byte := SMap.look 0 (s.mem a.1).stack a.2

/-- The state with one byte changed. -/
def State.putByte (s : State) (a : Nat × Nat) (b : Byte) : State :=
  s.setMem a.1 { s.mem a.1 with stack := SMap.put 0 (s.mem a.1).stack a.2 b }

theorem State.putByte_stored (s : State) (a : Nat × Nat) (b : Byte) : s.Stored (s.putByte a b) :=
  State.Stored.setMem s a.1 _ (s.mem a.1).poison (s.mem a.1).seals

theorem State.putByte_byteAt (s : State) (a x : Nat × Nat) (b : Byte) :
    (s.putByte a b).byteAt x = if x = a then b else s.byteAt x := by
  unfold State.putByte State.byteAt
  rw [State.setMem_mem]
  by_cases h1 : x.1 = a.1
  · rw [if_pos h1, SMap.look_put, ← h1]
    simp only [Prod.ext_iff, h1, true_and]
  · rw [if_neg h1, if_neg fun e => h1 (congrArg Prod.fst e)]

theorem State.Marked.byteAt {s t : State} (h : s.Marked t) (a : Nat × Nat) : t.byteAt a = s.byteAt a := by
  unfold State.byteAt
  rw [h.stack]

section bytes
variable {s : State} {p r : Nat} (hk : ((s.part p).region r).kind ≠ 2)
include hk

theorem State.locate_place (o : Nat) : s.locate p r o = some ((s.part p).place r o) := by
  unfold State.locate
  simp [hk]

theorem State.readRegion_bytes (o n : Nat) :
    s.readRegion p r o n = (List.range n).map fun i => s.byteAt ((s.part p).place r (o + i)) := by
  unfold State.readRegion
  simp only [State.locate_place hk]
  rfl

/-- Reading goes by the bytes alone. -/
theorem State.Stored.readRegion {t : State} (h : s.Stored t) {o n : Nat}
    (hb : ∀ i, i < n → t.byteAt ((s.part p).place r (o + i)) = s.byteAt ((s.part p).place r (o + i))) :
    t.readRegion p r o n = s.readRegion p r o n := by
  rw [State.readRegion_bytes hk, State.readRegion_bytes (by rwa [h.part]), h.part]
  exact List.map_congr_left fun i hi => hb i (List.mem_range.mp hi)

theorem State.writeRegion_cons (o : Nat) (b : Byte) (bs : List Byte) :
    s.writeRegion p r o (b :: bs) = (s.putByte ((s.part p).place r o) b).writeRegion p r (o + 1) bs := by
  rw [State.writeRegion, State.locate_place hk]
  rfl

theorem State.writeRegion_stored (o : Nat) (bs : List Byte) : s.Stored (s.writeRegion p r o bs) := by
  induction bs generalizing s o with
  | nil => exact State.Stored.refl s
  | cons b bs ih =>
    rw [State.writeRegion_cons hk]
    exact (s.putByte_stored _ b).trans (ih (s := s.putByte _ b) hk (o + 1))

/-- A place where no byte of the range lies keeps its byte. -/
theorem State.writeRegion_byteAt_other (o : Nat) (bs : List Byte) {a : Nat × Nat}
    (ha : ∀ i, i < bs.length → (s.part p).place r (o + i) ≠ a) : (s.writeRegion p r o bs).byteAt a = s.byteAt a := by
  induction bs generalizing s o with
  | nil => rfl
  | cons b bs ih =>
    have hrest : ∀ i, i < bs.length → (s.part p).place r (o + 1 + i) ≠ a := fun i hi => by
      rw [Nat.add_assoc, Nat.add_comm 1 i]
      exact ha (i + 1) (Nat.succ_lt_succ hi)
    rw [State.writeRegion_cons hk, ih (s := s.putByte _ b) hk (o + 1) hrest, State.putByte_byteAt]
    exact if_neg (ha 0 (Nat.succ_pos _)).symm

/-- Each place of the range takes its byte: no later byte of the range lies there. -/
theorem State.writeRegion_byteAt_in (hn : ((s.part p).region r).stations.length ≠ 0) (o : Nat) (bs : List Byte) {i : Nat}
    (hi : i < bs.length) : (s.writeRegion p r o bs).byteAt ((s.part p).place r (o + i)) = bs[i] := by
  induction bs generalizing s o i with
  | nil => simp at hi
  | cons b bs ih =>
    rw [State.writeRegion_cons hk]
    cases i with
    | zero =>
      have hlater : ∀ j, j < bs.length → (s.part p).place r (o + 1 + j) ≠ (s.part p).place r o := fun j _ e => by
        have := Part.place_inj hn e
        omega
      refine (State.writeRegion_byteAt_other (s := s.putByte _ b) hk (o + 1) bs hlater).trans ?_
      rw [State.putByte_byteAt]
      exact if_pos rfl
    | succ i =>
      have e : o + (i + 1) = o + 1 + i := by omega
      rw [e]
      exact ih (s := s.putByte _ b) hk hn (o + 1) (Nat.lt_of_succ_lt_succ hi)

end bytes

/-! ## Records of granules (R164) -/

/-- The record of a granule holds the tag of its bytes. -/
def State.Verifies (s : State) (p r g : Nat) : Prop := (s.sealOf p r g).tag = s.tagOf p r g (s.sealOf p r g).count

/-- The record that a granule takes when it is sealed: the next write count, and the tag under it. -/
def State.newSeal (s : State) (p r g : Nat) : Seal :=
  ⟨((s.sealOf p r g).count + 1) % 2 ^ 48, s.tagOf p r g (((s.sealOf p r g).count + 1) % 2 ^ 48)⟩

theorem State.sealGranule_eq (s : State) (p r g : Nat) :
    let a := (s.part p).sealAt r g
    s.sealGranule p r g = s.setMem a.1 { s.mem a.1 with seals := SMap.put Seal.fresh (s.mem a.1).seals a.2 (s.newSeal p r g) } := rfl

section tags
variable {s : State} {p r : Nat} (hn : ((s.part p).region r).stations.length ≠ 0)

include hn in
/-- Sealing a granule replaces its own record and no other granule's. -/
theorem State.sealGranule_sealOf (g j : Nat) :
    (s.sealGranule p r g).sealOf p r j = if j = g then s.newSeal p r g else s.sealOf p r j := by
  unfold State.sealOf
  dsimp only
  rw [State.sealGranule_eq, State.setMem_part, State.setMem_mem]
  by_cases hj : j = g
  · rw [hj, if_pos rfl, if_pos rfl, SMap.look_put_same]
  · rw [if_neg hj]
    split
    · next hst => rw [SMap.look_put_other _ _ _ fun ha => hj (Part.sealAt_inj hn (Prod.ext hst ha)), hst]
    · rfl

variable (hk : ((s.part p).region r).kind ≠ 2)
include hk

/-- A granule's tag goes by its bytes and its station's keys; neither its records nor the poison tables count. -/
theorem State.Marked.tagOf {t : State} (h : s.Marked t) (g count : Nat) : t.tagOf p r g count = s.tagOf p r g count := by
  unfold State.tagOf
  dsimp only
  rw [h.part, h.keys, State.Stored.readRegion hk h.toStored fun _ _ => h.byteAt _]

include hn

theorem State.sealGranule_verifies (g : Nat) : (s.sealGranule p r g).Verifies p r g := by
  unfold State.Verifies
  rw [(s.sealGranule_marked p r g).tagOf hk, State.sealGranule_sealOf hn, if_pos rfl]
  rfl

/-- Sealing any granule leaves every granule verifying that did. -/
theorem State.Verifies.sealGranule {j : Nat} (h : s.Verifies p r j) (g : Nat) : (s.sealGranule p r g).Verifies p r j := by
  by_cases hj : j = g
  · subst hj
    exact State.sealGranule_verifies hn hk j
  · unfold State.Verifies
    rw [(s.sealGranule_marked p r g).tagOf hk, State.sealGranule_sealOf hn, if_neg hj]
    exact h

/-- After a list of granules was sealed, those of the list and those that verified before verify. -/
theorem State.foldl_sealGranule_verifies (gs : List Nat) {j : Nat} (h : j ∈ gs ∨ s.Verifies p r j) :
    (gs.foldl (fun t g => t.sealGranule p r g) s).Verifies p r j := by
  induction gs generalizing s with
  | nil => exact h.resolve_left List.not_mem_nil
  | cons g gs ih =>
    have hp := (s.sealGranule_marked p r g).part p
    refine ih (s := s.sealGranule p r g) (by rwa [hp]) (by rwa [hp]) ?_
    rcases h with h | h
    · rcases List.mem_cons.mp h with rfl | h
      · exact .inr (State.sealGranule_verifies hn hk j)
      · exact .inl h
    · exact .inr (h.sealGranule hn hk g)

theorem State.sealRange_authentic (o n : Nat) : (s.sealRange p r o n).authentic p r o n = true := by
  unfold State.authentic
  rw [(s.sealRange_marked p r o n).part, Bool.or_eq_true, Bool.not_eq_true', List.all_eq_true]
  cases hs : (s.part p).spills r with
  | false => exact .inl rfl
  | true =>
    refine .inr fun g hg => beq_iff_eq.mpr ?_
    unfold State.sealRange
    rw [if_pos hs]
    exact State.foldl_sealGranule_verifies hn hk _ (.inl hg)

end tags

/-! ## A store -/

section store
variable {s : State} {p r : Nat} (hk : ((s.part p).region r).kind ≠ 2)
include hk

theorem State.storeRegion_stored (o : Nat) (bs : List Byte) : s.Stored (s.storeRegion p r o bs) :=
  ((State.writeRegion_stored hk o bs).trans (State.cleanRange_marked _ p r _).toStored).trans
    (State.sealRange_marked _ p r o bs.length).toStored

omit hk in
theorem State.storeRegion_byteAt (o : Nat) (bs : List Byte) (a : Nat × Nat) :
    (s.storeRegion p r o bs).byteAt a = (s.writeRegion p r o bs).byteAt a :=
  ((State.cleanRange_marked _ p r (o, bs.length)).trans (State.sealRange_marked _ p r o bs.length)).byteAt a

theorem State.storeRegion_byteAt_other (o : Nat) (bs : List Byte) {a : Nat × Nat}
    (ha : ∀ i, i < bs.length → (s.part p).place r (o + i) ≠ a) : (s.storeRegion p r o bs).byteAt a = s.byteAt a :=
  (State.storeRegion_byteAt o bs a).trans (State.writeRegion_byteAt_other hk o bs ha)

/-- A store reads back whole. -/
theorem State.storeRegion_readRegion_same (hn : ((s.part p).region r).stations.length ≠ 0) (o : Nat) (bs : List Byte) :
    (s.storeRegion p r o bs).readRegion p r o bs.length = bs := by
  have hp := (State.storeRegion_stored hk o bs).part p
  rw [State.readRegion_bytes (by rwa [hp]), hp]
  refine List.ext_getElem (by simp) fun i _ hi => ?_
  rw [List.getElem_map, List.getElem_range, State.storeRegion_byteAt, State.writeRegion_byteAt_in hk hn o bs hi]

theorem State.storeRegion_readRegion_other (hn : ((s.part p).region r).stations.length ≠ 0) {o o2 : Nat} {bs : List Byte}
    (h : o2 < o ∨ o + bs.length ≤ o2) : (s.storeRegion p r o bs).readRegion p r o2 1 = s.readRegion p r o2 1 := by
  refine (State.storeRegion_stored hk o bs).readRegion hk fun j hj => State.storeRegion_byteAt_other hk o bs fun i hi e => ?_
  have := Part.place_inj hn e
  omega

theorem State.storeRegion_authentic (hn : ((s.part p).region r).stations.length ≠ 0) (o : Nat) (bs : List Byte) :
    (s.storeRegion p r o bs).authentic p r o bs.length = true := by
  have hp := ((State.writeRegion_stored hk o bs).trans (State.cleanRange_marked _ p r (o, bs.length)).toStored).part p
  exact State.sealRange_authentic (by rwa [hp]) (by rwa [hp]) o bs.length

end store

/-! ## Beyond SIZE (R139) -/

theorem State.issue_outOfBounds {s : State} {st o : Nat} {a : Active} (h : (s.part a.req.part).outOfBounds a.req = some o) :
    s.issue st a = streamFault s a.req.part 1 st a.req.region o a.req.sa a.req.x a.req.y := by
  unfold State.issue
  rw [h]

theorem Part.outOfBounds_access {q : Part} {b : Request} (hk : b.kind = .read ∨ b.kind = .write)
    (h : (q.region b.region).size < b.offset + b.len) : q.outOfBounds b = some b.offset := by
  unfold Part.outOfBounds
  rcases hk with hk | hk
  · simp [hk, h]
  · simp [hk, h]

/-- A GATHER meets the first of its rows that ends beyond SIZE. -/
theorem Part.outOfBounds_gather {q : Part} {b : Request} {i : Nat} {pre rest : List Nat} (hk : b.kind = .gather)
    (hrows : b.rows = pre ++ i :: rest) :
    let w := b.len / b.rows.length
    (∀ j ∈ pre, b.offset + j * w + w ≤ (q.region b.region).size) → (q.region b.region).size < b.offset + i * w + w →
      q.outOfBounds b = some (b.offset + i * w) := by
  intro w hpre hi
  have hlen : (b.rows.length == 0) = false := by simp [hrows]
  have hfirst : (b.rows.find? fun j => decide ((q.region b.region).size < b.offset + j * w + w)) = some i :=
    List.find?_eq_some_iff_append.mpr ⟨decide_eq_true hi, pre, rest, hrows, fun j hj => by simpa using hpre j hj⟩
  unfold Part.outOfBounds
  simp only [hk, hlen, Bool.false_eq_true, if_false]
  rw [hfirst]
  rfl

/-- Settles O34. R139's rule is `Part.place` itself, one place each; a store writes the bytes at their places, and what follows in it
marks stations only. -/
theorem regionBytesLieInOnePlaceEach : Obligations.RegionBytesLieInOnePlaceEach := by
  unfold Obligations.RegionBytesLieInOnePlaceEach
  dsimp only
  intro s p r hn hk
  refine ⟨fun o => rfl, fun o1 o2 => Part.place_inj hn, fun o bs => ?_, fun st a hp hr => ?_⟩
  · have hstored := State.storeRegion_stored hk o bs
    exact ⟨State.storeRegion_readRegion_same hk hn o bs, fun o2 => State.storeRegion_readRegion_other hk hn,
      fun st a ha => State.storeRegion_byteAt_other hk o bs ha, hstored.mem, State.storeRegion_authentic hk hn o bs, hstored.ms⟩
  · subst hp hr
    exact ⟨fun hkind hend => State.issue_outOfBounds (Part.outOfBounds_access hkind hend),
      fun i rest pre hkind hrows hpre hi => State.issue_outOfBounds (Part.outOfBounds_gather hkind hrows hpre hi)⟩

end Sys2Proof.Machine

/-!
PROOFS. Requests of a session by their SEQ (R280): the window of accepted SEQs, what answering a request leaves, and the three ways a
request of an open session is handled.
-/
namespace Sys2Proof.Machine

/-! ## The window (R280) -/

/-- SEQ `k` is within the window below H and recorded as accepted. -/
def Sess.Holds (c : Sess) (k : Nat) : Prop := k ≤ c.hi ∧ c.hi < k + 64 ∧ c.window.getLsbD (c.hi - k) = true

theorem Sess.fresh_iff {c : Sess} {n : Nat} : c.fresh n = true ↔ c.hi < n ∨ (c.hi < n + 64 ∧ n ≤ c.hi ∧ ¬c.Holds n) := by
  unfold Sess.fresh Sess.Holds
  by_cases h : c.hi < n
  · simp [h]
  · simp only [Bool.or_eq_true, Bool.and_eq_true, decide_eq_true_eq, Bool.not_eq_true', h, false_or]
    have hle : n ≤ c.hi := Nat.le_of_not_lt h
    simp only [hle, true_and, not_and, Bool.not_eq_true]
    exact and_congr_right fun hw => ⟨fun e _ => e, fun e => e hw⟩

/-- H and the window are all that accepting changes. -/
theorem Sess.accept_frame (c : Sess) (n : Nat) : c.accept n = { c with hi := (c.accept n).hi, window := (c.accept n).window } := by
  unfold Sess.accept
  split <;> rfl

theorem Sess.accept_hi (c : Sess) (n : Nat) : (c.accept n).hi = max c.hi n := by
  unfold Sess.accept
  split
  · next h => exact (Nat.max_eq_right h.le).symm
  · next h => exact (Nat.max_eq_left (Nat.le_of_not_lt h)).symm

/-- A SEQ above H moves the window up: its own bit is set, and each SEQ below H keeps the bit it had. -/
theorem Sess.accept_window_above {c : Sess} {n k : Nat} (h : c.hi < n) (hk : k ≤ n) (hw : n < k + 64) :
    (c.accept n).window.getLsbD (n - k) = true ↔ k = n ∨ (k ≤ c.hi ∧ c.window.getLsbD (c.hi - k) = true) := by
  have hbit : n - k < 64 := by omega
  have hown : n - k = 0 ↔ k = n := by omega
  unfold Sess.accept
  rw [if_pos h]
  dsimp only
  split
  · have hold : ¬k ≤ c.hi := by omega
    simp [hown, hold]
  · have hold : n - c.hi ≤ n - k ↔ k ≤ c.hi := by omega
    have hplace : n - k - (n - c.hi) = c.hi - k := by omega
    rw [BitVec.getLsbD_or, BitVec.getLsbD_shiftLeft, hplace]
    simp [hbit, hold, hown, or_comm]

/-- A SEQ at H or below sets its own bit alone. -/
theorem Sess.accept_window_within {c : Sess} {n k : Nat} (h : n ≤ c.hi) (hk : k ≤ c.hi) (hw : c.hi < k + 64) :
    (c.accept n).window.getLsbD (c.hi - k) = true ↔ k = n ∨ c.window.getLsbD (c.hi - k) = true := by
  have hbit : c.hi - k < 64 := by omega
  have hown : c.hi ≤ c.hi - k + n ∧ c.hi - k - (c.hi - n) = 0 ↔ k = n := by omega
  unfold Sess.accept
  rw [if_neg (Nat.not_lt.mpr h), BitVec.getLsbD_or, BitVec.getLsbD_shiftLeft]
  simp [hbit, hown, or_comm]

/-- Below the new H, the SEQs recorded are the one accepted and those recorded before. -/
theorem Sess.accept_holds {c : Sess} {n k : Nat} (hk : k ≤ (c.accept n).hi) (hw : (c.accept n).hi < k + 64) :
    (c.accept n).Holds k ↔ k = n ∨ c.Holds k := by
  have hmax := Sess.accept_hi c n
  rw [Sess.Holds, Sess.Holds, and_iff_right hk, and_iff_right hw]
  rcases Nat.lt_or_ge c.hi n with h | h
  · rw [hmax, Nat.max_eq_right h.le] at hk hw
    rw [hmax, Nat.max_eq_right h.le, Sess.accept_window_above h hk hw, and_iff_right (a := c.hi < k + 64) (by omega)]
  · rw [hmax, Nat.max_eq_left h] at hk hw
    rw [hmax, Nat.max_eq_left h, Sess.accept_window_within h hk hw, and_iff_right hk, and_iff_right hw]

/-! ## Answering (R277, R280) -/

section reply
variable (s : State) (f : Frame) (key : List Byte) (a : DResp) (due : List (Nat × Nat × List Byte))

@[simp] theorem State.reply_sess (k : Nat) : (s.reply f key a due).sess k = s.sess k := State.setSeg_sess s f.seg _ k

theorem State.reply_txq : ((s.reply f key a due).seg f.seg).txq =
    (s.seg f.seg).txq ++ [⟨f.pdu.session, f.pdu.seq, a, due, f.pdu.kind, f.src, key⟩] :=
  congrArg Seg.txq (State.setSeg_seg_same s f.seg _)

theorem State.reply_frame : s.reply f key a due = { s with gel := (s.reply f key a due).gel } := rfl

end reply

@[simp] theorem State.closeSess_seg (s : State) (k n : Nat) : (s.closeSess k).seg n = s.seg n := by
  unfold State.closeSess
  split <;> rfl

theorem State.closeSess_role (s : State) (k : Nat) : ((s.closeSess k).sess k).role = 0 := by
  unfold State.closeSess
  split
  · next h => exact eq_of_beq h
  · unfold State.sessEvent
    rw [State.event_sess, State.setSess_sess_same]
    rfl

theorem State.closeSess_frame (s : State) (k : Nat) : s.closeSess k = { s with gel := (s.closeSess k).gel } := by
  unfold State.closeSess
  split <;> rfl

/-- The state with the answer of SEQ `q` among the session's 8 most recent, where the session has not ended. -/
def State.keepAnswer (s : State) (k q : Nat) (a : DResp) : State :=
  if (s.sess k).role == 0 then s else s.setSess k { s.sess k with recent := ((q, a) :: (s.sess k).recent).take 8 }

theorem State.keepAnswer_sess {s : State} {k : Nat} (h : (s.sess k).role ≠ 0) (q : Nat) (a : DResp) :
    (s.keepAnswer k q a).sess k = { s.sess k with recent := ((q, a) :: (s.sess k).recent).take 8 } := by
  unfold State.keepAnswer
  rw [if_neg (by simpa using h), State.setSess_sess_same]

@[simp] theorem State.keepAnswer_seg (s : State) (k q : Nat) (a : DResp) (n : Nat) : (s.keepAnswer k q a).seg n = s.seg n := by
  unfold State.keepAnswer
  split <;> rfl

theorem State.keepAnswer_frame (s : State) (k q : Nat) (a : DResp) :
    s.keepAnswer k q a = { s with gel := (s.keepAnswer k q a).gel } := by
  unfold State.keepAnswer
  split <;> rfl

section answered
variable (f : Frame) (key : List Byte) (r : Served)

/-- The answer is kept and queued; the session has not yet closed over a spent SEQ. -/
def State.answerQueued : State := (r.1.keepAnswer f.pdu.session f.pdu.seq r.2.1).reply f key r.2.1 r.2.2

theorem State.answerFrame_spent (hq : f.pdu.seq = 0xFFFFFFFF) :
    State.answerFrame f key r = (State.answerQueued f key r).closeSess f.pdu.session := if_pos (beq_iff_eq.mpr hq)

theorem State.answerFrame_unspent (hq : f.pdu.seq ≠ 0xFFFFFFFF) : State.answerFrame f key r = State.answerQueued f key r :=
  if_neg (mt beq_iff_eq.mp hq)

theorem State.answerQueued_txq : ((State.answerQueued f key r).seg f.seg).txq =
    (r.1.seg f.seg).txq ++ [⟨f.pdu.session, f.pdu.seq, r.2.1, r.2.2, f.pdu.kind, f.src, key⟩] := by
  rw [State.answerQueued, State.reply_txq, State.keepAnswer_seg]

theorem State.answerQueued_frame : State.answerQueued f key r = { r.1 with gel := (State.answerQueued f key r).gel } := by
  rw [State.answerQueued, State.reply_frame, State.keepAnswer_frame]

theorem State.answerFrame_sess (hq : f.pdu.seq ≠ 0xFFFFFFFF) (hr : (r.1.sess f.pdu.session).role ≠ 0) :
    (State.answerFrame f key r).sess f.pdu.session =
      { r.1.sess f.pdu.session with recent := ((f.pdu.seq, r.2.1) :: (r.1.sess f.pdu.session).recent).take 8 } := by
  rw [State.answerFrame_unspent f key r hq, State.answerQueued, State.reply_sess, State.keepAnswer_sess hr]

theorem State.answerFrame_role (hq : f.pdu.seq = 0xFFFFFFFF) : ((State.answerFrame f key r).sess f.pdu.session).role = 0 := by
  rw [State.answerFrame_spent f key r hq, State.closeSess_role]

theorem State.answerFrame_txq : ((State.answerFrame f key r).seg f.seg).txq =
    (r.1.seg f.seg).txq ++ [⟨f.pdu.session, f.pdu.seq, r.2.1, r.2.2, f.pdu.kind, f.src, key⟩] := by
  by_cases hq : f.pdu.seq = 0xFFFFFFFF
  · rw [State.answerFrame_spent f key r hq, State.closeSess_seg, State.answerQueued_txq]
  · rw [State.answerFrame_unspent f key r hq, State.answerQueued_txq]

theorem State.answerFrame_frame : State.answerFrame f key r = { r.1 with gel := (State.answerFrame f key r).gel } := by
  by_cases hq : f.pdu.seq = 0xFFFFFFFF
  · rw [State.answerFrame_spent f key r hq, State.closeSess_frame, State.answerQueued_frame]
  · rw [State.answerFrame_unspent f key r hq, ← State.answerQueued_frame]

end answered

/-! ## A request of an open session (R275-R280) -/

/-- The answer kept for a frame's SEQ is queued again, with the fields that still wait for it to leave. -/
def State.repeatAnswer (s : State) (f : Frame) (a : DResp) : State :=
  let c := s.sess f.pdu.session
  (s.setSess f.pdu.session { c with unsent := c.unsent.filter fun u => u.1 != f.pdu.seq }).reply f c.rsKey a (c.unsentOf f.pdu.seq)

/-- The frame is a good request of the kind, for this device. -/
structure State.Receives (s : State) (f : Frame) (kind : Nat) (body : List Byte) : Prop where
  on : s.gelOn = true
  fcs : f.fcsOk = true
  dst : f.dst = broadcast ∨ f.dst = macOf f.seg
  etherType : f.etherType = s.gel.etherType
  verDir : f.pdu.verDir = 1
  rsv : f.pdu.rsv = 0
  kind : f.pdu.kind = kind
  len : f.pdu.len = body.length
  short : body.length ≤ 1400

theorem State.Receives.frameIn {s : State} {f : Frame} {kind : Nat} {body : List Byte} (h : s.Receives f kind body) (t : State) :
    s.frameIn f kind body t = t := by
  have hgood : pduGood f.pdu kind body = true := by simp [pduGood, h.verDir, h.rsv, h.kind, h.len, h.short]
  have hdst : (f.dst == broadcast || f.dst == macOf f.seg) = true := by simpa using h.dst
  unfold State.frameIn
  simp [h.on, h.fcs, hdst, h.etherType, h.verDir, hgood]

/-- The frame is an authentic request of an open session that no switchover holds. -/
structure State.Admits (s : State) (f : Frame) (kind : Nat) (body : List Byte) : Prop extends s.Receives f kind body where
  ready : s.requestsWait = false
  role : (s.sess f.pdu.session).role ≠ 0
  opened : (s.sess f.pdu.session).opened = true
  tag : f.tag = gelTag (s.sess f.pdu.session).rqKey f.pdu.seq f.pdu.session 0 (frameCovered f body)

section admitted
variable {s : State} {f : Frame} {kind : Nat} {body : List Byte} (h : s.Admits f kind body) (act : State → Served)
include h

/-- Only the SEQ decides between R280's three cases. -/
theorem State.Admits.request : s.request f kind body act =
    if (s.sess f.pdu.session).fresh f.pdu.seq then
      State.answerFrame f (s.sess f.pdu.session).rsKey (act (s.setSess f.pdu.session ((s.sess f.pdu.session).accept f.pdu.seq)))
    else ((s.sess f.pdu.session).answered f.pdu.seq).elim s.countReplay (s.repeatAnswer f) := by
  have hsess : ((s.sess f.pdu.session).role != 0
      && ((s.sess f.pdu.session).opened || (kind == 3 && (s.sess f.pdu.session).seg == f.seg))) = true := by
    simp [h.role, h.opened]
  have htag : (f.tag != gelTag (s.sess f.pdu.session).rqKey f.pdu.seq f.pdu.session 0 (frameCovered f body)) = false :=
    bne_eq_false_iff_eq.mpr h.tag
  unfold State.request State.unlessHeld
  dsimp only
  rw [h.ready, h.frameIn, hsess, htag]
  cases (s.sess f.pdu.session).answered f.pdu.seq <;> rfl

theorem State.Admits.request_fresh (hq : (s.sess f.pdu.session).fresh f.pdu.seq = true) :
    s.request f kind body act = State.answerFrame f (s.sess f.pdu.session).rsKey
      (act (s.setSess f.pdu.session ((s.sess f.pdu.session).accept f.pdu.seq))) :=
  (h.request act).trans (if_pos hq)

theorem State.Admits.request_duplicate (hq : (s.sess f.pdu.session).fresh f.pdu.seq = false) {a : DResp}
    (ha : (s.sess f.pdu.session).answered f.pdu.seq = some a) :
    s.request f kind body act = s.repeatAnswer f a := by
  rw [h.request, hq, ha]
  rfl

theorem State.Admits.request_replay (hq : (s.sess f.pdu.session).fresh f.pdu.seq = false)
    (ha : (s.sess f.pdu.session).answered f.pdu.seq = none) : s.request f kind body act = s.countReplay := by
  rw [h.request, hq, ha]
  rfl

end admitted

/-! ## The five kinds of request -/

/-- A command is handled as a session's request of a kind, with a body and an action. -/
def ExecutesAs (c : Instr) (s : State) (f : Frame) (kind : Nat) (body : List Byte) (act : State → Served) : Prop :=
  exec c s = guardUnit (segOk f.seg) (s.request f kind body act)

theorem ExecutesAs.next {c : Instr} {s : State} {f : Frame} {kind : Nat} {body : List Byte} {act : State → Served}
    (h : ExecutesAs c s f kind body act) (hseg : f.seg < 2) : exec c s = .next (s.request f kind body act) :=
  h.trans (guardUnit_of (decide_eq_true hseg) _)

section kinds
variable (s : State) (f : Frame) (i sub n o : Nat) (data : List Byte)

theorem exec_close : ExecutesAs (.close f) s f 4 [] fun u => (u.closeSess f.pdu.session, ⟨0, []⟩, []) := rfl

theorem exec_expRead : ExecutesAs (.expRead f i sub) s f 0x10 (leBytes 2 i ++ leBytes 1 sub ++ leBytes 1 f.pdu.rsv)
    fun u => u.expReadAct f.pdu.session i sub := rfl

theorem exec_expWrite :
    let d8 := (data ++ zeros 8).take 8
    ExecutesAs (.expWrite f i sub n data) s f 0x11 (leBytes 2 i ++ leBytes 1 sub ++ leBytes 1 n ++ d8)
      fun u => u.expWriteAct f.pdu.session i sub n d8 := rfl

theorem exec_segRead : ExecutesAs (.segRead f i sub o n) s f 0x12
    (leBytes 2 i ++ leBytes 1 sub ++ leBytes 1 f.pdu.rsv ++ leBytes 4 o ++ leBytes 2 n)
    fun u => u.segReadAct f.pdu.session i sub o n := rfl

theorem exec_segWrite : ExecutesAs (.segWrite f i sub n o data) s f 0x13
    (leBytes 2 i ++ leBytes 1 sub ++ leBytes 1 f.pdu.rsv ++ leBytes 4 n ++ leBytes 4 o ++ data)
    fun u => u.segWriteAct f.pdu.session i sub n o data := rfl

end kinds

theorem State.countReplay_eq (s : State) :
    s.countReplay = { s with gel := { s.gel with replays := min 0xFFFFFFFF (s.gel.replays + 1) } } := rfl

/-- Settles O54. The window's clauses are `Sess.accept`'s; each of the five commands is `State.request` with an action of its own, and of
an admitted request the SEQ alone decides which of R280's three cases it is. -/
theorem requestsExecuteOnceByTheirSequence : Obligations.RequestsExecuteOnceByTheirSequence := by
  unfold Obligations.RequestsExecuteOnceByTheirSequence
  refine ⟨fun c n => ⟨Sess.fresh_iff, fun _ => ⟨Sess.accept_hi c n, fun k => Sess.accept_holds, Sess.accept_frame c n⟩⟩, ?_⟩
  intro s f i sub n o data hseg hon hready hfcs hdst hether hver hrsv k q c hrole hopened u at0 d8 table e he body r
    hkind hlen hshort htag
  have hadmits : s.Admits f e.2.1 body :=
    ⟨⟨hon, hfcs, hdst, hether, hver, hrsv, hkind, hlen, hshort⟩, hready, hrole, hopened, htag⟩
  obtain ⟨act, hexec, hact⟩ : ∃ act, ExecutesAs e.1 s f e.2.1 body act ∧ r = act u := by
    simp only [table, List.mem_cons, List.not_mem_nil, or_false] at he
    rcases he with rfl | rfl | rfl | rfl | rfl
    · exact ⟨_, exec_close s f, rfl⟩
    · exact ⟨_, hrsv ▸ exec_expRead s f i sub, rfl⟩
    · exact ⟨_, exec_expWrite s f i sub n data, rfl⟩
    · exact ⟨_, hrsv ▸ exec_segRead s f i sub n o, rfl⟩
    · exact ⟨_, hrsv ▸ exec_segWrite s f i sub n o data, rfl⟩
  rw [hexec.next hseg, hact]
  refine ⟨fun hq => ?_, fun x hq hx => ?_, fun hq hx => ?_⟩
  · rw [hadmits.request_fresh act hq, yields_next]
    exact ⟨State.answerFrame_sess f _ _, State.answerFrame_txq f _ _, State.answerFrame_role f _ _, State.answerFrame_frame f _ _⟩
  · rw [hadmits.request_duplicate act hq (congrArg (Option.map Prod.snd) hx)]
    rfl
  · rw [hadmits.request_replay act hq (congrArg (Option.map Prod.snd) hx), State.countReplay_eq]

end Sys2Proof.Machine
